-- ==== Sys2Proof/Word.lean ====
section
/-!
DEFINITION. The word types of Walwick (00 R4): bytes, halves, words, doubles, quads, and their plainest views.
-/
namespace Sys2Proof

/-- 8 bits (00 R4). -/
abbrev Byte := BitVec 8
/-- 16 bits (00 R4). -/
abbrev Half := BitVec 16
/-- 32 bits (00 R4). -/
abbrev Word := BitVec 32
/-- 64 bits (00 R4). -/
abbrev DWord := BitVec 64
/-- A register selector field of 7 bits (02 R32). -/
abbrev Sel := BitVec 7
/-- A predicate field of 3 bits (02 R32). -/
abbrev PSel := BitVec 3

/-- Bits `hi` down to `lo` of a natural number, as an unsigned value (00 R6, `x[hi:lo]`). -/
def bits (x hi lo : Nat) : Nat := (x >>> lo) % 2 ^ (hi + 1 - lo)

/-- Bit `i` of a natural number. -/
def bitAt (x i : Nat) : Bool := (x >>> i) % 2 == 1

end Sys2Proof
end

