-- ==== Sys2Proof/Config.lean ====
section
/-!
DEFINITION. What an implementation fixes, and the free values: constants WITHOUT A BODY, so that nothing can
evaluate them or prove a value of them. A statement that mentions one holds for every value of it.
-/
namespace Sys2Proof.Config

/-- Free choice between two values the spec allows (01 R19, R21, R23; 10 R214): which one is taken, by the step's nonce,
a reader and a place. Log entry 2. -/
opaque freeBit : Nat → Nat → Nat → Bool

/-- A free word where the spec states an effect and no value, by the step's nonce and a place. Log entry 2. -/
opaque freeWord : Nat → Nat → Word

/-- What a byte of HBM4 reads as before its first store event: unspecified, and the same on every read (11 R219).
Log entry 3. Bytes that became unspecified again are numbered from 2^46 up, by when they did. -/
opaque unwritten : Nat → Byte

/-- What a byte of the serial flash holds before the model knows it (21 R394). Log entry 3. -/
opaque flashByte : Nat → Byte

/-- The fixed hash that names the home slice of a line among `n` slices (10 R210). Log entry 6. -/
opaque homeHash : Nat → Nat → Nat

/-- STEPPING of DEVID, per part (00 R2). Log entry 6. -/
opaque stepping : Byte

/-- SAVESIZE, bytes of a context save area, per part (20 R371, 17 R348). Log entry 6. -/
opaque saveSize : Word

/-- The arithmetic revision of the part, word w45 of the attestation report (21 R401). Log entry 6. -/
opaque arithRevision : Word

/-- Bytes of the serial flash (21 R394). Log entry 3. -/
opaque flashSize : Nat

/-- The vendor's ML-DSA-87 verification key in boot ROM (21 R395). Log entry 7. -/
opaque vendorKey : List Byte

/-- The 32-byte seed that the start-up pattern of the SRAM array gives, from which the device identity key is derived (21 R399).
Log entry 7. -/
opaque deviceSeed : List Byte

/-- The random bytes of a signature, by a number (21 R399, FIPS 204). Log entry 7. -/
opaque signRandom : Nat → List Byte

/-- The arithmetic section of a bitstream body (21 R401); the body's layout is not given. Log entry 7. -/
opaque arithSection : List Byte → List Byte

/-- Whether HBM4 stack `k` trains, with the lane repairs applied, at the start that a number names (21 R397, step 4). Log
entry 7. -/
opaque stackTrains : List Byte → Nat → Nat → Bool

/-- Ethernet lanes that train on port `p` at the start that a number names (21 R397, step 1). Log entry 7. -/
opaque lanesTrained : Nat → Nat → Nat

/-- What the body of a configuration record gives (21 R396). Its layout is not given: the reading is a free value.
`deadSlices` are (cluster, partition, slice), `deadBanks` (cluster, bank); `homes0` and `homes1` count the home slices of each
die, `channels` the enabled channels of each stack; electrical trims and HBM4 lane repairs as bytes. -/
structure RecordBody where
  clusters0 : Nat
  clusters1 : Nat
  deadSlices : List (Nat × Nat × Nat)
  deadBanks : List (Nat × Nat)
  homes0 : Nat
  homes1 : Nat
  channels : List Nat
  hbmStacks : List Nat
  lanes0 : Nat
  lanes1 : Nat
  capacity0 : Nat
  capacity1 : Nat
  trims : List Byte
  repairs : List Byte
  powerLimit : Nat
  publicKey : List Byte
  deriving DecidableEq, Repr, Inhabited

/-- The values that the body of a configuration record gives (21 R396). Log entry 7. -/
opaque recordBody : List Byte → RecordBody

/-- DEVID: ISALEVEL 0x01, STEPPING per part, PART 0x4D08 (00 R2). -/
def devid : Word := (0x01 : BitVec 8) ++ stepping ++ (0x4D08 : BitVec 16)

end Sys2Proof.Config
end

