-- ==== Sys2Proof/Syntax.lean ====
section
/-!
DEFINITION. The instructions and steps of the Omtanos M8, one constructor per row of spec/opcode_table.json.
Rows 0 to 189 are instruction words (02 R34 to R38); rows 190 to 291 are steps of the device, packets and messages,
which have no encoding and carry the operands that name the agent, the object or the message they concern.
-/
namespace Sys2Proof

/-- Who executes: the thread of a lane of a crew, or a helper by its recruiter's lane and its worker number
(05 R100, 07 R144). -/
inductive Tid where
  | lane (l : Nat)
  | helper (recruiter worker : Nat)
  deriving DecidableEq, Repr, Inhabited

/-- Where a packet comes from: a direct packet of the register window (20 R371), or user queue `n` (20 R372). -/
inductive PktSrc where
  | direct
  | queue (n : Nat)
  deriving DecidableEq, Repr, Inhabited

/-- One field of a packet (20 R375, R380): identifier, MAND, and the words after its header. -/
structure PktField where
  id : Nat
  mand : Bool
  words : List Word
  deriving DecidableEq, Repr, Inhabited

/-- The header of a Lensel request (20 R388, R389): the master's identity and IP address, and its sequence number. -/
structure Req where
  master : DWord
  ip : Nat
  seq : Word
  deriving DecidableEq, Repr, Inhabited

/-- The addressing of an inbound RoCEv2 message (19 R363): source address, destination and source queue pair. -/
structure NetHdr where
  addr : Nat
  dqp : Nat
  sqp : Nat
  deriving DecidableEq, Repr, Inhabited

/-- Every row of spec/opcode_table.json, in the table's order. Field names: `d a b` selectors, `k` the constant bit,
`st` stall count, `imm` immediate, `off` offset, `sb` scoreboard slot, `q` no return value, `p n` predicate and its
inversion, `c` condition, `m` mask register, `lvl` level code. -/
inductive Instr where
  | iadd (d a b : Sel) (k : Bool) (st : BitVec 3)
  | isub (d a b : Sel) (k : Bool) (st : BitVec 3)
  | imul (d a b : Sel) (k : Bool) (st : BitVec 3)
  | imulhi (d a b : Sel) (k : Bool) (st : BitVec 3)
  | imulhu (d a b : Sel) (k : Bool) (st : BitVec 3)
  | imad (d a b : Sel) (k : Bool) (st : BitVec 3)
  | and (d a b : Sel) (k : Bool) (st : BitVec 3)
  | or (d a b : Sel) (k : Bool) (st : BitVec 3)
  | xor (d a b : Sel) (k : Bool) (st : BitVec 3)
  | andn (d a b : Sel) (k : Bool) (st : BitVec 3)
  | shl (d a b : Sel) (k : Bool) (st : BitVec 3)
  | shr (d a b : Sel) (k : Bool) (st : BitVec 3)
  | sar (d a b : Sel) (k : Bool) (st : BitVec 3)
  | imin (d a b : Sel) (k : Bool) (st : BitVec 3)
  | imax (d a b : Sel) (k : Bool) (st : BitVec 3)
  | umin (d a b : Sel) (k : Bool) (st : BitVec 3)
  | umax (d a b : Sel) (k : Bool) (st : BitVec 3)
  | iaddi (d a : Sel) (imm : BitVec 8) (st : BitVec 3)
  | andi (d a : Sel) (imm : BitVec 8) (st : BitVec 3)
  | ori (d a : Sel) (imm : BitVec 8) (st : BitVec 3)
  | xori (d a : Sel) (imm : BitVec 8) (st : BitVec 3)
  | shli (d a : Sel) (imm : BitVec 5) (st : BitVec 3)
  | shri (d a : Sel) (imm : BitVec 5) (st : BitVec 3)
  | sari (d a : Sel) (imm : BitVec 5) (st : BitVec 3)
  | imuli (d a : Sel) (imm : BitVec 8) (st : BitVec 3)
  | iadd64 (d a b : Sel) (k : Bool) (st : BitVec 3)
  | isub64 (d a b : Sel) (k : Bool) (st : BitVec 3)
  | lea (d a b : Sel) (c : BitVec 2) (u : Bool)
  | bfe (d a b : Sel) (k : Bool) (st : BitVec 3)
  | bfi (d a b : Sel) (k : Bool) (st : BitVec 3)
  | popc (d a : Sel) (st : BitVec 3)
  | clz (d a : Sel) (st : BitVec 3)
  | ctz (d a : Sel) (st : BitVec 3)
  | brev (d a : Sel) (st : BitVec 3)
  | bswap (d a : Sel) (st : BitVec 3)
  | iabs (d a : Sel) (st : BitVec 3)
  | ineg (d a : Sel) (st : BitVec 3)
  | not (d a : Sel) (st : BitVec 3)
  | idot4 (d a b : Sel) (k : Bool) (st : BitVec 3)
  | mov (d a : Sel) (st : BitVec 3)
  | movi (d : Sel) (imm : BitVec 15) (st : BitVec 3)
  | lit (d : Sel) (st : BitVec 3) (lit : Word)
  | icmp (p : BitVec 3) (c : BitVec 4) (a b : Sel) (k : Bool) (st : BitVec 3)
  | sel (d a b : Sel) (p : BitVec 3) (n : Bool)
  | plop (p : BitVec 3) (c : BitVec 4) (a b st : BitVec 3)
  | pget (d : Sel)
  | pset (a : Sel)
  | sreg (d : Sel) (imm : BitVec 8) (st : BitVec 3)
  | fadd (d a b : Sel) (k : Bool) (st : BitVec 3)
  | fsub (d a b : Sel) (k : Bool) (st : BitVec 3)
  | fmul (d a b : Sel) (k : Bool) (st : BitVec 3)
  | ffma (d a b : Sel) (k : Bool) (st : BitVec 3)
  | fmin (d a b : Sel) (k : Bool) (st : BitVec 3)
  | fmax (d a b : Sel) (k : Bool) (st : BitVec 3)
  | fcmp (p : BitVec 3) (c : BitVec 4) (a b : Sel) (k : Bool) (st : BitVec 3)
  | fabs (d a : Sel) (st : BitVec 3)
  | fneg (d a : Sel) (st : BitVec 3)
  | frcp (d a : Sel) (st : BitVec 3)
  | frsq (d a : Sel) (st : BitVec 3)
  | fsqrt (d a : Sel) (st : BitVec 3)
  | fexp2 (d a : Sel) (st : BitVec 3)
  | flog2 (d a : Sel) (st : BitVec 3)
  | fsin (d a : Sel) (st : BitVec 3)
  | fcos (d a : Sel) (st : BitVec 3)
  | ffloor (d a : Sel) (st : BitVec 3)
  | fceil (d a : Sel) (st : BitVec 3)
  | ftrunc (d a : Sel) (st : BitVec 3)
  | frint (d a : Sel) (st : BitVec 3)
  | fclass (d a : Sel) (st : BitVec 3)
  | hadd2 (d a b : Sel) (k : Bool) (st : BitVec 3)
  | hmul2 (d a b : Sel) (k : Bool) (st : BitVec 3)
  | hfma2 (d a b : Sel) (k : Bool) (st : BitVec 3)
  | badd2 (d a b : Sel) (k : Bool) (st : BitVec 3)
  | bmul2 (d a b : Sel) (k : Bool) (st : BitVec 3)
  | bfma2 (d a b : Sel) (k : Bool) (st : BitVec 3)
  | fcvt (d a b : Sel) (st : BitVec 3)
  | dadd (d a b : Sel) (k : Bool) (st : BitVec 3)
  | dmul (d a b : Sel) (k : Bool) (st : BitVec 3)
  | dfma (d a b : Sel) (k : Bool) (st : BitVec 3)
  | dcmp (p : BitVec 3) (c : BitVec 4) (a b : Sel) (k : Bool) (st : BitVec 3)
  | dcvt (d a b : Sel) (st : BitVec 3)
  | ldb (d a : Sel) (off : BitVec 8) (sb : BitVec 3)
  | ldbs (d a : Sel) (off : BitVec 8) (sb : BitVec 3)
  | ldh (d a : Sel) (off : BitVec 8) (sb : BitVec 3)
  | ldhs (d a : Sel) (off : BitVec 8) (sb : BitVec 3)
  | ldw (d a : Sel) (off : BitVec 8) (sb : BitVec 3)
  | ldd (d a : Sel) (off : BitVec 8) (sb : BitVec 3)
  | ldq (d a : Sel) (off : BitVec 8) (sb : BitVec 3)
  | stb (d a : Sel) (off : BitVec 8) (sb : BitVec 3)
  | sth (d a : Sel) (off : BitVec 8) (sb : BitVec 3)
  | stw (d a : Sel) (off : BitVec 8) (sb : BitVec 3)
  | std (d a : Sel) (off : BitVec 8) (sb : BitVec 3)
  | stq (d a : Sel) (off : BitVec 8) (sb : BitVec 3)
  | stnt (d a : Sel) (off : BitVec 8) (sb : BitVec 3)
  | drain
  | fence
  | pref (lvl a : Sel) (off : BitVec 8)
  | cctlIinv (a : Sel) (off : BitVec 8)
  | cctlIinvall (a : Sel) (off : BitVec 8)
  | cctlEvict (a : Sel) (off : BitVec 8)
  | cctlZero (a : Sel) (off : BitVec 8)
  | aadd (d a b : Sel) (q : Bool) (sb : BitVec 3)
  | aand (d a b : Sel) (q : Bool) (sb : BitVec 3)
  | aor (d a b : Sel) (q : Bool) (sb : BitVec 3)
  | axor (d a b : Sel) (q : Bool) (sb : BitVec 3)
  | amin (d a b : Sel) (q : Bool) (sb : BitVec 3)
  | amax (d a b : Sel) (q : Bool) (sb : BitVec 3)
  | aumin (d a b : Sel) (q : Bool) (sb : BitVec 3)
  | aumax (d a b : Sel) (q : Bool) (sb : BitVec 3)
  | axchg (d a b : Sel) (q : Bool) (sb : BitVec 3)
  | acas (d a b : Sel) (q : Bool) (sb : BitVec 3)
  | afadd (d a b : Sel) (q : Bool) (sb : BitVec 3)
  | afaddt (d a b : Sel) (sb : BitVec 3)
  | tsopen (d a : Sel)
  | tclose (a b : Sel)
  | tdrain (a : Sel)
  | tdrainF (a : Sel)
  | tsbind (a : Sel)
  | bra (p : BitVec 3) (n : Bool) (off : BitVec 18) (f : BitVec 3)
  | call (p : BitVec 3) (n : Bool) (off : BitVec 18) (f : BitVec 3)
  | jmpr (a : Sel)
  | jmprL (d a : Sel)
  | ret (a : Sel)
  | msplit (d : Sel) (p : BitVec 3) (m : BitVec 4)
  | mjoin (m : BitVec 4)
  | exit
  | waitsb (m : BitVec 6) (st : BitVec 3)
  | nop (st : BitVec 3)
  | shfli (d a b : Sel) (m : BitVec 4)
  | shflu (d a b : Sel) (m : BitVec 4)
  | shfld (d a b : Sel) (m : BitVec 4)
  | shflx (d a b : Sel) (m : BitVec 4)
  | vote (p q : BitVec 3) (n : Bool) (off : BitVec 2) (m : BitVec 4)
  | ballot (d : Sel) (p : BitVec 3) (n : Bool) (m : BitVec 4)
  | scan (d a : Sel) (ex : Bool) (off : BitVec 5) (m : BitVec 4)
  | redux (d a : Sel) (off : BitVec 5) (m : BitVec 4)
  | elect (p : BitVec 3) (m : BitVec 4)
  | bar
  | barSeam
  | matchW (d a : Sel) (m : BitVec 4)
  | matchD (d a : Sel) (m : BitVec 4)
  | rand (d : Sel)
  | randQ (d : Sel)
  | randF (d : Sel)
  | recruit (d a b : Sel) (k : Bool) (st : BitVec 3) (lit : Word)
  | hnext (d : Sel) (p : BitVec 3) (n : Bool)
  | hrelease (d : Sel)
  | hstat (d : Sel)
  | hstatNext (d : Sel)
  | hstatCount (d : Sel)
  | cpin (a : Sel)
  | cpinr (a : Sel)
  | cpout (a : Sel)
  | cpgath (a b : Sel)
  | cpmc (a b : Sel)
  | cpnet (a b : Sel)
  | cppf (a b : Sel)
  | syinit (a b : Sel)
  | syarr (a b : Sel)
  | sywait (a b : Sel)
  | sytest (a b : Sel)
  | waitc (c n : Sel)
  | cntrd (a c : Sel)
  | mma (a b : Sel)
  | mmas (a b : Sel)
  | mrast (a b : Sel)
  | mfilt (a b : Sel)
  | mzero (t : Bool) (n : BitVec 3)
  | mstat (a : Sel)
  | mstatC (a : Sel)
  | spawn (a b : Sel)
  | spawnn (a b : Sel)
  | cancelchk (a : Sel)
  | lvlrd (a b : Sel)
  | lvlcancel (b : Sel)
  | seedrd (a : Sel)
  | qhold (b : Sel)
  | qrun (b : Sel)
  | shpset (a b : Sel)
  | shpfree (b : Sel)
  | shprd (a b : Sel)
  | trap (b : Sel)
  | bkpt (b : Sel)
  | cregr (a b : Sel)
  | cregw (a b : Sel)
  | yield
  | sleep (b : Sel)
  | fqpop (a b : Sel)
  | resume (a b : Sel)
  | tlbinv (a b : Sel)
  | bankSwitch (cl : Nat)
  | clauseFetch
  | loadReturn (crew op : Nat)
  | faultRecordPost (ctx : Nat)
  | sleepExpiry (crew : Nat) (who : Tid)
  | crewToPending (crew : Nat)
  | pendingCrewEntry (cl part : Nat)
  | activeCrewRotation (cl part : Nat)
  | helperSuspend (crew lane worker : Nat)
  | helperResume (crew lane worker : Nat)
  | crewEnd (crew : Nat)
  | seamComplete (seam : Nat)
  | hoistDispatch (die : Nat)
  | crewPlacement (seam : Nat)
  | handlerPlacement (ctx : Nat)
  | watchdogExpiry (ctx : Nat)
  | ticketUpdateArrival (upd : Nat)
  | ticketUpdateRetry (upd : Nat)
  | ticketStallExpiry (slot : Nat)
  | atomicAtHome (atom : Nat)
  | copyArrival (crew copy part : Nat)
  | netRetransmitTimeout (crew copy : Nat)
  | netTransportFailure (crew copy : Nat)
  | cpnetComplete (crew copy : Nat) (data : List Byte)
  | matrixStep (cl : Nat)
  | postOperator (crew : Nat)
  | fifoPush (cl bank : Nat)
  | fifoPop (cl bank : Nat)
  | pageWalk (ctx va : Nat)
  | contextSave (ctx : Nat)
  | killComplete (ctx : Nat)
  | migration (mig : Nat)
  | launchSeedPush (src : PktSrc)
  | queueUnbindComplete (src : PktSrc)
  | packetGuardPoll (queue : Nat)
  | queueMap
  | queueIdleUnmap (queue : Nat)
  | queueOverdueSwap
  | kick (queue : Nat) (w : Word)
  | pktgo (len : Word)
  | queueEnable (queue : Nat) (w : Word)
  | queueDisable (queue : Nat)
  | pwrcap (w : Word)
  | registerWrite (off : Nat) (w : Word)
  | throttleAdjust (mhz : Nat) (throttled : Bool)
  | eventResend (event : Nat)
  | leaseLapse
  | recoverySessionTimeout
  | deviceStart
  | rdmaWrite (h : NetHdr) (off : Nat) (rkey : Word) (data : List Byte)
  | rdmaRead (h : NetHdr) (off : Nat) (rkey : Word) (len : Nat)
  | sendMsg (h : NetHdr) (data : List Byte)
  | regrd (r : Req) (off count : Nat)
  | regwr (r : Req) (off : Nat) (ws : List Word)
  | claim (r : Req)
  | renew (r : Req)
  | handover (r : Req) (target : DWord)
  | releaseOwner (r : Req)
  | halt (r : Req) (ctx : Nat) (attach : Bool)
  | stepThread (r : Req) (ctx crew : Nat) (who : Tid)
  | stepcrew (r : Req) (ctx crew : Nat)
  | runCtx (r : Req) (ctx : Nat)
  | dread (r : Req) (ctx crew off len : Nat)
  | attquery (r : Req) (nonce : List Word)
  | recbegin (r : Req) (kind : Nat)
  | recdata (r : Req) (off : Nat) (data : List Byte)
  | reccommit (r : Req)
  | recreset (r : Req)
  | recinfo (r : Req)
  | evack (r : Req) (event : Nat)
  | nopPacket (src : PktSrc) (f : List PktField)
  | ctxnew (src : PktSrc) (f : List PktField)
  | ctxkill (src : PktSrc) (f : List PktField)
  | preempt (src : PktSrc) (f : List PktField)
  | ctxrun (src : PktSrc) (f : List PktField)
  | qbind (src : PktSrc) (f : List PktField)
  | qunbind (src : PktSrc) (f : List PktField)
  | recact (src : PktSrc) (f : List PktField)
  | limits (src : PktSrc) (f : List PktField)
  | wdrestart (src : PktSrc) (f : List PktField)
  | peers (src : PktSrc) (f : List PktField)
  | exportWin (src : PktSrc) (f : List PktField)
  | rxring (src : PktSrc) (f : List PktField)
  | migrate (src : PktSrc) (f : List PktField)
  | evict (src : PktSrc) (f : List PktField)
  | sopen (src : PktSrc) (f : List PktField)
  | sfree (src : PktSrc) (f : List PktField)
  | jobopen (src : PktSrc) (f : List PktField)
  | jobclose (src : PktSrc) (f : List PktField)
  | phaseopen (src : PktSrc) (f : List PktField)
  | phaseclose (src : PktSrc) (f : List PktField)
  | graphopen (src : PktSrc) (f : List PktField)
  | graphclose (src : PktSrc) (f : List PktField)
  | launch (src : PktSrc) (f : List PktField)
  | cancel (src : PktSrc) (f : List PktField)
  | waitPacket (src : PktSrc) (f : List PktField)
  | fencePacket (src : PktSrc) (f : List PktField)
  | seedpush (src : PktSrc) (f : List PktField)
  | seedpop (src : PktSrc) (f : List PktField)
  | seedfork (src : PktSrc) (f : List PktField)
  | pendingStoreEvent (crew : Nat) (who : Tid) (idx : Nat)
  | uncorrectableError (pa : Nat)
  deriving DecidableEq, Repr, Inhabited

end Sys2Proof
end

