-- ==== Sys2Proof/WellFormed.lean ====
section
/-!
DEFINITION. Which instruction words are well formed: reserved values of fields (02 R38, R39), the selector rules of
02 R33, and the alignment of pairs and quads (01 R13). With them the static tables the machine reads of an instruction:
its register and predicate operands, its stall count (02 R35), its latency (02 R36) and its length in words.
-/
namespace Sys2Proof

/-- How an instruction uses a register operand. -/
inductive Role where
  | src
  | dst
  | both
  deriving DecidableEq, Repr

/-- Which selectors an entry admits in an operand field: any, vector only, or scalar only (02 R33). -/
inductive SelClass where
  | any
  | vector
  | scalar
  deriving DecidableEq, Repr

/-- A register operand: its selector, how many consecutive registers it names, how it is used, the class its entry
demands, whether R13 aligns it (a block of scalar registers is aligned by its entry instead), and whether it counts for
the scalar-destination rule of 02 R33 (a mask register of BALLOT and REDUX does not, 06 R127). -/
structure Opnd where
  sel : Sel
  words : Nat
  role : Role
  cls : SelClass
  aligned : Bool
  counts : Bool
  deriving DecidableEq, Repr

/-- Selectors 0x60 to 0x7F are scalar registers (02 R32). -/
def isScalar (s : Sel) : Bool := decide (96 ≤ s.toNat)

namespace Opnd
/-- A source of `n` registers. -/
def src (s : Sel) (n : Nat) : Opnd := ⟨s, n, .src, .any, true, true⟩
/-- A destination of `n` registers. -/
def dst (s : Sel) (n : Nat) : Opnd := ⟨s, n, .dst, .any, true, true⟩
/-- A destination that is read as well (03 R44). -/
def both (s : Sel) (n : Nat) : Opnd := ⟨s, n, .both, .any, true, true⟩
/-- A destination that must be vector. -/
def vdst (s : Sel) (n : Nat) : Opnd := ⟨s, n, .dst, .vector, true, true⟩
/-- A source that must be scalar (format X, and the stream operands of format A). -/
def ssrc (s : Sel) (n : Nat) : Opnd := ⟨s, n, .src, .scalar, true, true⟩
/-- A destination that must be scalar. -/
def sdst (s : Sel) (n : Nat) : Opnd := ⟨s, n, .dst, .scalar, true, true⟩
/-- A scalar register read and written. -/
def sboth (s : Sel) (n : Nat) : Opnd := ⟨s, n, .both, .scalar, true, true⟩
/-- A block of `n` scalar registers that is read; its entry gives its alignment. -/
def sblk (s : Sel) (n : Nat) : Opnd := ⟨s, n, .src, .scalar, false, true⟩
/-- A block of `n` scalar registers that is written. -/
def sdblk (s : Sel) (n : Nat) : Opnd := ⟨s, n, .dst, .scalar, false, true⟩
/-- The mask register v(80 + M) of format L (02 R32). -/
def msrc (m : BitVec 4) : Opnd := ⟨BitVec.ofNat 7 (80 + m.toNat), 1, .src, .vector, true, false⟩
/-- The B operand of formats R and RC: none where K = 1 makes it a constant (02 R34). -/
def bsrc (k : Bool) (s : Sel) (n : Nat) : List Opnd := if k then [] else [src s n]

/-- Whether the operand is read. -/
def isRead (o : Opnd) : Bool := o.role != .dst
/-- Whether the operand is written. -/
def isWritten (o : Opnd) : Bool := o.role != .src
/-- The alignment of R13: a pair at an even register, a quad at a multiple of 4. -/
def isAligned (o : Opnd) : Bool := !o.aligned || o.sel.toNat % o.words == 0
/-- The class that the entry demands. -/
def classOk (o : Opnd) : Bool :=
  match o.cls with
  | .any => true
  | .vector => !isScalar o.sel
  | .scalar => isScalar o.sel
end Opnd

/-- Registers in a crew control register operand of CREGR and CREGW: a pair for numbers 6 and 7 (17 R343). -/
def cregWidth (n : Sel) : Nat := if n == 6 || n == 7 then 2 else 1

open Opnd in
/-- The register operands of an instruction, from the encoding of its entry. -/
def Instr.operands (i : Instr) : List Opnd :=
  match i with
  | .iadd d a b k _ => dst d 1 :: src a 1 :: bsrc k b 1
  | .isub d a b k _ => dst d 1 :: src a 1 :: bsrc k b 1
  | .imul d a b k _ => dst d 1 :: src a 1 :: bsrc k b 1
  | .imulhi d a b k _ => dst d 1 :: src a 1 :: bsrc k b 1
  | .imulhu d a b k _ => dst d 1 :: src a 1 :: bsrc k b 1
  | .imad d a b k _ => both d 1 :: src a 1 :: bsrc k b 1
  | .and d a b k _ => dst d 1 :: src a 1 :: bsrc k b 1
  | .or d a b k _ => dst d 1 :: src a 1 :: bsrc k b 1
  | .xor d a b k _ => dst d 1 :: src a 1 :: bsrc k b 1
  | .andn d a b k _ => dst d 1 :: src a 1 :: bsrc k b 1
  | .shl d a b k _ => dst d 1 :: src a 1 :: bsrc k b 1
  | .shr d a b k _ => dst d 1 :: src a 1 :: bsrc k b 1
  | .sar d a b k _ => dst d 1 :: src a 1 :: bsrc k b 1
  | .imin d a b k _ => dst d 1 :: src a 1 :: bsrc k b 1
  | .imax d a b k _ => dst d 1 :: src a 1 :: bsrc k b 1
  | .umin d a b k _ => dst d 1 :: src a 1 :: bsrc k b 1
  | .umax d a b k _ => dst d 1 :: src a 1 :: bsrc k b 1
  | .iaddi d a _ _ => [dst d 1, src a 1]
  | .andi d a _ _ => [dst d 1, src a 1]
  | .ori d a _ _ => [dst d 1, src a 1]
  | .xori d a _ _ => [dst d 1, src a 1]
  | .shli d a _ _ => [dst d 1, src a 1]
  | .shri d a _ _ => [dst d 1, src a 1]
  | .sari d a _ _ => [dst d 1, src a 1]
  | .imuli d a _ _ => [dst d 1, src a 1]
  | .iadd64 d a b k _ => dst d 2 :: src a 2 :: bsrc k b 2
  | .isub64 d a b k _ => dst d 2 :: src a 2 :: bsrc k b 2
  | .lea d a b _ _ => [dst d 2, src a 2, src b 1]
  | .bfe d a b k _ => dst d 1 :: src a 1 :: bsrc k b 1
  | .bfi d a b k _ => both d 1 :: src a 1 :: bsrc k b 1
  | .popc d a _ => [dst d 1, src a 1]
  | .clz d a _ => [dst d 1, src a 1]
  | .ctz d a _ => [dst d 1, src a 1]
  | .brev d a _ => [dst d 1, src a 1]
  | .bswap d a _ => [dst d 1, src a 1]
  | .iabs d a _ => [dst d 1, src a 1]
  | .ineg d a _ => [dst d 1, src a 1]
  | .not d a _ => [dst d 1, src a 1]
  | .idot4 d a b k _ => both d 1 :: src a 1 :: bsrc k b 1
  | .mov d a _ => [dst d 1, src a 1]
  | .movi d _ _ => [dst d 1]
  | .lit d _ _ => [dst d 1]
  | .icmp _ _ a b k _ => src a 1 :: bsrc k b 1
  | .sel d a b _ _ => [vdst d 1, src a 1, src b 1]
  | .pget d => [vdst d 1]
  | .pset a => [src a 1]
  | .sreg d _ _ => [dst d 1]
  | .fadd d a b k _ => dst d 1 :: src a 1 :: bsrc k b 1
  | .fsub d a b k _ => dst d 1 :: src a 1 :: bsrc k b 1
  | .fmul d a b k _ => dst d 1 :: src a 1 :: bsrc k b 1
  | .ffma d a b k _ => both d 1 :: src a 1 :: bsrc k b 1
  | .fmin d a b k _ => dst d 1 :: src a 1 :: bsrc k b 1
  | .fmax d a b k _ => dst d 1 :: src a 1 :: bsrc k b 1
  | .fcmp _ _ a b k _ => src a 1 :: bsrc k b 1
  | .fabs d a _ => [dst d 1, src a 1]
  | .fneg d a _ => [dst d 1, src a 1]
  | .frcp d a _ => [dst d 1, src a 1]
  | .frsq d a _ => [dst d 1, src a 1]
  | .fsqrt d a _ => [dst d 1, src a 1]
  | .fexp2 d a _ => [dst d 1, src a 1]
  | .flog2 d a _ => [dst d 1, src a 1]
  | .fsin d a _ => [dst d 1, src a 1]
  | .fcos d a _ => [dst d 1, src a 1]
  | .ffloor d a _ => [dst d 1, src a 1]
  | .fceil d a _ => [dst d 1, src a 1]
  | .ftrunc d a _ => [dst d 1, src a 1]
  | .frint d a _ => [dst d 1, src a 1]
  | .fclass d a _ => [dst d 1, src a 1]
  | .hadd2 d a b k _ => dst d 1 :: src a 1 :: bsrc k b 1
  | .hmul2 d a b k _ => dst d 1 :: src a 1 :: bsrc k b 1
  | .hfma2 d a b k _ => both d 1 :: src a 1 :: bsrc k b 1
  | .badd2 d a b k _ => dst d 1 :: src a 1 :: bsrc k b 1
  | .bmul2 d a b k _ => dst d 1 :: src a 1 :: bsrc k b 1
  | .bfma2 d a b k _ => both d 1 :: src a 1 :: bsrc k b 1
  | .fcvt d a b _ => [dst d 1, src a 1, src b 1]
  | .dadd d a b k _ => dst d 2 :: src a 2 :: bsrc k b 2
  | .dmul d a b k _ => dst d 2 :: src a 2 :: bsrc k b 2
  | .dfma d a b k _ => both d 2 :: src a 2 :: bsrc k b 2
  | .dcmp _ _ a b k _ => src a 2 :: bsrc k b 2
  | .dcvt d a b _ => [dst d 1, src a 1, src b 1]
  | .ldb d a _ _ => [dst d 1, src a 2]
  | .ldbs d a _ _ => [dst d 1, src a 2]
  | .ldh d a _ _ => [dst d 1, src a 2]
  | .ldhs d a _ _ => [dst d 1, src a 2]
  | .ldw d a _ _ => [dst d 1, src a 2]
  | .ldd d a _ _ => [dst d 2, src a 2]
  | .ldq d a _ _ => [dst d 4, src a 2]
  | .stb d a _ _ => [src d 1, src a 2]
  | .sth d a _ _ => [src d 1, src a 2]
  | .stw d a _ _ => [src d 1, src a 2]
  | .std d a _ _ => [src d 2, src a 2]
  | .stq d a _ _ => [src d 4, src a 2]
  | .stnt d a _ _ => [src d 4, src a 2]
  | .pref _ a _ => [src a 2]
  | .cctlIinv a _ => [src a 2]
  | .cctlIinvall a _ => [src a 2]
  | .cctlEvict a _ => [src a 2]
  | .cctlZero a _ => [src a 2]
  | .aadd d a b q _ => (if q then [] else [dst d 1]) ++ [src a 2, src b 1]
  | .aand d a b q _ => (if q then [] else [dst d 1]) ++ [src a 2, src b 1]
  | .aor d a b q _ => (if q then [] else [dst d 1]) ++ [src a 2, src b 1]
  | .axor d a b q _ => (if q then [] else [dst d 1]) ++ [src a 2, src b 1]
  | .amin d a b q _ => (if q then [] else [dst d 1]) ++ [src a 2, src b 1]
  | .amax d a b q _ => (if q then [] else [dst d 1]) ++ [src a 2, src b 1]
  | .aumin d a b q _ => (if q then [] else [dst d 1]) ++ [src a 2, src b 1]
  | .aumax d a b q _ => (if q then [] else [dst d 1]) ++ [src a 2, src b 1]
  | .axchg d a b q _ => (if q then [] else [dst d 1]) ++ [src a 2, src b 1]
  | .acas d a b q _ => (if q then [] else [dst d 1]) ++ [src a 2, src b 2]
  | .afadd d a b q _ => (if q then [] else [dst d 1]) ++ [src a 2, src b 1]
  | .afaddt d a b _ => [src d 1, src a 2, src b 1]
  | .tsopen d a => [dst d 1, ssrc a 4]
  | .tclose a b => [src a 1, src b 1]
  | .tdrain a => [ssrc a 1]
  | .tdrainF a => [ssrc a 1]
  | .tsbind a => [ssrc a 1]
  | .call _ _ _ _ => [vdst 62 2]
  | .jmpr a => [src a 2]
  | .jmprL d a => [dst d 2, src a 2]
  | .ret a => [src a 2]
  | .msplit d _ m => [vdst d 1, msrc m]
  | .mjoin m => [msrc m]
  | .shfli d a b m => [vdst d 1, src a 1, src b 1, msrc m]
  | .shflu d a b m => [vdst d 1, src a 1, src b 1, msrc m]
  | .shfld d a b m => [vdst d 1, src a 1, src b 1, msrc m]
  | .shflx d a b m => [vdst d 1, src a 1, src b 1, msrc m]
  | .vote _ _ _ _ m => [msrc m]
  | .ballot d _ _ m => [dst d 1, msrc m]
  | .scan d a _ _ m => [vdst d 1, src a 1, msrc m]
  | .redux d a _ m => [dst d 1, src a 1, msrc m]
  | .elect _ m => [msrc m]
  | .matchW d a m => [vdst d 1, src a 1, msrc m]
  | .matchD d a m => [vdst d 1, src a 2, msrc m]
  | .rand d => [vdst d 1]
  | .randQ d => [vdst d 4]
  | .randF d => [vdst d 1]
  | .recruit d a b k _ _ => vdst d 1 :: src a 1 :: bsrc k b 1
  | .hnext d _ _ => [vdst d 1]
  | .hrelease d => [vdst d 1]
  | .hstat d => [vdst d 1]
  | .hstatNext d => [vdst d 1]
  | .hstatCount d => [vdst d 1]
  | .cpin a => [sblk a 8]
  | .cpinr a => [sblk a 8]
  | .cpout a => [sblk a 8]
  | .cpgath a b => [sblk a 8, ssrc b 1]
  | .cpmc a b => [sblk a 8, ssrc b 1]
  | .cpnet a b => [sblk a 8, ssrc b 2]
  | .cppf a _ => [sblk a 8]
  | .syinit a b => [ssrc a 1, ssrc b 1]
  | .syarr a b => [ssrc a 1, ssrc b 1]
  | .sywait a b => [ssrc a 1, ssrc b 1]
  | .sytest a b => [ssrc a 1, sdst b 2]
  | .cntrd a _ => [sdst a 1]
  | .mma a b => [sblk a 16, sblk b 8]
  | .mmas a b => [sblk a 16, sblk b 8]
  | .mrast a b => [sblk a 16, sblk b 8]
  | .mfilt a b => [sblk a 16, sblk b 8]
  | .mstat a => [sdst a 1]
  | .mstatC a => [sdst a 1]
  | .spawn a b => [sblk a 8, sboth b 1]
  | .spawnn a b => [sblk a 8, sboth b 1]
  | .cancelchk a => [sdst a 1]
  | .lvlrd a _ => [sdst a 1]
  | .seedrd a => [sdst a 2]
  | .shpset a b => [sdst a 1, ssrc b 2]
  | .shpfree b => [ssrc b 1]
  | .shprd a b => [sdblk a 16, ssrc b 1]
  | .cregr a b => [sdst a (cregWidth b)]
  | .cregw a b => [ssrc b (cregWidth a)]
  | .sleep b => [ssrc b 1]
  | .fqpop a b => [sdblk a 8, sdst b 1]
  | .resume a b => [ssrc a 1, sboth b 1]
  | .tlbinv a b => [ssrc a 2, ssrc b 1]
  | _ => []

/-- The predicates an instruction reads. -/
def Instr.predReads (i : Instr) : List PSel :=
  match i with
  | .sel _ _ _ p _ => [p]
  | .plop _ _ a b _ => [a, b]
  | .pget _ => [0, 1, 2, 3, 4, 5, 6]
  | .bra p _ _ _ => [p]
  | .call p _ _ _ => [p]
  | .msplit _ p _ => [p]
  | .vote _ q _ _ _ => [q]
  | .ballot _ p _ _ => [p]
  | _ => []

/-- The predicates an instruction writes. -/
def Instr.predWrites (i : Instr) : List PSel :=
  match i with
  | .icmp p _ _ _ _ _ => [p]
  | .plop p _ _ _ _ => [p]
  | .pset _ => [0, 1, 2, 3, 4, 5, 6]
  | .fcmp p _ _ _ _ _ => [p]
  | .dcmp p _ _ _ _ _ => [p]
  | .vote p _ _ _ _ => [p]
  | .elect p _ => [p]
  | .hnext _ p _ => [p]
  | _ => []

/-- The fixed latency of 02 R36 for the classes whose latency exceeds 1; 1 for every other instruction, whose result the
next instruction may read. -/
def Instr.latency (i : Instr) : Nat :=
  match i with
  | .imul _ _ _ _ _ => 4
  | .imulhi _ _ _ _ _ => 4
  | .imulhu _ _ _ _ _ => 4
  | .imad _ _ _ _ _ => 4
  | .imuli _ _ _ _ => 4
  | .idot4 _ _ _ _ _ => 4
  | .fadd _ _ _ _ _ => 4
  | .fsub _ _ _ _ _ => 4
  | .fmul _ _ _ _ _ => 4
  | .ffma _ _ _ _ _ => 4
  | .fmin _ _ _ _ _ => 4
  | .fmax _ _ _ _ _ => 4
  | .fcmp _ _ _ _ _ _ => 4
  | .fabs _ _ _ => 6
  | .fneg _ _ _ => 6
  | .frcp _ _ _ => 6
  | .frsq _ _ _ => 6
  | .fsqrt _ _ _ => 6
  | .fexp2 _ _ _ => 6
  | .flog2 _ _ _ => 6
  | .fsin _ _ _ => 6
  | .fcos _ _ _ => 6
  | .ffloor _ _ _ => 6
  | .fceil _ _ _ => 6
  | .ftrunc _ _ _ => 6
  | .frint _ _ _ => 6
  | .fclass _ _ _ => 6
  | .hadd2 _ _ _ _ _ => 4
  | .hmul2 _ _ _ _ _ => 4
  | .hfma2 _ _ _ _ _ => 4
  | .badd2 _ _ _ _ _ => 4
  | .bmul2 _ _ _ _ _ => 4
  | .bfma2 _ _ _ _ _ => 4
  | .fcvt _ _ _ _ => 4
  | .dadd _ _ _ _ _ => 8
  | .dmul _ _ _ _ _ => 8
  | .dfma _ _ _ _ _ => 8
  | .dcmp _ _ _ _ _ _ => 8
  | .dcvt _ _ _ _ => 8
  | _ => 1

/-- The stall count (01 R20, 02 R35): the ST field, F in format B, and 0 in the formats without one. -/
def Instr.stall (i : Instr) : Nat :=
  match i with
  | .iadd _ _ _ _ st => st.toNat
  | .isub _ _ _ _ st => st.toNat
  | .imul _ _ _ _ st => st.toNat
  | .imulhi _ _ _ _ st => st.toNat
  | .imulhu _ _ _ _ st => st.toNat
  | .imad _ _ _ _ st => st.toNat
  | .and _ _ _ _ st => st.toNat
  | .or _ _ _ _ st => st.toNat
  | .xor _ _ _ _ st => st.toNat
  | .andn _ _ _ _ st => st.toNat
  | .shl _ _ _ _ st => st.toNat
  | .shr _ _ _ _ st => st.toNat
  | .sar _ _ _ _ st => st.toNat
  | .imin _ _ _ _ st => st.toNat
  | .imax _ _ _ _ st => st.toNat
  | .umin _ _ _ _ st => st.toNat
  | .umax _ _ _ _ st => st.toNat
  | .iaddi _ _ _ st => st.toNat
  | .andi _ _ _ st => st.toNat
  | .ori _ _ _ st => st.toNat
  | .xori _ _ _ st => st.toNat
  | .shli _ _ _ st => st.toNat
  | .shri _ _ _ st => st.toNat
  | .sari _ _ _ st => st.toNat
  | .imuli _ _ _ st => st.toNat
  | .iadd64 _ _ _ _ st => st.toNat
  | .isub64 _ _ _ _ st => st.toNat
  | .bfe _ _ _ _ st => st.toNat
  | .bfi _ _ _ _ st => st.toNat
  | .popc _ _ st => st.toNat
  | .clz _ _ st => st.toNat
  | .ctz _ _ st => st.toNat
  | .brev _ _ st => st.toNat
  | .bswap _ _ st => st.toNat
  | .iabs _ _ st => st.toNat
  | .ineg _ _ st => st.toNat
  | .not _ _ st => st.toNat
  | .idot4 _ _ _ _ st => st.toNat
  | .mov _ _ st => st.toNat
  | .movi _ _ st => st.toNat
  | .lit _ st _ => st.toNat
  | .icmp _ _ _ _ _ st => st.toNat
  | .plop _ _ _ _ st => st.toNat
  | .sreg _ _ st => st.toNat
  | .fadd _ _ _ _ st => st.toNat
  | .fsub _ _ _ _ st => st.toNat
  | .fmul _ _ _ _ st => st.toNat
  | .ffma _ _ _ _ st => st.toNat
  | .fmin _ _ _ _ st => st.toNat
  | .fmax _ _ _ _ st => st.toNat
  | .fcmp _ _ _ _ _ st => st.toNat
  | .fabs _ _ st => st.toNat
  | .fneg _ _ st => st.toNat
  | .frcp _ _ st => st.toNat
  | .frsq _ _ st => st.toNat
  | .fsqrt _ _ st => st.toNat
  | .fexp2 _ _ st => st.toNat
  | .flog2 _ _ st => st.toNat
  | .fsin _ _ st => st.toNat
  | .fcos _ _ st => st.toNat
  | .ffloor _ _ st => st.toNat
  | .fceil _ _ st => st.toNat
  | .ftrunc _ _ st => st.toNat
  | .frint _ _ st => st.toNat
  | .fclass _ _ st => st.toNat
  | .hadd2 _ _ _ _ st => st.toNat
  | .hmul2 _ _ _ _ st => st.toNat
  | .hfma2 _ _ _ _ st => st.toNat
  | .badd2 _ _ _ _ st => st.toNat
  | .bmul2 _ _ _ _ st => st.toNat
  | .bfma2 _ _ _ _ st => st.toNat
  | .fcvt _ _ _ st => st.toNat
  | .dadd _ _ _ _ st => st.toNat
  | .dmul _ _ _ _ st => st.toNat
  | .dfma _ _ _ _ st => st.toNat
  | .dcmp _ _ _ _ _ st => st.toNat
  | .dcvt _ _ _ st => st.toNat
  | .bra _ _ _ f => f.toNat
  | .call _ _ _ f => f.toNat
  | .waitsb _ st => st.toNat
  | .nop st => st.toNat
  | .recruit _ _ _ _ st _ => st.toNat
  | _ => 0

/-- Words of the clause that the instruction occupies: 2 for LIT and RECRUIT (02 R29). -/
def Instr.words (i : Instr) : Nat :=
  match i with
  | .lit _ _ _ => 2
  | .recruit _ _ _ _ _ _ => 2
  | _ => 1

/-- Whether the instruction is an instruction word (rows 0 to 189 of the table); the steps of the device, the packets
and the messages have no encoding. -/
def Instr.isWord (i : Instr) : Bool :=
  match i with
  | .bankSwitch _ => false
  | .clauseFetch => false
  | .loadReturn _ _ => false
  | .faultRecordPost _ => false
  | .sleepExpiry _ _ => false
  | .crewToPending _ => false
  | .pendingCrewEntry _ _ => false
  | .activeCrewRotation _ _ => false
  | .helperSuspend _ _ _ => false
  | .helperResume _ _ _ => false
  | .crewEnd _ => false
  | .seamComplete _ => false
  | .hoistDispatch _ => false
  | .crewPlacement _ => false
  | .handlerPlacement _ => false
  | .watchdogExpiry _ => false
  | .ticketUpdateArrival _ => false
  | .ticketUpdateRetry _ => false
  | .ticketStallExpiry _ => false
  | .atomicAtHome _ => false
  | .copyArrival _ _ _ => false
  | .netRetransmitTimeout _ _ => false
  | .netTransportFailure _ _ => false
  | .cpnetComplete _ _ _ => false
  | .matrixStep _ => false
  | .postOperator _ => false
  | .fifoPush _ _ => false
  | .fifoPop _ _ => false
  | .pageWalk _ _ => false
  | .contextSave _ => false
  | .killComplete _ => false
  | .migration _ => false
  | .launchSeedPush _ => false
  | .queueUnbindComplete _ => false
  | .packetGuardPoll _ => false
  | .queueMap => false
  | .queueIdleUnmap _ => false
  | .queueOverdueSwap => false
  | .kick _ _ => false
  | .pktgo _ => false
  | .queueEnable _ _ => false
  | .queueDisable _ => false
  | .pwrcap _ => false
  | .registerWrite _ _ => false
  | .throttleAdjust _ _ => false
  | .eventResend _ => false
  | .leaseLapse => false
  | .recoverySessionTimeout => false
  | .deviceStart => false
  | .rdmaWrite _ _ _ _ => false
  | .rdmaRead _ _ _ _ => false
  | .sendMsg _ _ => false
  | .regrd _ _ _ => false
  | .regwr _ _ _ => false
  | .claim _ => false
  | .renew _ => false
  | .handover _ _ => false
  | .releaseOwner _ => false
  | .halt _ _ _ => false
  | .stepThread _ _ _ _ => false
  | .stepcrew _ _ _ => false
  | .runCtx _ _ => false
  | .dread _ _ _ _ _ => false
  | .attquery _ _ => false
  | .recbegin _ _ => false
  | .recdata _ _ _ => false
  | .reccommit _ => false
  | .recreset _ => false
  | .recinfo _ => false
  | .evack _ _ => false
  | .nopPacket _ _ => false
  | .ctxnew _ _ => false
  | .ctxkill _ _ => false
  | .preempt _ _ => false
  | .ctxrun _ _ => false
  | .qbind _ _ => false
  | .qunbind _ _ => false
  | .recact _ _ => false
  | .limits _ _ => false
  | .wdrestart _ _ => false
  | .peers _ _ => false
  | .exportWin _ _ => false
  | .rxring _ _ => false
  | .migrate _ _ => false
  | .evict _ _ => false
  | .sopen _ _ => false
  | .sfree _ _ => false
  | .jobopen _ _ => false
  | .jobclose _ _ => false
  | .phaseopen _ _ => false
  | .phaseclose _ _ => false
  | .graphopen _ _ => false
  | .graphclose _ _ => false
  | .launch _ _ => false
  | .cancel _ _ => false
  | .waitPacket _ _ => false
  | .fencePacket _ _ => false
  | .seedpush _ _ => false
  | .seedpop _ _ => false
  | .seedfork _ _ => false
  | .pendingStoreEvent _ _ _ => false
  | .uncorrectableError _ => false
  | _ => true

/-- No field holds a value that 02 R38, R39 or the instruction's entry reserves. An encoder writes NOP for WAITSB with an
empty mask (03 R74). -/
def Instr.fieldsOk (i : Instr) : Bool :=
  match i with
  | .icmp _ c _ _ _ _ => decide (c.toNat ≤ 10)
  | .sreg d imm _ => decide (imm.toNat < 32) && !(isScalar d && (imm == 0 || imm == 10 || imm == 15))
  | .fcmp _ c _ _ _ _ => decide (c.toNat ≤ 11)
  | .dcmp _ c _ _ _ _ => decide (c.toNat ≤ 11)
  | .ldb _ _ _ sb => sb != 7
  | .ldbs _ _ _ sb => sb != 7
  | .ldh _ _ _ sb => sb != 7
  | .ldhs _ _ _ sb => sb != 7
  | .ldw _ _ _ sb => sb != 7
  | .ldd _ _ _ sb => sb != 7
  | .ldq _ _ _ sb => sb != 7
  | .stb _ _ _ sb => sb != 7
  | .sth _ _ _ sb => sb != 7
  | .stw _ _ _ sb => sb != 7
  | .std _ _ _ sb => sb != 7
  | .stq _ _ _ sb => sb != 7
  | .stnt _ _ _ sb => sb != 7
  | .pref lvl _ _ => decide (lvl.toNat ≤ 1)
  | .aadd d _ _ q sb => sb != 7 && (!q || d == 0)
  | .aand d _ _ q sb => sb != 7 && (!q || d == 0)
  | .aor d _ _ q sb => sb != 7 && (!q || d == 0)
  | .axor d _ _ q sb => sb != 7 && (!q || d == 0)
  | .amin d _ _ q sb => sb != 7 && (!q || d == 0)
  | .amax d _ _ q sb => sb != 7 && (!q || d == 0)
  | .aumin d _ _ q sb => sb != 7 && (!q || d == 0)
  | .aumax d _ _ q sb => sb != 7 && (!q || d == 0)
  | .axchg d _ _ q sb => sb != 7 && (!q || d == 0)
  | .acas d _ _ q sb => sb != 7 && (!q || d == 0)
  | .afadd d _ _ q sb => sb != 7 && (!q || d == 0)
  | .afaddt _ _ _ sb => sb != 7
  | .waitsb m _ => m != 0
  | .vote _ _ _ off _ => off != 3
  | .scan _ _ _ off _ => decide (off.toNat ≤ 10)
  | .redux _ _ off _ => decide (off.toNat ≤ 10)
  | .cppf _ b => decide (b.toNat ≤ 1)
  | .waitc c n => decide (c.toNat ≤ 3 ∧ n.toNat ≤ 63)
  | .cntrd _ c => decide (c.toNat ≤ 3)
  | .lvlrd _ b => decide (b.toNat ≤ 3)
  | .lvlcancel b => decide (b.toNat ≤ 3)
  | .qhold b => decide (b.toNat ≤ 63)
  | .qrun b => decide (b.toNat ≤ 63)
  | .cregr a b => decide (b.toNat ≤ 7) && a.toNat % cregWidth b == 0
  | .cregw a b => decide (a.toNat ≤ 7) && !(a == 2 || a == 3 || a == 4) && b.toNat % cregWidth a == 0
  | _ => true

/-- BALLOT and REDUX admit a scalar destination with vector sources (06 R127). -/
def Instr.scalarResult (i : Instr) : Bool :=
  match i with
  | .ballot _ _ _ _ => true
  | .redux _ _ _ _ => true
  | _ => false

/-- The selector rules of 02 R33: every operand has the class its entry demands, and a scalar destination has no vector
source. -/
def Instr.selectorsOk (i : Instr) : Bool :=
  i.operands.all Opnd.classOk &&
    (i.scalarResult ||
      !(i.operands.any (fun o => o.isWritten && isScalar o.sel) &&
        i.operands.any (fun o => o.isRead && !isScalar o.sel)))

/-- The alignment of every pair and quad (01 R13). FCVT and DCVT name pairs by a control word, checked by their
entries. -/
def Instr.aligned (i : Instr) : Bool := i.operands.all Opnd.isAligned

/-- A well-formed instruction: nothing that the device would refuse with 0x01 or 0x04 by its words alone. -/
def Instr.wellFormed (i : Instr) : Bool := i.fieldsOk && i.selectorsOk && i.aligned

end Sys2Proof
end

