-- ==== Sys2Proof/Decode.lean ====
section
/-!
DEFINITION. Decoding and encoding of instruction words (02 R34 to R38). Decoding is total: a word with no row of the
opcode map answers none, and the thread that reaches it takes 0x01 (02 R39). Reserved values inside a row's own fields
are left to WellFormed. Two lists of the same encodings: the decoder reads fields by their bit positions, the encoder
adds each field's value at its lowest bit.
-/
namespace Sys2Proof

/-- A field of `n` bits at [hi:lo] of a word. -/
def fld (n w hi lo : Nat) : BitVec n := BitVec.ofNat n (bits w hi lo)

/-- A field of one bit. -/
def flag (w i : Nat) : Bool := bits w i i == 1

/-- Decoding of integer and logic (02 R37, majors 0x00 to 0x1F). -/
def decodeInt (op w _lit : Nat) : Option Instr :=
  if op = 0x00 then some (.iadd (fld 7 w 24 18) (fld 7 w 17 11) (fld 7 w 10 4) (flag w 3) (fld 3 w 2 0)) else
  if op = 0x01 then some (.isub (fld 7 w 24 18) (fld 7 w 17 11) (fld 7 w 10 4) (flag w 3) (fld 3 w 2 0)) else
  if op = 0x02 then some (.imul (fld 7 w 24 18) (fld 7 w 17 11) (fld 7 w 10 4) (flag w 3) (fld 3 w 2 0)) else
  if op = 0x03 then some (.imulhi (fld 7 w 24 18) (fld 7 w 17 11) (fld 7 w 10 4) (flag w 3) (fld 3 w 2 0)) else
  if op = 0x04 then some (.imulhu (fld 7 w 24 18) (fld 7 w 17 11) (fld 7 w 10 4) (flag w 3) (fld 3 w 2 0)) else
  if op = 0x05 then some (.imad (fld 7 w 24 18) (fld 7 w 17 11) (fld 7 w 10 4) (flag w 3) (fld 3 w 2 0)) else
  if op = 0x06 then some (.and (fld 7 w 24 18) (fld 7 w 17 11) (fld 7 w 10 4) (flag w 3) (fld 3 w 2 0)) else
  if op = 0x07 then some (.or (fld 7 w 24 18) (fld 7 w 17 11) (fld 7 w 10 4) (flag w 3) (fld 3 w 2 0)) else
  if op = 0x08 then some (.xor (fld 7 w 24 18) (fld 7 w 17 11) (fld 7 w 10 4) (flag w 3) (fld 3 w 2 0)) else
  if op = 0x09 then some (.andn (fld 7 w 24 18) (fld 7 w 17 11) (fld 7 w 10 4) (flag w 3) (fld 3 w 2 0)) else
  if op = 0x0A then some (.shl (fld 7 w 24 18) (fld 7 w 17 11) (fld 7 w 10 4) (flag w 3) (fld 3 w 2 0)) else
  if op = 0x0B then some (.shr (fld 7 w 24 18) (fld 7 w 17 11) (fld 7 w 10 4) (flag w 3) (fld 3 w 2 0)) else
  if op = 0x0C then some (.sar (fld 7 w 24 18) (fld 7 w 17 11) (fld 7 w 10 4) (flag w 3) (fld 3 w 2 0)) else
  if op = 0x0D then some (.imin (fld 7 w 24 18) (fld 7 w 17 11) (fld 7 w 10 4) (flag w 3) (fld 3 w 2 0)) else
  if op = 0x0E then some (.imax (fld 7 w 24 18) (fld 7 w 17 11) (fld 7 w 10 4) (flag w 3) (fld 3 w 2 0)) else
  if op = 0x0F then some (.umin (fld 7 w 24 18) (fld 7 w 17 11) (fld 7 w 10 4) (flag w 3) (fld 3 w 2 0)) else
  if op = 0x10 then some (.iaddi (fld 7 w 24 18) (fld 7 w 17 11) (fld 8 w 10 3) (fld 3 w 2 0)) else
  if op = 0x11 then some (.andi (fld 7 w 24 18) (fld 7 w 17 11) (fld 8 w 10 3) (fld 3 w 2 0)) else
  if op = 0x12 then some (.ori (fld 7 w 24 18) (fld 7 w 17 11) (fld 8 w 10 3) (fld 3 w 2 0)) else
  if op = 0x13 then some (.xori (fld 7 w 24 18) (fld 7 w 17 11) (fld 8 w 10 3) (fld 3 w 2 0)) else
  if op = 0x14 then if bits w 10 8 = 0 then some (.shli (fld 7 w 24 18) (fld 7 w 17 11) (fld 5 w 7 3) (fld 3 w 2 0)) else none else
  if op = 0x15 then if bits w 10 8 = 0 then some (.shri (fld 7 w 24 18) (fld 7 w 17 11) (fld 5 w 7 3) (fld 3 w 2 0)) else none else
  if op = 0x16 then if bits w 10 8 = 0 then some (.sari (fld 7 w 24 18) (fld 7 w 17 11) (fld 5 w 7 3) (fld 3 w 2 0)) else none else
  if op = 0x17 then some (.imuli (fld 7 w 24 18) (fld 7 w 17 11) (fld 8 w 10 3) (fld 3 w 2 0)) else
  if op = 0x18 then some (.iadd64 (fld 7 w 24 18) (fld 7 w 17 11) (fld 7 w 10 4) (flag w 3) (fld 3 w 2 0)) else
  if op = 0x19 then some (.isub64 (fld 7 w 24 18) (fld 7 w 17 11) (fld 7 w 10 4) (flag w 3) (fld 3 w 2 0)) else
  if op = 0x1A then if bits w 3 3 = 0 then some (.lea (fld 7 w 24 18) (fld 7 w 17 11) (fld 7 w 10 4) (fld 2 w 2 1) (flag w 0)) else none else
  if op = 0x1B then some (.bfe (fld 7 w 24 18) (fld 7 w 17 11) (fld 7 w 10 4) (flag w 3) (fld 3 w 2 0)) else
  if op = 0x1C then some (.bfi (fld 7 w 24 18) (fld 7 w 17 11) (fld 7 w 10 4) (flag w 3) (fld 3 w 2 0)) else
  if op = 0x1D then if bits w 10 3 = 0 then some (.popc (fld 7 w 24 18) (fld 7 w 17 11) (fld 3 w 2 0))
      else if bits w 10 3 = 2 then some (.clz (fld 7 w 24 18) (fld 7 w 17 11) (fld 3 w 2 0))
      else if bits w 10 3 = 4 then some (.ctz (fld 7 w 24 18) (fld 7 w 17 11) (fld 3 w 2 0))
      else if bits w 10 3 = 6 then some (.brev (fld 7 w 24 18) (fld 7 w 17 11) (fld 3 w 2 0))
      else if bits w 10 3 = 8 then some (.bswap (fld 7 w 24 18) (fld 7 w 17 11) (fld 3 w 2 0))
      else if bits w 10 3 = 10 then some (.iabs (fld 7 w 24 18) (fld 7 w 17 11) (fld 3 w 2 0))
      else if bits w 10 3 = 12 then some (.ineg (fld 7 w 24 18) (fld 7 w 17 11) (fld 3 w 2 0))
      else if bits w 10 3 = 14 then some (.not (fld 7 w 24 18) (fld 7 w 17 11) (fld 3 w 2 0)) else none else
  if op = 0x1E then some (.umax (fld 7 w 24 18) (fld 7 w 17 11) (fld 7 w 10 4) (flag w 3) (fld 3 w 2 0)) else
  if op = 0x1F then some (.idot4 (fld 7 w 24 18) (fld 7 w 17 11) (fld 7 w 10 4) (flag w 3) (fld 3 w 2 0)) else
  none

/-- Decoding of moves, compares, predicates and special registers (majors 0x20 to 0x27). -/
def decodeMove (op w lit : Nat) : Option Instr :=
  if op = 0x20 then if bits w 10 3 = 0 then some (.mov (fld 7 w 24 18) (fld 7 w 17 11) (fld 3 w 2 0)) else none else
  if op = 0x21 then some (.movi (fld 7 w 24 18) (fld 15 w 17 3) (fld 3 w 2 0)) else
  if op = 0x22 then if bits w 17 3 = 0 then some (.lit (fld 7 w 24 18) (fld 3 w 2 0) (BitVec.ofNat 32 lit)) else none else
  if op = 0x23 then some (.icmp (fld 3 w 24 22) (fld 4 w 21 18) (fld 7 w 17 11) (fld 7 w 10 4) (flag w 3) (fld 3 w 2 0)) else
  if op = 0x24 then some (.sel (fld 7 w 24 18) (fld 7 w 17 11) (fld 7 w 10 4) (fld 3 w 3 1) (flag w 0)) else
  if op = 0x25 then if bits w 17 14 = 0 ∧ bits w 10 7 = 0 ∧ bits w 3 3 = 0 then some (.plop (fld 3 w 24 22) (fld 4 w 21 18) (fld 3 w 13 11) (fld 3 w 6 4) (fld 3 w 2 0)) else none else
  if op = 0x26 then if bits w 17 0 = 0 then some (.pget (fld 7 w 24 18))
      else if bits w 24 18 = 0 ∧ bits w 10 0 = 1 then some (.pset (fld 7 w 17 11)) else none else
  if op = 0x27 then if bits w 17 11 = 0 then some (.sreg (fld 7 w 24 18) (fld 8 w 10 3) (fld 3 w 2 0)) else none else
  none

/-- Decoding of floating point (majors 0x28 to 0x3B). -/
def decodeFloat (op w _lit : Nat) : Option Instr :=
  if op = 0x28 then some (.fadd (fld 7 w 24 18) (fld 7 w 17 11) (fld 7 w 10 4) (flag w 3) (fld 3 w 2 0)) else
  if op = 0x29 then some (.fsub (fld 7 w 24 18) (fld 7 w 17 11) (fld 7 w 10 4) (flag w 3) (fld 3 w 2 0)) else
  if op = 0x2A then some (.fmul (fld 7 w 24 18) (fld 7 w 17 11) (fld 7 w 10 4) (flag w 3) (fld 3 w 2 0)) else
  if op = 0x2B then some (.ffma (fld 7 w 24 18) (fld 7 w 17 11) (fld 7 w 10 4) (flag w 3) (fld 3 w 2 0)) else
  if op = 0x2C then some (.fmin (fld 7 w 24 18) (fld 7 w 17 11) (fld 7 w 10 4) (flag w 3) (fld 3 w 2 0)) else
  if op = 0x2D then some (.fmax (fld 7 w 24 18) (fld 7 w 17 11) (fld 7 w 10 4) (flag w 3) (fld 3 w 2 0)) else
  if op = 0x2E then some (.fcmp (fld 3 w 24 22) (fld 4 w 21 18) (fld 7 w 17 11) (fld 7 w 10 4) (flag w 3) (fld 3 w 2 0)) else
  if op = 0x2F then if bits w 10 3 = 0 then some (.fabs (fld 7 w 24 18) (fld 7 w 17 11) (fld 3 w 2 0))
      else if bits w 10 3 = 2 then some (.fneg (fld 7 w 24 18) (fld 7 w 17 11) (fld 3 w 2 0))
      else if bits w 10 3 = 4 then some (.frcp (fld 7 w 24 18) (fld 7 w 17 11) (fld 3 w 2 0))
      else if bits w 10 3 = 6 then some (.frsq (fld 7 w 24 18) (fld 7 w 17 11) (fld 3 w 2 0))
      else if bits w 10 3 = 8 then some (.fsqrt (fld 7 w 24 18) (fld 7 w 17 11) (fld 3 w 2 0))
      else if bits w 10 3 = 10 then some (.fexp2 (fld 7 w 24 18) (fld 7 w 17 11) (fld 3 w 2 0))
      else if bits w 10 3 = 12 then some (.flog2 (fld 7 w 24 18) (fld 7 w 17 11) (fld 3 w 2 0))
      else if bits w 10 3 = 14 then some (.fsin (fld 7 w 24 18) (fld 7 w 17 11) (fld 3 w 2 0))
      else if bits w 10 3 = 16 then some (.fcos (fld 7 w 24 18) (fld 7 w 17 11) (fld 3 w 2 0))
      else if bits w 10 3 = 18 then some (.ffloor (fld 7 w 24 18) (fld 7 w 17 11) (fld 3 w 2 0))
      else if bits w 10 3 = 20 then some (.fceil (fld 7 w 24 18) (fld 7 w 17 11) (fld 3 w 2 0))
      else if bits w 10 3 = 22 then some (.ftrunc (fld 7 w 24 18) (fld 7 w 17 11) (fld 3 w 2 0))
      else if bits w 10 3 = 24 then some (.frint (fld 7 w 24 18) (fld 7 w 17 11) (fld 3 w 2 0))
      else if bits w 10 3 = 26 then some (.fclass (fld 7 w 24 18) (fld 7 w 17 11) (fld 3 w 2 0)) else none else
  if op = 0x30 then some (.hadd2 (fld 7 w 24 18) (fld 7 w 17 11) (fld 7 w 10 4) (flag w 3) (fld 3 w 2 0)) else
  if op = 0x31 then some (.hmul2 (fld 7 w 24 18) (fld 7 w 17 11) (fld 7 w 10 4) (flag w 3) (fld 3 w 2 0)) else
  if op = 0x32 then some (.hfma2 (fld 7 w 24 18) (fld 7 w 17 11) (fld 7 w 10 4) (flag w 3) (fld 3 w 2 0)) else
  if op = 0x33 then some (.badd2 (fld 7 w 24 18) (fld 7 w 17 11) (fld 7 w 10 4) (flag w 3) (fld 3 w 2 0)) else
  if op = 0x34 then some (.bmul2 (fld 7 w 24 18) (fld 7 w 17 11) (fld 7 w 10 4) (flag w 3) (fld 3 w 2 0)) else
  if op = 0x35 then some (.bfma2 (fld 7 w 24 18) (fld 7 w 17 11) (fld 7 w 10 4) (flag w 3) (fld 3 w 2 0)) else
  if op = 0x36 then if bits w 3 3 = 0 then some (.fcvt (fld 7 w 24 18) (fld 7 w 17 11) (fld 7 w 10 4) (fld 3 w 2 0)) else none else
  if op = 0x37 then some (.dadd (fld 7 w 24 18) (fld 7 w 17 11) (fld 7 w 10 4) (flag w 3) (fld 3 w 2 0)) else
  if op = 0x38 then some (.dmul (fld 7 w 24 18) (fld 7 w 17 11) (fld 7 w 10 4) (flag w 3) (fld 3 w 2 0)) else
  if op = 0x39 then some (.dfma (fld 7 w 24 18) (fld 7 w 17 11) (fld 7 w 10 4) (flag w 3) (fld 3 w 2 0)) else
  if op = 0x3A then some (.dcmp (fld 3 w 24 22) (fld 4 w 21 18) (fld 7 w 17 11) (fld 7 w 10 4) (flag w 3) (fld 3 w 2 0)) else
  if op = 0x3B then if bits w 3 3 = 0 then some (.dcvt (fld 7 w 24 18) (fld 7 w 17 11) (fld 7 w 10 4) (fld 3 w 2 0)) else none else
  none

/-- Decoding of loads, stores, fences and cache control (majors 0x3C to 0x4C). -/
def decodeMem (op w _lit : Nat) : Option Instr :=
  if op = 0x3C then some (.ldb (fld 7 w 24 18) (fld 7 w 17 11) (fld 8 w 10 3) (fld 3 w 2 0)) else
  if op = 0x3D then some (.ldbs (fld 7 w 24 18) (fld 7 w 17 11) (fld 8 w 10 3) (fld 3 w 2 0)) else
  if op = 0x3E then some (.ldh (fld 7 w 24 18) (fld 7 w 17 11) (fld 8 w 10 3) (fld 3 w 2 0)) else
  if op = 0x3F then some (.ldhs (fld 7 w 24 18) (fld 7 w 17 11) (fld 8 w 10 3) (fld 3 w 2 0)) else
  if op = 0x40 then some (.ldw (fld 7 w 24 18) (fld 7 w 17 11) (fld 8 w 10 3) (fld 3 w 2 0)) else
  if op = 0x41 then some (.ldd (fld 7 w 24 18) (fld 7 w 17 11) (fld 8 w 10 3) (fld 3 w 2 0)) else
  if op = 0x42 then some (.ldq (fld 7 w 24 18) (fld 7 w 17 11) (fld 8 w 10 3) (fld 3 w 2 0)) else
  if op = 0x43 then some (.stb (fld 7 w 24 18) (fld 7 w 17 11) (fld 8 w 10 3) (fld 3 w 2 0)) else
  if op = 0x44 then some (.sth (fld 7 w 24 18) (fld 7 w 17 11) (fld 8 w 10 3) (fld 3 w 2 0)) else
  if op = 0x45 then some (.stw (fld 7 w 24 18) (fld 7 w 17 11) (fld 8 w 10 3) (fld 3 w 2 0)) else
  if op = 0x46 then some (.std (fld 7 w 24 18) (fld 7 w 17 11) (fld 8 w 10 3) (fld 3 w 2 0)) else
  if op = 0x47 then some (.stq (fld 7 w 24 18) (fld 7 w 17 11) (fld 8 w 10 3) (fld 3 w 2 0)) else
  if op = 0x48 then some (.stnt (fld 7 w 24 18) (fld 7 w 17 11) (fld 8 w 10 3) (fld 3 w 2 0)) else
  if op = 0x49 then if bits w 24 0 = 0 then some .drain else none else
  if op = 0x4A then if bits w 24 0 = 0 then some .fence else none else
  if op = 0x4B then if bits w 2 0 = 0 then some (.pref (fld 7 w 24 18) (fld 7 w 17 11) (fld 8 w 10 3)) else none else
  if op = 0x4C then if bits w 24 18 = 0 ∧ bits w 2 0 = 0 then some (.cctlIinv (fld 7 w 17 11) (fld 8 w 10 3))
      else if bits w 24 18 = 1 ∧ bits w 2 0 = 0 then some (.cctlIinvall (fld 7 w 17 11) (fld 8 w 10 3))
      else if bits w 24 18 = 2 ∧ bits w 2 0 = 0 then some (.cctlEvict (fld 7 w 17 11) (fld 8 w 10 3))
      else if bits w 24 18 = 3 ∧ bits w 2 0 = 0 then some (.cctlZero (fld 7 w 17 11) (fld 8 w 10 3)) else none else
  none

/-- Decoding of atomics and ticket streams (majors 0x50 to 0x5F). -/
def decodeAtom (op w _lit : Nat) : Option Instr :=
  if op = 0x50 then some (.aadd (fld 7 w 24 18) (fld 7 w 17 11) (fld 7 w 10 4) (flag w 3) (fld 3 w 2 0)) else
  if op = 0x51 then some (.aand (fld 7 w 24 18) (fld 7 w 17 11) (fld 7 w 10 4) (flag w 3) (fld 3 w 2 0)) else
  if op = 0x52 then some (.aor (fld 7 w 24 18) (fld 7 w 17 11) (fld 7 w 10 4) (flag w 3) (fld 3 w 2 0)) else
  if op = 0x53 then some (.axor (fld 7 w 24 18) (fld 7 w 17 11) (fld 7 w 10 4) (flag w 3) (fld 3 w 2 0)) else
  if op = 0x54 then some (.amin (fld 7 w 24 18) (fld 7 w 17 11) (fld 7 w 10 4) (flag w 3) (fld 3 w 2 0)) else
  if op = 0x55 then some (.amax (fld 7 w 24 18) (fld 7 w 17 11) (fld 7 w 10 4) (flag w 3) (fld 3 w 2 0)) else
  if op = 0x56 then some (.aumin (fld 7 w 24 18) (fld 7 w 17 11) (fld 7 w 10 4) (flag w 3) (fld 3 w 2 0)) else
  if op = 0x57 then some (.aumax (fld 7 w 24 18) (fld 7 w 17 11) (fld 7 w 10 4) (flag w 3) (fld 3 w 2 0)) else
  if op = 0x58 then some (.axchg (fld 7 w 24 18) (fld 7 w 17 11) (fld 7 w 10 4) (flag w 3) (fld 3 w 2 0)) else
  if op = 0x59 then some (.acas (fld 7 w 24 18) (fld 7 w 17 11) (fld 7 w 10 4) (flag w 3) (fld 3 w 2 0)) else
  if op = 0x5A then some (.afadd (fld 7 w 24 18) (fld 7 w 17 11) (fld 7 w 10 4) (flag w 3) (fld 3 w 2 0)) else
  if op = 0x5B then if bits w 3 3 = 1 then some (.afaddt (fld 7 w 24 18) (fld 7 w 17 11) (fld 7 w 10 4) (fld 3 w 2 0)) else none else
  if op = 0x5C then if bits w 10 0 = 0 then some (.tsopen (fld 7 w 24 18) (fld 7 w 17 11)) else none else
  if op = 0x5D then if bits w 24 18 = 0 ∧ bits w 3 0 = 0 then some (.tclose (fld 7 w 17 11) (fld 7 w 10 4)) else none else
  if op = 0x5E then if bits w 24 18 = 0 ∧ bits w 10 0 = 0 then some (.tdrain (fld 7 w 17 11))
      else if bits w 24 18 = 1 ∧ bits w 10 0 = 0 then some (.tdrainF (fld 7 w 17 11)) else none else
  if op = 0x5F then if bits w 24 18 = 0 ∧ bits w 10 0 = 0 then some (.tsbind (fld 7 w 17 11)) else none else
  none

/-- Decoding of branches, masks and waits (majors 0x60 to 0x67). -/
def decodeFlow (op w _lit : Nat) : Option Instr :=
  if op = 0x60 then some (.bra (fld 3 w 24 22) (flag w 21) (fld 18 w 20 3) (fld 3 w 2 0)) else
  if op = 0x61 then some (.call (fld 3 w 24 22) (flag w 21) (fld 18 w 20 3) (fld 3 w 2 0)) else
  if op = 0x62 then if bits w 24 18 = 0 ∧ bits w 10 0 = 0 then some (.jmpr (fld 7 w 17 11))
      else if bits w 10 0 = 1 then some (.jmprL (fld 7 w 24 18) (fld 7 w 17 11)) else none else
  if op = 0x63 then if bits w 24 18 = 0 ∧ bits w 10 0 = 0 then some (.ret (fld 7 w 17 11)) else none else
  if op = 0x64 then if bits w 17 14 = 0 ∧ bits w 10 4 = 0 then some (.msplit (fld 7 w 24 18) (fld 3 w 13 11) (fld 4 w 3 0)) else none else
  if op = 0x65 then if bits w 24 4 = 0 then some (.mjoin (fld 4 w 3 0)) else none else
  if op = 0x66 then if bits w 24 0 = 0 then some .exit else none else
  if op = 0x67 then if bits w 24 9 = 0 then (if bits w 8 3 = 0 then some (.nop (fld 3 w 2 0)) else some (.waitsb (fld 6 w 8 3) (fld 3 w 2 0))) else none else
  none

/-- Decoding of cross-lane, barrier, random numbers and recruitment (majors 0x68 to 0x77). -/
def decodeLane (op w lit : Nat) : Option Instr :=
  if op = 0x68 then some (.shfli (fld 7 w 24 18) (fld 7 w 17 11) (fld 7 w 10 4) (fld 4 w 3 0)) else
  if op = 0x69 then some (.shflu (fld 7 w 24 18) (fld 7 w 17 11) (fld 7 w 10 4) (fld 4 w 3 0)) else
  if op = 0x6A then some (.shfld (fld 7 w 24 18) (fld 7 w 17 11) (fld 7 w 10 4) (fld 4 w 3 0)) else
  if op = 0x6B then some (.shflx (fld 7 w 24 18) (fld 7 w 17 11) (fld 7 w 10 4) (fld 4 w 3 0)) else
  if op = 0x6C then if bits w 21 14 = 0 ∧ bits w 10 7 = 0 then some (.vote (fld 3 w 24 22) (fld 3 w 13 11) (flag w 6) (fld 2 w 5 4) (fld 4 w 3 0)) else none else
  if op = 0x6D then if bits w 17 14 = 0 ∧ bits w 10 5 = 0 then some (.ballot (fld 7 w 24 18) (fld 3 w 13 11) (flag w 4) (fld 4 w 3 0)) else none else
  if op = 0x6E then if bits w 10 10 = 0 then some (.scan (fld 7 w 24 18) (fld 7 w 17 11) (flag w 9) (fld 5 w 8 4) (fld 4 w 3 0)) else none else
  if op = 0x6F then if bits w 10 9 = 0 then some (.redux (fld 7 w 24 18) (fld 7 w 17 11) (fld 5 w 8 4) (fld 4 w 3 0)) else none else
  if op = 0x70 then if bits w 21 4 = 0 then some (.elect (fld 3 w 24 22) (fld 4 w 3 0)) else none else
  if op = 0x71 then if bits w 24 0 = 0 then some .bar
      else if bits w 24 0 = 1 then some .barSeam else none else
  if op = 0x72 then if bits w 10 4 = 0 then some (.matchW (fld 7 w 24 18) (fld 7 w 17 11) (fld 4 w 3 0))
      else if bits w 10 4 = 1 then some (.matchD (fld 7 w 24 18) (fld 7 w 17 11) (fld 4 w 3 0)) else none else
  if op = 0x73 then if bits w 17 0 = 0 then some (.rand (fld 7 w 24 18))
      else if bits w 17 0 = 1 then some (.randQ (fld 7 w 24 18))
      else if bits w 17 0 = 2 then some (.randF (fld 7 w 24 18)) else none else
  if op = 0x74 then some (.recruit (fld 7 w 24 18) (fld 7 w 17 11) (fld 7 w 10 4) (flag w 3) (fld 3 w 2 0) (BitVec.ofNat 32 lit)) else
  if op = 0x75 then if bits w 17 4 = 0 then some (.hnext (fld 7 w 24 18) (fld 3 w 3 1) (flag w 0)) else none else
  if op = 0x76 then if bits w 17 0 = 0 then some (.hrelease (fld 7 w 24 18)) else none else
  if op = 0x77 then if bits w 17 0 = 0 then some (.hstat (fld 7 w 24 18))
      else if bits w 17 0 = 1 then some (.hstatNext (fld 7 w 24 18))
      else if bits w 17 0 = 2 then some (.hstatCount (fld 7 w 24 18)) else none else
  none

/-- Decoding of the X-format families (majors 0x78 to 0x7D). -/
def decodeEngine (op w _lit : Nat) : Option Instr :=
  if op = 0x78 then if bits w 24 18 = 0 ∧ bits w 10 0 = 0 then some (.cpin (fld 7 w 17 11))
      else if bits w 24 18 = 1 ∧ bits w 10 0 = 0 then some (.cpinr (fld 7 w 17 11))
      else if bits w 24 18 = 2 ∧ bits w 10 0 = 0 then some (.cpout (fld 7 w 17 11))
      else if bits w 24 18 = 3 ∧ bits w 3 0 = 0 then some (.cpgath (fld 7 w 17 11) (fld 7 w 10 4))
      else if bits w 24 18 = 4 ∧ bits w 3 0 = 0 then some (.cpmc (fld 7 w 17 11) (fld 7 w 10 4))
      else if bits w 24 18 = 5 ∧ bits w 3 0 = 0 then some (.cpnet (fld 7 w 17 11) (fld 7 w 10 4))
      else if bits w 24 18 = 6 ∧ bits w 3 0 = 0 then some (.cppf (fld 7 w 17 11) (fld 7 w 10 4)) else none else
  if op = 0x79 then if bits w 24 18 = 0 ∧ bits w 3 0 = 0 then some (.syinit (fld 7 w 17 11) (fld 7 w 10 4))
      else if bits w 24 18 = 1 ∧ bits w 3 0 = 0 then some (.syarr (fld 7 w 17 11) (fld 7 w 10 4))
      else if bits w 24 18 = 2 ∧ bits w 3 0 = 0 then some (.sywait (fld 7 w 17 11) (fld 7 w 10 4))
      else if bits w 24 18 = 3 ∧ bits w 3 0 = 0 then some (.sytest (fld 7 w 17 11) (fld 7 w 10 4))
      else if bits w 24 18 = 4 ∧ bits w 3 0 = 0 then some (.waitc (fld 7 w 17 11) (fld 7 w 10 4))
      else if bits w 24 18 = 5 ∧ bits w 3 0 = 0 then some (.cntrd (fld 7 w 17 11) (fld 7 w 10 4)) else none else
  if op = 0x7A then if bits w 24 18 = 0 ∧ bits w 3 0 = 0 then some (.mma (fld 7 w 17 11) (fld 7 w 10 4))
      else if bits w 24 18 = 1 ∧ bits w 3 0 = 0 then some (.mmas (fld 7 w 17 11) (fld 7 w 10 4))
      else if bits w 24 18 = 2 ∧ bits w 3 0 = 0 then some (.mrast (fld 7 w 17 11) (fld 7 w 10 4))
      else if bits w 24 18 = 3 ∧ bits w 3 0 = 0 then some (.mfilt (fld 7 w 17 11) (fld 7 w 10 4))
      else if bits w 24 8 = 4096 ∧ bits w 3 0 = 0 then some (.mzero (flag w 7) (fld 3 w 6 4))
      else if bits w 24 18 = 5 ∧ bits w 10 0 = 0 then some (.mstat (fld 7 w 17 11))
      else if bits w 24 18 = 5 ∧ bits w 10 0 = 16 then some (.mstatC (fld 7 w 17 11)) else none else
  if op = 0x7B then if bits w 24 18 = 0 ∧ bits w 3 0 = 0 then some (.spawn (fld 7 w 17 11) (fld 7 w 10 4))
      else if bits w 24 18 = 1 ∧ bits w 3 0 = 0 then some (.spawnn (fld 7 w 17 11) (fld 7 w 10 4))
      else if bits w 24 18 = 2 ∧ bits w 10 0 = 0 then some (.cancelchk (fld 7 w 17 11))
      else if bits w 24 18 = 3 ∧ bits w 3 0 = 0 then some (.lvlrd (fld 7 w 17 11) (fld 7 w 10 4))
      else if bits w 24 11 = 512 ∧ bits w 3 0 = 0 then some (.lvlcancel (fld 7 w 10 4))
      else if bits w 24 18 = 5 ∧ bits w 10 0 = 0 then some (.seedrd (fld 7 w 17 11))
      else if bits w 24 11 = 768 ∧ bits w 3 0 = 0 then some (.qhold (fld 7 w 10 4))
      else if bits w 24 11 = 896 ∧ bits w 3 0 = 0 then some (.qrun (fld 7 w 10 4)) else none else
  if op = 0x7C then if bits w 24 18 = 0 ∧ bits w 3 0 = 0 then some (.shpset (fld 7 w 17 11) (fld 7 w 10 4))
      else if bits w 24 11 = 128 ∧ bits w 3 0 = 0 then some (.shpfree (fld 7 w 10 4))
      else if bits w 24 18 = 2 ∧ bits w 3 0 = 0 then some (.shprd (fld 7 w 17 11) (fld 7 w 10 4)) else none else
  if op = 0x7D then if bits w 24 11 = 0 ∧ bits w 3 0 = 0 then some (.trap (fld 7 w 10 4))
      else if bits w 24 11 = 128 ∧ bits w 3 0 = 0 then some (.bkpt (fld 7 w 10 4))
      else if bits w 24 18 = 2 ∧ bits w 3 0 = 0 then some (.cregr (fld 7 w 17 11) (fld 7 w 10 4))
      else if bits w 24 18 = 3 ∧ bits w 3 0 = 0 then some (.cregw (fld 7 w 17 11) (fld 7 w 10 4))
      else if bits w 24 0 = 1048576 then some .yield
      else if bits w 24 11 = 640 ∧ bits w 3 0 = 0 then some (.sleep (fld 7 w 10 4))
      else if bits w 24 18 = 6 ∧ bits w 3 0 = 0 then some (.fqpop (fld 7 w 17 11) (fld 7 w 10 4))
      else if bits w 24 18 = 7 ∧ bits w 3 0 = 0 then some (.resume (fld 7 w 17 11) (fld 7 w 10 4))
      else if bits w 24 18 = 8 ∧ bits w 3 0 = 0 then some (.tlbinv (fld 7 w 17 11) (fld 7 w 10 4)) else none else
  none

/-- The instruction that the word `w` holds; `lit` is the word after it in the clause, used by LIT and RECRUIT alone.
Bits [31:25] are the major opcode (02 R34). -/
def decodeMajor (op w lit : Nat) : Option Instr :=
  if op ≤ 0x1F then decodeInt op w lit else
  if op ≤ 0x27 then decodeMove op w lit else
  if op ≤ 0x3B then decodeFloat op w lit else
  if op ≤ 0x4F then decodeMem op w lit else
  if op ≤ 0x5F then decodeAtom op w lit else
  if op ≤ 0x67 then decodeFlow op w lit else
  if op ≤ 0x77 then decodeLane op w lit else
  if op ≤ 0x7D then decodeEngine op w lit else
  none

/-- The instruction of a word and the word after it. -/
def decodeWord (w lit : Word) : Option Instr := decodeMajor (bits w.toNat 31 25) w.toNat lit.toNat

/-- The little-endian word of four bytes (00 R4). -/
def wordOfBytes (b0 b1 b2 b3 : Byte) : Word := b3 ++ b2 ++ b1 ++ b0

/-- The instruction at the head of a list of bytes, and the bytes after it. -/
def decodeBytes (bs : List Byte) : Option (Instr × List Byte) :=
  match bs with
  | b0 :: b1 :: b2 :: b3 :: rest =>
    match rest with
    | c0 :: c1 :: c2 :: c3 :: rest' =>
      match decodeWord (wordOfBytes b0 b1 b2 b3) (wordOfBytes c0 c1 c2 c3) with
      | some i => some (i, if i.words = 2 then rest' else rest)
      | none => none
    | _ =>
      match decodeWord (wordOfBytes b0 b1 b2 b3) 0 with
      | some i => if i.words = 2 then none else some (i, rest)
      | none => none
  | _ => none

/-- The `n` lowest bytes of a number, lowest first. -/
def bytesOf : Nat → Nat → List Byte
  | 0, _ => []
  | n + 1, w => BitVec.ofNat 8 w :: bytesOf n (w / 256)

/-- What the decoder reads from an instruction whose bits are `w`, bit 0 the least significant of the first word; bits
from `nbits` up are zero, up to the two words of the longest instruction. -/
def decodeTableWord (nbits w : Nat) : Option Instr :=
  match decodeBytes (bytesOf 8 (w % 2 ^ nbits)) with
  | some (i, _) => some i
  | none => none

/-- The first word of an instruction, from the same encoding tables; 0 for the steps and packets, which have none. -/
def encodeWord (i : Instr) : Nat :=
  match i with
  | .iadd d a b k st => 0x00000000 + d.toNat * 262144 + a.toNat * 2048 + b.toNat * 16 + k.toNat * 8 + st.toNat
  | .isub d a b k st => 0x02000000 + d.toNat * 262144 + a.toNat * 2048 + b.toNat * 16 + k.toNat * 8 + st.toNat
  | .imul d a b k st => 0x04000000 + d.toNat * 262144 + a.toNat * 2048 + b.toNat * 16 + k.toNat * 8 + st.toNat
  | .imulhi d a b k st => 0x06000000 + d.toNat * 262144 + a.toNat * 2048 + b.toNat * 16 + k.toNat * 8 + st.toNat
  | .imulhu d a b k st => 0x08000000 + d.toNat * 262144 + a.toNat * 2048 + b.toNat * 16 + k.toNat * 8 + st.toNat
  | .imad d a b k st => 0x0A000000 + d.toNat * 262144 + a.toNat * 2048 + b.toNat * 16 + k.toNat * 8 + st.toNat
  | .and d a b k st => 0x0C000000 + d.toNat * 262144 + a.toNat * 2048 + b.toNat * 16 + k.toNat * 8 + st.toNat
  | .or d a b k st => 0x0E000000 + d.toNat * 262144 + a.toNat * 2048 + b.toNat * 16 + k.toNat * 8 + st.toNat
  | .xor d a b k st => 0x10000000 + d.toNat * 262144 + a.toNat * 2048 + b.toNat * 16 + k.toNat * 8 + st.toNat
  | .andn d a b k st => 0x12000000 + d.toNat * 262144 + a.toNat * 2048 + b.toNat * 16 + k.toNat * 8 + st.toNat
  | .shl d a b k st => 0x14000000 + d.toNat * 262144 + a.toNat * 2048 + b.toNat * 16 + k.toNat * 8 + st.toNat
  | .shr d a b k st => 0x16000000 + d.toNat * 262144 + a.toNat * 2048 + b.toNat * 16 + k.toNat * 8 + st.toNat
  | .sar d a b k st => 0x18000000 + d.toNat * 262144 + a.toNat * 2048 + b.toNat * 16 + k.toNat * 8 + st.toNat
  | .imin d a b k st => 0x1A000000 + d.toNat * 262144 + a.toNat * 2048 + b.toNat * 16 + k.toNat * 8 + st.toNat
  | .imax d a b k st => 0x1C000000 + d.toNat * 262144 + a.toNat * 2048 + b.toNat * 16 + k.toNat * 8 + st.toNat
  | .umin d a b k st => 0x1E000000 + d.toNat * 262144 + a.toNat * 2048 + b.toNat * 16 + k.toNat * 8 + st.toNat
  | .umax d a b k st => 0x3C000000 + d.toNat * 262144 + a.toNat * 2048 + b.toNat * 16 + k.toNat * 8 + st.toNat
  | .iaddi d a imm st => 0x20000000 + d.toNat * 262144 + a.toNat * 2048 + imm.toNat * 8 + st.toNat
  | .andi d a imm st => 0x22000000 + d.toNat * 262144 + a.toNat * 2048 + imm.toNat * 8 + st.toNat
  | .ori d a imm st => 0x24000000 + d.toNat * 262144 + a.toNat * 2048 + imm.toNat * 8 + st.toNat
  | .xori d a imm st => 0x26000000 + d.toNat * 262144 + a.toNat * 2048 + imm.toNat * 8 + st.toNat
  | .shli d a imm st => 0x28000000 + d.toNat * 262144 + a.toNat * 2048 + imm.toNat * 8 + st.toNat
  | .shri d a imm st => 0x2A000000 + d.toNat * 262144 + a.toNat * 2048 + imm.toNat * 8 + st.toNat
  | .sari d a imm st => 0x2C000000 + d.toNat * 262144 + a.toNat * 2048 + imm.toNat * 8 + st.toNat
  | .imuli d a imm st => 0x2E000000 + d.toNat * 262144 + a.toNat * 2048 + imm.toNat * 8 + st.toNat
  | .iadd64 d a b k st => 0x30000000 + d.toNat * 262144 + a.toNat * 2048 + b.toNat * 16 + k.toNat * 8 + st.toNat
  | .isub64 d a b k st => 0x32000000 + d.toNat * 262144 + a.toNat * 2048 + b.toNat * 16 + k.toNat * 8 + st.toNat
  | .lea d a b c u => 0x34000000 + d.toNat * 262144 + a.toNat * 2048 + b.toNat * 16 + c.toNat * 2 + u.toNat
  | .bfe d a b k st => 0x36000000 + d.toNat * 262144 + a.toNat * 2048 + b.toNat * 16 + k.toNat * 8 + st.toNat
  | .bfi d a b k st => 0x38000000 + d.toNat * 262144 + a.toNat * 2048 + b.toNat * 16 + k.toNat * 8 + st.toNat
  | .popc d a st => 0x3A000000 + d.toNat * 262144 + a.toNat * 2048 + st.toNat
  | .clz d a st => 0x3A000010 + d.toNat * 262144 + a.toNat * 2048 + st.toNat
  | .ctz d a st => 0x3A000020 + d.toNat * 262144 + a.toNat * 2048 + st.toNat
  | .brev d a st => 0x3A000030 + d.toNat * 262144 + a.toNat * 2048 + st.toNat
  | .bswap d a st => 0x3A000040 + d.toNat * 262144 + a.toNat * 2048 + st.toNat
  | .iabs d a st => 0x3A000050 + d.toNat * 262144 + a.toNat * 2048 + st.toNat
  | .ineg d a st => 0x3A000060 + d.toNat * 262144 + a.toNat * 2048 + st.toNat
  | .not d a st => 0x3A000070 + d.toNat * 262144 + a.toNat * 2048 + st.toNat
  | .idot4 d a b k st => 0x3E000000 + d.toNat * 262144 + a.toNat * 2048 + b.toNat * 16 + k.toNat * 8 + st.toNat
  | .mov d a st => 0x40000000 + d.toNat * 262144 + a.toNat * 2048 + st.toNat
  | .movi d imm st => 0x42000000 + d.toNat * 262144 + imm.toNat * 8 + st.toNat
  | .lit d st _ => 0x44000000 + d.toNat * 262144 + st.toNat
  | .icmp p c a b k st => 0x46000000 + p.toNat * 4194304 + c.toNat * 262144 + a.toNat * 2048 + b.toNat * 16 + k.toNat * 8 + st.toNat
  | .sel d a b p n => 0x48000000 + d.toNat * 262144 + a.toNat * 2048 + b.toNat * 16 + p.toNat * 2 + n.toNat
  | .plop p c a b st => 0x4A000000 + p.toNat * 4194304 + c.toNat * 262144 + a.toNat * 2048 + b.toNat * 16 + st.toNat
  | .pget d => 0x4C000000 + d.toNat * 262144
  | .pset a => 0x4C000001 + a.toNat * 2048
  | .sreg d imm st => 0x4E000000 + d.toNat * 262144 + imm.toNat * 8 + st.toNat
  | .fadd d a b k st => 0x50000000 + d.toNat * 262144 + a.toNat * 2048 + b.toNat * 16 + k.toNat * 8 + st.toNat
  | .fsub d a b k st => 0x52000000 + d.toNat * 262144 + a.toNat * 2048 + b.toNat * 16 + k.toNat * 8 + st.toNat
  | .fmul d a b k st => 0x54000000 + d.toNat * 262144 + a.toNat * 2048 + b.toNat * 16 + k.toNat * 8 + st.toNat
  | .ffma d a b k st => 0x56000000 + d.toNat * 262144 + a.toNat * 2048 + b.toNat * 16 + k.toNat * 8 + st.toNat
  | .fmin d a b k st => 0x58000000 + d.toNat * 262144 + a.toNat * 2048 + b.toNat * 16 + k.toNat * 8 + st.toNat
  | .fmax d a b k st => 0x5A000000 + d.toNat * 262144 + a.toNat * 2048 + b.toNat * 16 + k.toNat * 8 + st.toNat
  | .fcmp p c a b k st => 0x5C000000 + p.toNat * 4194304 + c.toNat * 262144 + a.toNat * 2048 + b.toNat * 16 + k.toNat * 8 + st.toNat
  | .fabs d a st => 0x5E000000 + d.toNat * 262144 + a.toNat * 2048 + st.toNat
  | .fneg d a st => 0x5E000010 + d.toNat * 262144 + a.toNat * 2048 + st.toNat
  | .frcp d a st => 0x5E000020 + d.toNat * 262144 + a.toNat * 2048 + st.toNat
  | .frsq d a st => 0x5E000030 + d.toNat * 262144 + a.toNat * 2048 + st.toNat
  | .fsqrt d a st => 0x5E000040 + d.toNat * 262144 + a.toNat * 2048 + st.toNat
  | .fexp2 d a st => 0x5E000050 + d.toNat * 262144 + a.toNat * 2048 + st.toNat
  | .flog2 d a st => 0x5E000060 + d.toNat * 262144 + a.toNat * 2048 + st.toNat
  | .fsin d a st => 0x5E000070 + d.toNat * 262144 + a.toNat * 2048 + st.toNat
  | .fcos d a st => 0x5E000080 + d.toNat * 262144 + a.toNat * 2048 + st.toNat
  | .ffloor d a st => 0x5E000090 + d.toNat * 262144 + a.toNat * 2048 + st.toNat
  | .fceil d a st => 0x5E0000A0 + d.toNat * 262144 + a.toNat * 2048 + st.toNat
  | .ftrunc d a st => 0x5E0000B0 + d.toNat * 262144 + a.toNat * 2048 + st.toNat
  | .frint d a st => 0x5E0000C0 + d.toNat * 262144 + a.toNat * 2048 + st.toNat
  | .fclass d a st => 0x5E0000D0 + d.toNat * 262144 + a.toNat * 2048 + st.toNat
  | .hadd2 d a b k st => 0x60000000 + d.toNat * 262144 + a.toNat * 2048 + b.toNat * 16 + k.toNat * 8 + st.toNat
  | .hmul2 d a b k st => 0x62000000 + d.toNat * 262144 + a.toNat * 2048 + b.toNat * 16 + k.toNat * 8 + st.toNat
  | .hfma2 d a b k st => 0x64000000 + d.toNat * 262144 + a.toNat * 2048 + b.toNat * 16 + k.toNat * 8 + st.toNat
  | .badd2 d a b k st => 0x66000000 + d.toNat * 262144 + a.toNat * 2048 + b.toNat * 16 + k.toNat * 8 + st.toNat
  | .bmul2 d a b k st => 0x68000000 + d.toNat * 262144 + a.toNat * 2048 + b.toNat * 16 + k.toNat * 8 + st.toNat
  | .bfma2 d a b k st => 0x6A000000 + d.toNat * 262144 + a.toNat * 2048 + b.toNat * 16 + k.toNat * 8 + st.toNat
  | .fcvt d a b st => 0x6C000000 + d.toNat * 262144 + a.toNat * 2048 + b.toNat * 16 + st.toNat
  | .dadd d a b k st => 0x6E000000 + d.toNat * 262144 + a.toNat * 2048 + b.toNat * 16 + k.toNat * 8 + st.toNat
  | .dmul d a b k st => 0x70000000 + d.toNat * 262144 + a.toNat * 2048 + b.toNat * 16 + k.toNat * 8 + st.toNat
  | .dfma d a b k st => 0x72000000 + d.toNat * 262144 + a.toNat * 2048 + b.toNat * 16 + k.toNat * 8 + st.toNat
  | .dcmp p c a b k st => 0x74000000 + p.toNat * 4194304 + c.toNat * 262144 + a.toNat * 2048 + b.toNat * 16 + k.toNat * 8 + st.toNat
  | .dcvt d a b st => 0x76000000 + d.toNat * 262144 + a.toNat * 2048 + b.toNat * 16 + st.toNat
  | .ldb d a off sb => 0x78000000 + d.toNat * 262144 + a.toNat * 2048 + off.toNat * 8 + sb.toNat
  | .ldbs d a off sb => 0x7A000000 + d.toNat * 262144 + a.toNat * 2048 + off.toNat * 8 + sb.toNat
  | .ldh d a off sb => 0x7C000000 + d.toNat * 262144 + a.toNat * 2048 + off.toNat * 8 + sb.toNat
  | .ldhs d a off sb => 0x7E000000 + d.toNat * 262144 + a.toNat * 2048 + off.toNat * 8 + sb.toNat
  | .ldw d a off sb => 0x80000000 + d.toNat * 262144 + a.toNat * 2048 + off.toNat * 8 + sb.toNat
  | .ldd d a off sb => 0x82000000 + d.toNat * 262144 + a.toNat * 2048 + off.toNat * 8 + sb.toNat
  | .ldq d a off sb => 0x84000000 + d.toNat * 262144 + a.toNat * 2048 + off.toNat * 8 + sb.toNat
  | .stb d a off sb => 0x86000000 + d.toNat * 262144 + a.toNat * 2048 + off.toNat * 8 + sb.toNat
  | .sth d a off sb => 0x88000000 + d.toNat * 262144 + a.toNat * 2048 + off.toNat * 8 + sb.toNat
  | .stw d a off sb => 0x8A000000 + d.toNat * 262144 + a.toNat * 2048 + off.toNat * 8 + sb.toNat
  | .std d a off sb => 0x8C000000 + d.toNat * 262144 + a.toNat * 2048 + off.toNat * 8 + sb.toNat
  | .stq d a off sb => 0x8E000000 + d.toNat * 262144 + a.toNat * 2048 + off.toNat * 8 + sb.toNat
  | .stnt d a off sb => 0x90000000 + d.toNat * 262144 + a.toNat * 2048 + off.toNat * 8 + sb.toNat
  | .drain => 0x92000000
  | .fence => 0x94000000
  | .pref lvl a off => 0x96000000 + lvl.toNat * 262144 + a.toNat * 2048 + off.toNat * 8
  | .cctlIinv a off => 0x98000000 + a.toNat * 2048 + off.toNat * 8
  | .cctlIinvall a off => 0x98040000 + a.toNat * 2048 + off.toNat * 8
  | .cctlEvict a off => 0x98080000 + a.toNat * 2048 + off.toNat * 8
  | .cctlZero a off => 0x980C0000 + a.toNat * 2048 + off.toNat * 8
  | .aadd d a b q sb => 0xA0000000 + d.toNat * 262144 + a.toNat * 2048 + b.toNat * 16 + q.toNat * 8 + sb.toNat
  | .aand d a b q sb => 0xA2000000 + d.toNat * 262144 + a.toNat * 2048 + b.toNat * 16 + q.toNat * 8 + sb.toNat
  | .aor d a b q sb => 0xA4000000 + d.toNat * 262144 + a.toNat * 2048 + b.toNat * 16 + q.toNat * 8 + sb.toNat
  | .axor d a b q sb => 0xA6000000 + d.toNat * 262144 + a.toNat * 2048 + b.toNat * 16 + q.toNat * 8 + sb.toNat
  | .amin d a b q sb => 0xA8000000 + d.toNat * 262144 + a.toNat * 2048 + b.toNat * 16 + q.toNat * 8 + sb.toNat
  | .amax d a b q sb => 0xAA000000 + d.toNat * 262144 + a.toNat * 2048 + b.toNat * 16 + q.toNat * 8 + sb.toNat
  | .aumin d a b q sb => 0xAC000000 + d.toNat * 262144 + a.toNat * 2048 + b.toNat * 16 + q.toNat * 8 + sb.toNat
  | .aumax d a b q sb => 0xAE000000 + d.toNat * 262144 + a.toNat * 2048 + b.toNat * 16 + q.toNat * 8 + sb.toNat
  | .axchg d a b q sb => 0xB0000000 + d.toNat * 262144 + a.toNat * 2048 + b.toNat * 16 + q.toNat * 8 + sb.toNat
  | .acas d a b q sb => 0xB2000000 + d.toNat * 262144 + a.toNat * 2048 + b.toNat * 16 + q.toNat * 8 + sb.toNat
  | .afadd d a b q sb => 0xB4000000 + d.toNat * 262144 + a.toNat * 2048 + b.toNat * 16 + q.toNat * 8 + sb.toNat
  | .afaddt d a b sb => 0xB6000008 + d.toNat * 262144 + a.toNat * 2048 + b.toNat * 16 + sb.toNat
  | .tsopen d a => 0xB8000000 + d.toNat * 262144 + a.toNat * 2048
  | .tclose a b => 0xBA000000 + a.toNat * 2048 + b.toNat * 16
  | .tdrain a => 0xBC000000 + a.toNat * 2048
  | .tdrainF a => 0xBC040000 + a.toNat * 2048
  | .tsbind a => 0xBE000000 + a.toNat * 2048
  | .bra p n off f => 0xC0000000 + p.toNat * 4194304 + n.toNat * 2097152 + off.toNat * 8 + f.toNat
  | .call p n off f => 0xC2000000 + p.toNat * 4194304 + n.toNat * 2097152 + off.toNat * 8 + f.toNat
  | .jmpr a => 0xC4000000 + a.toNat * 2048
  | .jmprL d a => 0xC4000001 + d.toNat * 262144 + a.toNat * 2048
  | .ret a => 0xC6000000 + a.toNat * 2048
  | .msplit d p m => 0xC8000000 + d.toNat * 262144 + p.toNat * 2048 + m.toNat
  | .mjoin m => 0xCA000000 + m.toNat
  | .exit => 0xCC000000
  | .waitsb m st => 0xCE000000 + m.toNat * 8 + st.toNat
  | .nop st => 0xCE000000 + st.toNat
  | .shfli d a b m => 0xD0000000 + d.toNat * 262144 + a.toNat * 2048 + b.toNat * 16 + m.toNat
  | .shflu d a b m => 0xD2000000 + d.toNat * 262144 + a.toNat * 2048 + b.toNat * 16 + m.toNat
  | .shfld d a b m => 0xD4000000 + d.toNat * 262144 + a.toNat * 2048 + b.toNat * 16 + m.toNat
  | .shflx d a b m => 0xD6000000 + d.toNat * 262144 + a.toNat * 2048 + b.toNat * 16 + m.toNat
  | .vote p q n off m => 0xD8000000 + p.toNat * 4194304 + q.toNat * 2048 + n.toNat * 64 + off.toNat * 16 + m.toNat
  | .ballot d p n m => 0xDA000000 + d.toNat * 262144 + p.toNat * 2048 + n.toNat * 16 + m.toNat
  | .scan d a ex off m => 0xDC000000 + d.toNat * 262144 + a.toNat * 2048 + ex.toNat * 512 + off.toNat * 16 + m.toNat
  | .redux d a off m => 0xDE000000 + d.toNat * 262144 + a.toNat * 2048 + off.toNat * 16 + m.toNat
  | .elect p m => 0xE0000000 + p.toNat * 4194304 + m.toNat
  | .bar => 0xE2000000
  | .barSeam => 0xE2000001
  | .matchW d a m => 0xE4000000 + d.toNat * 262144 + a.toNat * 2048 + m.toNat
  | .matchD d a m => 0xE4000010 + d.toNat * 262144 + a.toNat * 2048 + m.toNat
  | .rand d => 0xE6000000 + d.toNat * 262144
  | .randQ d => 0xE6000001 + d.toNat * 262144
  | .randF d => 0xE6000002 + d.toNat * 262144
  | .recruit d a b k st _ => 0xE8000000 + d.toNat * 262144 + a.toNat * 2048 + b.toNat * 16 + k.toNat * 8 + st.toNat
  | .hnext d p n => 0xEA000000 + d.toNat * 262144 + p.toNat * 2 + n.toNat
  | .hrelease d => 0xEC000000 + d.toNat * 262144
  | .hstat d => 0xEE000000 + d.toNat * 262144
  | .hstatNext d => 0xEE000001 + d.toNat * 262144
  | .hstatCount d => 0xEE000002 + d.toNat * 262144
  | .cpin a => 0xF0000000 + a.toNat * 2048
  | .cpinr a => 0xF0040000 + a.toNat * 2048
  | .cpout a => 0xF0080000 + a.toNat * 2048
  | .cpgath a b => 0xF00C0000 + a.toNat * 2048 + b.toNat * 16
  | .cpmc a b => 0xF0100000 + a.toNat * 2048 + b.toNat * 16
  | .cpnet a b => 0xF0140000 + a.toNat * 2048 + b.toNat * 16
  | .cppf a b => 0xF0180000 + a.toNat * 2048 + b.toNat * 16
  | .syinit a b => 0xF2000000 + a.toNat * 2048 + b.toNat * 16
  | .syarr a b => 0xF2040000 + a.toNat * 2048 + b.toNat * 16
  | .sywait a b => 0xF2080000 + a.toNat * 2048 + b.toNat * 16
  | .sytest a b => 0xF20C0000 + a.toNat * 2048 + b.toNat * 16
  | .waitc c n => 0xF2100000 + c.toNat * 2048 + n.toNat * 16
  | .cntrd a c => 0xF2140000 + a.toNat * 2048 + c.toNat * 16
  | .mma a b => 0xF4000000 + a.toNat * 2048 + b.toNat * 16
  | .mmas a b => 0xF4040000 + a.toNat * 2048 + b.toNat * 16
  | .mrast a b => 0xF4080000 + a.toNat * 2048 + b.toNat * 16
  | .mfilt a b => 0xF40C0000 + a.toNat * 2048 + b.toNat * 16
  | .mzero t n => 0xF4100000 + t.toNat * 128 + n.toNat * 16
  | .mstat a => 0xF4140000 + a.toNat * 2048
  | .mstatC a => 0xF4140010 + a.toNat * 2048
  | .spawn a b => 0xF6000000 + a.toNat * 2048 + b.toNat * 16
  | .spawnn a b => 0xF6040000 + a.toNat * 2048 + b.toNat * 16
  | .cancelchk a => 0xF6080000 + a.toNat * 2048
  | .lvlrd a b => 0xF60C0000 + a.toNat * 2048 + b.toNat * 16
  | .lvlcancel b => 0xF6100000 + b.toNat * 16
  | .seedrd a => 0xF6140000 + a.toNat * 2048
  | .qhold b => 0xF6180000 + b.toNat * 16
  | .qrun b => 0xF61C0000 + b.toNat * 16
  | .shpset a b => 0xF8000000 + a.toNat * 2048 + b.toNat * 16
  | .shpfree b => 0xF8040000 + b.toNat * 16
  | .shprd a b => 0xF8080000 + a.toNat * 2048 + b.toNat * 16
  | .trap b => 0xFA000000 + b.toNat * 16
  | .bkpt b => 0xFA040000 + b.toNat * 16
  | .cregr a b => 0xFA080000 + a.toNat * 2048 + b.toNat * 16
  | .cregw a b => 0xFA0C0000 + a.toNat * 2048 + b.toNat * 16
  | .yield => 0xFA100000
  | .sleep b => 0xFA140000 + b.toNat * 16
  | .fqpop a b => 0xFA180000 + a.toNat * 2048 + b.toNat * 16
  | .resume a b => 0xFA1C0000 + a.toNat * 2048 + b.toNat * 16
  | .tlbinv a b => 0xFA200000 + a.toNat * 2048 + b.toNat * 16
  | .bankSwitch _ => 0
  | .clauseFetch => 0
  | .loadReturn _ _ => 0
  | .faultRecordPost _ => 0
  | .sleepExpiry _ _ => 0
  | .crewToPending _ => 0
  | .pendingCrewEntry _ _ => 0
  | .activeCrewRotation _ _ => 0
  | .helperSuspend _ _ _ => 0
  | .helperResume _ _ _ => 0
  | .crewEnd _ => 0
  | .seamComplete _ => 0
  | .hoistDispatch _ => 0
  | .crewPlacement _ => 0
  | .handlerPlacement _ => 0
  | .watchdogExpiry _ => 0
  | .ticketUpdateArrival _ => 0
  | .ticketUpdateRetry _ => 0
  | .ticketStallExpiry _ => 0
  | .atomicAtHome _ => 0
  | .copyArrival _ _ _ => 0
  | .netRetransmitTimeout _ _ => 0
  | .netTransportFailure _ _ => 0
  | .cpnetComplete _ _ _ => 0
  | .matrixStep _ => 0
  | .postOperator _ => 0
  | .fifoPush _ _ => 0
  | .fifoPop _ _ => 0
  | .pageWalk _ _ => 0
  | .contextSave _ => 0
  | .killComplete _ => 0
  | .migration _ => 0
  | .launchSeedPush _ => 0
  | .queueUnbindComplete _ => 0
  | .packetGuardPoll _ => 0
  | .queueMap => 0
  | .queueIdleUnmap _ => 0
  | .queueOverdueSwap => 0
  | .kick _ _ => 0
  | .pktgo _ => 0
  | .queueEnable _ _ => 0
  | .queueDisable _ => 0
  | .pwrcap _ => 0
  | .registerWrite _ _ => 0
  | .throttleAdjust _ _ => 0
  | .eventResend _ => 0
  | .leaseLapse => 0
  | .recoverySessionTimeout => 0
  | .deviceStart => 0
  | .rdmaWrite _ _ _ _ => 0
  | .rdmaRead _ _ _ _ => 0
  | .sendMsg _ _ => 0
  | .regrd _ _ _ => 0
  | .regwr _ _ _ => 0
  | .claim _ => 0
  | .renew _ => 0
  | .handover _ _ => 0
  | .releaseOwner _ => 0
  | .halt _ _ _ => 0
  | .stepThread _ _ _ _ => 0
  | .stepcrew _ _ _ => 0
  | .runCtx _ _ => 0
  | .dread _ _ _ _ _ => 0
  | .attquery _ _ => 0
  | .recbegin _ _ => 0
  | .recdata _ _ _ => 0
  | .reccommit _ => 0
  | .recreset _ => 0
  | .recinfo _ => 0
  | .evack _ _ => 0
  | .nopPacket _ _ => 0
  | .ctxnew _ _ => 0
  | .ctxkill _ _ => 0
  | .preempt _ _ => 0
  | .ctxrun _ _ => 0
  | .qbind _ _ => 0
  | .qunbind _ _ => 0
  | .recact _ _ => 0
  | .limits _ _ => 0
  | .wdrestart _ _ => 0
  | .peers _ _ => 0
  | .exportWin _ _ => 0
  | .rxring _ _ => 0
  | .migrate _ _ => 0
  | .evict _ _ => 0
  | .sopen _ _ => 0
  | .sfree _ _ => 0
  | .jobopen _ _ => 0
  | .jobclose _ _ => 0
  | .phaseopen _ _ => 0
  | .phaseclose _ _ => 0
  | .graphopen _ _ => 0
  | .graphclose _ _ => 0
  | .launch _ _ => 0
  | .cancel _ _ => 0
  | .waitPacket _ _ => 0
  | .fencePacket _ _ => 0
  | .seedpush _ _ => 0
  | .seedpop _ _ => 0
  | .seedfork _ _ => 0
  | .pendingStoreEvent _ _ _ => 0
  | .uncorrectableError _ => 0

/-- The words of an instruction: two for LIT and RECRUIT, none for the steps that have no encoding. -/
def encode (i : Instr) : List Word :=
  match i with
  | .lit _ _ l => [BitVec.ofNat 32 (encodeWord i), l]
  | .recruit _ _ _ _ _ l => [BitVec.ofNat 32 (encodeWord i), l]
  | _ => if i.isWord then [BitVec.ofNat 32 (encodeWord i)] else []

end Sys2Proof
end

