-- ==== Sys2Proof/Machine/Table.lean ====
section
/-!
DEFINITION. Tables: sparse data by number, as lists of pairs with strictly rising keys, so that equal contents are equal
lists; and rising lists of numbers as sets. Memory, registers and every family of numbered objects are tables.
-/
namespace Sys2Proof.Machine

/-- A table: pairs with strictly rising keys. -/
abbrev Table (α : Type) := List (Nat × α)

/-- The entry at a key. -/
def tget {α : Type} : Table α → Nat → Option α
  | [], _ => none
  | (k, v) :: t, x => if x = k then some v else tget t x

/-- The table with the entry at a key set. -/
def tset {α : Type} : Table α → Nat → α → Table α
  | [], x, a => [(x, a)]
  | (k, v) :: t, x, a =>
    if x = k then (k, a) :: t
    else if x < k then (x, a) :: (k, v) :: t
    else (k, v) :: tset t x a

/-- The table without the entry at a key. -/
def tdel {α : Type} (t : Table α) (x : Nat) : Table α := t.filter (fun e => e.1 != x)

/-- The entry at a key, or the value that an unlisted key has. -/
def tgetD {α : Type} (t : Table α) (x : Nat) (d : α) : α :=
  match tget t x with
  | some v => v
  | none => d

/-- Sets an entry of a table whose unlisted keys have the value `d`: setting `d` removes the entry. -/
def tput {α : Type} [DecidableEq α] (t : Table α) (x : Nat) (a d : α) : Table α :=
  if a = d then tdel t x else tset t x a

/-- Applies a function to the entry at a key, if there is one. -/
def tmod {α : Type} (t : Table α) (x : Nat) (f : α → α) : Table α :=
  match tget t x with
  | some v => tset t x (f v)
  | none => t

/-- Every key is above `n`, and the keys rise. -/
def trisesFrom {α : Type} : Option Nat → Table α → Bool
  | _, [] => true
  | none, (k, _) :: t => trisesFrom (some k) t
  | some n, (k, _) :: t => decide (n < k) && trisesFrom (some k) t

/-- The canonical form of a table: keys strictly rise. -/
def trises {α : Type} (t : Table α) : Bool := trisesFrom none t

/-- The least key from `n` up that is not in the table, looking at most `fuel` keys ahead. -/
def tfree {α : Type} (t : Table α) : Nat → Nat → Option Nat
  | _, 0 => none
  | n, fuel + 1 => if (tget t n).isSome then tfree t (n + 1) fuel else some n

/-- Adds a number to a rising list. -/
def sadd : List Nat → Nat → List Nat
  | [], x => [x]
  | k :: t, x => if x = k then k :: t else if x < k then x :: k :: t else k :: sadd t x

/-- Removes a number from a rising list. -/
def sdel : List Nat → Nat → List Nat
  | [], _ => []
  | k :: t, x => if x = k then t else k :: sdel t x

end Sys2Proof.Machine
end

