-- ==== Sys2Proof/Machine/Types.lean ====
section
/-!
DEFINITION. The records that State is made of, part 1: threads, helpers, recruitments, crews, clusters, copies, matrix
jobs, ticket streams and tasks. Plain data. Each field cites the rule of spec/ that names it.
-/
namespace Sys2Proof.Machine

/-- A fetched clause (01 R17, R18): the address of its header, the words after it, and its wait mask, bit 0 for slot 1
(02 R29). `waited` says that its wait mask has been satisfied (01 R23). -/
structure Clause where
  header : Nat
  words : List Word
  wait : Nat
  waited : Bool
  deriving DecidableEq, Repr, Inhabited

/-- A range of tickets that a TCLOSE is still to close: the threads that close it, the first ticket, and the number (12 R249). -/
structure CloseRange where
  who : List Nat
  first : Nat
  num : Nat
  deriving DecidableEq, Repr, Inhabited

/-- What a waiting thread waits for (01 R27, 17 R333). -/
inductive Wait where
  /-- Slots: WAITSB or a wait mask (01 R23). -/
  | slots
  /-- MJOIN or the implicit join of a mask instruction, at an address with a mask (05 R111, 06 R123). -/
  | join (pc : Nat) (mask : Word)
  /-- BAR or BAR.SEAM at an address (06 R139). -/
  | bar (pc : Nat) (seam : Bool)
  /-- WAITC, or an engine counter at 63 (13 R277, R283), a full job queue (14 R286), or MSTAT (14 R306). -/
  | engine
  /-- SYWAIT for a generation after `g` at a place of a cluster's scratchpad, named by window address (13 R282). `tag` numbers the
  group that began to wait. -/
  | sync (cluster off va : Nat) (g : Word) (tag : Nat)
  /-- HRELEASE, or EXIT with a recruitment open (07 R157, 03 R73). -/
  | release
  /-- TDRAIN on a stream, by handle; `free` for TDRAIN.F (12 R253). -/
  | drain (h : Word) (free : Bool)
  /-- TCLOSE: earlier updates to be accepted, or the reach of the close table (12 R249): the handle, and the ranges still
  to be closed. -/
  | close (h : Word) (rest : List CloseRange)
  /-- SLEEP until a clock; `long` when it counts for R114 (17 R342). -/
  | sleep (until_ : Nat) (long : Bool)
  /-- YIELD until a clock (17 R342). -/
  | yields (until_ : Nat)
  /-- A bank switch (10 R200). -/
  | bank
  deriving DecidableEq, Repr, Inhabited

/-- The state of a thread (17 R333). A parked thread holds the sequence number of its fault record. -/
inductive RunState where
  | running
  | waiting (w : Wait)
  | parked (record : Nat)
  | exited
  deriving DecidableEq, Repr, Inhabited

/-- A leaf entry as a walk or a translation cache gives it (10 R211, R212): the entry, its physical address, whether it is
a 512 MiB leaf. -/
structure Leaf where
  pte : Nat
  addr : Nat
  large : Bool
  deriving DecidableEq, Repr, Inhabited

/-- What an access reaches: memory through a leaf, a register, a byte of a bank, or a FIFO port (03 R63, 10 R202, R204). -/
inductive Reach where
  | mem (pa : Nat) (l : Leaf)
  | reg (off : Nat) (l : Leaf)
  | bank (cl key : Nat)
  | port (cl bank off : Nat)
  deriving DecidableEq, Repr, Inhabited

/-- A pending STNT or write-combining store (11 R223, R225): the threads that issued it, the number of their instruction,
its address, physical or, with a cluster, of a byte of that cluster's banks, and its bytes. -/
structure Pending where
  wc : Bool
  who : List Nat
  instr : Nat
  cluster : Option Nat
  pa : Nat
  data : List Byte
  deriving DecidableEq, Repr, Inhabited

/-- A helper's own part (07 R150, R160): the recruiter's lane, the worker number, v32 to v63, the lane held as half × 32
+ lane, the clock at which its release fell due, and whether it is suspended; and CREWCTL as it stood at the grant (05
R122). -/
structure Helper where
  recruiter : Nat
  worker : Nat
  priv : Table Word
  held : Option Nat
  due : Option Nat
  suspended : Bool
  crewctl : Word
  deriving DecidableEq, Repr, Inhabited

/-- A thread (01 R12): of a lane, or a helper. `preds` bit i is p(i) for i below 7. `stale`: instruction words by word
address that its fetch may still hold until it takes a branch (01 R19). `farAt`: the address and the ready clock with which it has
taken the delay of an instruction that uses far registers (05 R120). -/
structure Thread where
  pc : Nat
  run : RunState
  preds : BitVec 8
  draws : Word
  iter : Option (Word × Word)
  latch : Option Word
  clause : Option Clause
  group : Nat
  ready : Nat
  stale : Table Word
  farAt : Option (Nat × Nat)
  helper : Option Helper
  deriving DecidableEq, Repr, Inhabited

/-- A recruitment (07 R144): the iteration count, the next index, helpers granted, iterations handed to helpers, FORCED,
HFAULT, and the snapshot of v0 to v31 and s0 to s31 (R151). -/
structure Recruit where
  count : Nat
  next : Nat
  granted : Nat
  handed : Nat
  forced : Bool
  hfault : Bool
  snapV : List Word
  snapS : List Word
  deriving DecidableEq, Repr, Inhabited

/-- A failed check: cause, VA, sub-code of cause 0x0F (12 R257), w7, and RETRY (17 R335). -/
structure Trap where
  cause : Nat
  va : Nat
  sub : Nat
  aux : Word
  retry : Bool
  deriving DecidableEq, Repr, Inhabited

/-- What a late access does: a store of source places, with what they held at issue, as an STNT or not; or a load, signed or
not, to destination places. -/
inductive LateDo where
  | put (nt : Bool) (regs : List (Nat × Word))
  | get (signed : Bool) (dest : List Nat)
  deriving DecidableEq, Repr, Inhabited

/-- An access that takes place after its issue: a store whose source registers have not been read yet (01 R22, R23), with what it
reaches; or, with none, a load or store that stands behind a FIFO port access of a lower lane of its instruction (00 R7), whose
checks are made when its turn comes (10 R202, R214): the threads that issued it, the number of its instruction, its VA, its size,
and what it does. -/
structure LateAccess where
  who : List Nat
  instr : Nat
  reach : Option Reach
  va : Nat
  size : Nat
  act : LateDo
  deriving DecidableEq, Repr, Inhabited

/-- A counted operation of a memory instruction (01 R22, R23). Places of registers are numbered as `Machine.place` gives.
`dests`: its destination places; `writes`: its results, as far as they are known; `olds`: what they replaced once written.
`clobbered`: sources and destinations that another instruction wrote first. `late`: its accesses that are still to take place.
`fails`: what its threads have failed of, whose records are posted once the last of its atomics has been performed (17 R336).
`watched`: assay mode governed its issue (05 R122). Slot 0 holds issue. -/
structure Op where
  id : Nat
  slot : Nat
  pc : Nat
  load : Bool
  issued : Nat
  members : List Nat
  srcs : List Nat
  dests : List Nat
  writes : List (Nat × Word)
  olds : List (Nat × Word)
  clobbered : List Nat
  late : List LateAccess
  fails : List (Nat × Trap)
  watched : Bool
  done : Bool
  unwaited : List Nat
  deriving DecidableEq, Repr, Inhabited

/-- A result still within its fixed latency (01 R21): the place, what it held, and the clock from which the result may
be read. `only`: it stands in doubt for one thread alone, which waits at a join (06 R123), and `of_` is then the counted
operation whose result it is, when it is one's. `watched`: assay mode governed the issue of its instruction (05 R122). -/
structure Hazard where
  place : Nat
  old : Word
  until_ : Nat
  only : Option Nat
  of_ : Option Nat
  watched : Bool
  deriving DecidableEq, Repr, Inhabited

/-- The members of the COPY family that count (13 R268). -/
inductive CopyKind where
  | cpin
  | cpinr
  | cpout
  | cpgath
  | cpmc
  | cpnet (pull : Bool)
  deriving DecidableEq, Repr, Inhabited

/-- An outstanding copy (13 R270): what it took at issue. `boxes`: the origins, one per landed box. `loc`: the landing offset,
or CPINR's tile word. `targets`: the clusters that hold the landed box. `sync`: cluster and offset of each sync word. `pages`:
each 64 KiB page of memory that it uses, with the leaf that its translation gave. `peer`: the peer reference. `left`: landed
units, of 16 bytes, still to be done, as ranges. `todo`: 16-byte sectors of the element boxes still to be read or written.
`buf`: the sectors read, `net`: the landed units read or received; each byte with its poison. `sent`: its message has been sent,
with `psn`, last at wall time `sentAt`. `pc` and `mask` are for its record. `tries`: retransmissions; `nak`: a NAK has arrived.
-/
structure Copy where
  id : Nat
  cls : Nat
  kind : CopyKind
  shape : List Word
  boxes : List (List Int)
  loc : Nat
  targets : List Nat
  sync : List (Nat × Nat)
  pages : Table Leaf
  peer : DWord
  buf : Table (List (Byte × Bool))
  net : Table (List (Byte × Bool))
  left : List (Nat × Nat)
  todo : List Nat
  sent : Bool
  psn : Word
  done : Bool
  pc : Nat
  mask : Word
  tries : Nat
  sentAt : Nat
  nak : Bool
  deriving DecidableEq, Repr, Inhabited

/-- The members of the MATRIX family that queue a job (14 R289). -/
inductive JobKind where
  | mma
  | mmas
  | mrast
  | mfilt
  | mzero (tile : Bool) (n : Nat)
  deriving DecidableEq, Repr, Inhabited

/-- A queued matrix job (14 R286, R307): its job and post words, the next step, whether its steps are done so that its
post-operator remains, CREWCTL.STRICTSP as read at issue (R299), and the conditions it has met. `writes`: bytes of the local
scratchpad, by offset and with their poison, that it is about to write; `staged`: they are the last ones of its post-operator.
`acc`: the rows of its accumulator after its latest step, with their poison (14 R295).
`pc` and `mask` are for the record of an engine fault. -/
structure Job where
  id : Nat
  kind : JobKind
  j : List Word
  p : List Word
  step : Nat
  post : Bool
  strict : Bool
  status : Word
  writes : List (Nat × Byte × Bool)
  staged : Bool
  acc : List (List (Nat × Bool))
  pc : Nat
  mask : Word
  deriving DecidableEq, Repr, Inhabited

/-- What a crew belongs to: crew `ix` of a seam on seam cluster `k` (05 R102, R103), or handler crew `k` (17 R331). -/
inductive CrewRole where
  | seam (id ix k : Nat)
  | handler (k : Nat)
  deriving DecidableEq, Repr, Inhabited

/-- The latest issue of a crew on a slice of its partition: the clock, the address, and the group's lowest thread (05 R107, R109). -/
structure Served where
  slice : Nat
  clock : Nat
  pc : Nat
  lead : Nat
  deriving DecidableEq, Repr, Inhabited

/-- A crew (05). Threads and recruitments are keyed as `Machine.tkey` gives and by the recruiter's lane. `space` is the register
space by word index, unlisted words zero (05 R117, 10 R195); `sregs` the scalar registers, unlisted zero. `inUse` and `dirty`
are the flags of 10 R196, by 64 KiB granule. `spacePoison`: poisoned 16-byte sectors of `space`; `sregPoison`: poisoned scalar
registers (17 R350); `cover`: words of them that the current write has covered (14 R308). `pend`: pending stores of its threads,
in the order of R218. `floatUntil`: the clock at which the last floating-point result is written (04 R83). `last`: the clock of
its latest issue and the lowest lane of the group that issued (05 R107); `lastOn`: the latest issue on each slice of the
partition. `entering`: its placement waits for lanes of its half that helpers hold (07 R160). -/
structure Crew where
  ctx : Nat
  role : CrewRole
  half : Nat
  viewV : Word
  viewT : Word
  viewA : Word
  sregs : Table Word
  space : Table Word
  spacePoison : List Nat
  sregPoison : List Nat
  cover : List Nat
  inUse : BitVec 16
  dirty : BitVec 16
  fpctl : Word
  crewctl : Word
  tstream : Word
  spill : DWord
  mstatus : Word
  key : DWord
  threads : Table Thread
  recruits : Table Recruit
  ops : List Op
  hazards : List Hazard
  pend : List Pending
  floatUntil : Nat
  last : Nat × Nat
  lastOn : List Served
  nextGroup : Nat
  copies : List Copy
  jobs : List Job
  wake : Bool
  active : Bool
  entering : Bool
  since : Nat
  readyAt : Option Nat
  deriving DecidableEq, Repr, Inhabited

/-- A FIFO port access that waits (10 R205): the crew, the threads that it is made for, its operation, the source places to
push with what they held, or the number of bytes to pop and where they go. `instr` numbers the instruction. `va` and `pc` are
for the record of a bank switch. -/
structure FifoReq where
  crew : Nat
  who : List Nat
  instr : Nat
  op : Nat
  bank : Nat
  push : Bool
  size : Nat
  regs : List (Nat × Word)
  dest : List Nat
  va : Nat
  pc : Nat
  deriving DecidableEq, Repr, Inhabited

/-- A bank switch that waits (10 R200): the context, crew and threads of the CREGW that wrote it, and the value. -/
structure BankReq where
  ctx : Nat
  crew : Nat
  keys : List Nat
  value : DWord
  deriving DecidableEq, Repr, Inhabited

/-- A line that a cluster cache holds (10 R206): its physical address, the pins that hold it, each by its context and the VA of the
line there (10 R208), and its way, a bank. -/
structure CacheLine where
  line : Nat
  pins : List (Nat × Nat)
  way : Nat
  deriving DecidableEq, Repr, Inhabited

/-- A cluster. `bankMode`: 10 R198. `banks`: bank × 131,072 + byte, unlisted zero; `fifos`: contents by bank, and `fifoPoison`:
which of them, counted from the oldest, are poisoned (17 R350). `lines`: lines of the cluster cache, oldest first (10
R206). `served`: the slot the matrix engine served last (14 R287). -/
structure Cluster where
  bankMode : DWord
  banks : Table Byte
  fifos : Table (List Byte)
  fifoPoison : Table (List Nat)
  fifoReqs : List FifoReq
  poison : List Nat
  owner : Option Nat
  lines : List CacheLine
  served : Option Nat
  switches : List BankReq
  deriving DecidableEq, Repr, Inhabited

/-- The state of a ticket stream slot (12 R240). -/
inductive StreamState where
  | free
  | opened
  | drained
  deriving DecidableEq, Repr, Inhabited

/-- A ticketed update in flight or buffered (12 R245, R247): its crew, operation, stream slot and generation, ticket,
term, physical address and home slice; the fields of a late record, with the GTID of its thread or recruiter; `tries` counts
refusals. -/
structure Update where
  id : Nat
  ctx : Nat
  crew : Nat
  who : List Nat
  op : Nat
  handle : Word
  ticket : Nat
  value : Word
  pa : Nat
  va : Nat
  leaf : Leaf
  home : Nat
  pc : Nat
  gtid : Word
  tries : Nat
  deriving DecidableEq, Repr, Inhabited

/-- A ticket stream slot (12 R239). `closes`: close counts by ticket from W up; `buffered`: updates held at the homes, in
order of arrival; `stall`: the µs counted under R252; `renewed`: an update has been buffered since W's last move. -/
structure Stream where
  gen : BitVec 16
  state : StreamState
  ctx : Nat
  b : Nat
  m : Nat
  c : Nat
  w : Nat
  closes : Table Nat
  spill : Nat
  frames : List Nat
  dispatch : Bool
  stall : Nat
  renewed : Bool
  buffered : List Update
  deriving DecidableEq, Repr, Inhabited

/-- The ten atomics of 12 R232 and AFADD. -/
inductive AtomKind where
  | add
  | and
  | or
  | xor
  | imin
  | imax
  | umin
  | umax
  | xchg
  | cas
  | fadd
  deriving DecidableEq, Repr, Inhabited

/-- An atomic on its way to its home (12 R236, R237): the threads it is made for, its counted operation, what it does and
what it reaches, the places that take the old value, and the clock and wall time of its issue (11 R220). -/
structure Atom where
  id : Nat
  ctx : Nat
  crew : Nat
  who : List Nat
  op : Nat
  kind : AtomKind
  reach : Reach
  va : Nat
  b : Word
  b2 : Word
  dest : List Nat
  q : Bool
  pc : Nat
  issued : Nat
  wall : Nat
  deriving DecidableEq, Repr, Inhabited

/-- A task record (08 R169), its 8 words, with the launch it belongs to, or, when it names none, the sump entry's VA
(08 R172). -/
structure Task where
  words : List Word
  launch : Nat
  foreign : Option Nat
  deriving DecidableEq, Repr, Inhabited

/-- A task queue (08 R172). The age of its head (R175) is `age` and the clocks since `since`, while it counts. `stuck`: a pop
met a sump page that cannot be read, and waits for a QRUN. -/
structure TaskQueue where
  ctx : Option Nat
  chip : List Task
  sump : Nat
  size : Nat
  h : Word
  t : Word
  held : Bool
  stuck : Bool
  age : Nat
  since : Option Nat
  deriving DecidableEq, Repr, Inhabited

/-- A launch (08 R167, R168), by its device identity. `ident`: the identifier its packet gave; `graph`: its graph's level;
`seams`: the count of dispatches; `lateDie`: one more than the clock of die 1's latest dispatch (08 R177); `visited`: clusters
whose banks it has set. -/
structure Launch where
  ctx : Nat
  ident : Nat
  graph : Nat
  counter : Nat
  cancel : Bool
  viewV : Word
  viewT : Word
  viewA : Word
  det : Bool
  key : DWord
  ordinal : Nat
  stream : Option Word
  banks : Option DWord
  bankPerm : Bool
  visited : List Nat
  seams : Nat
  lateDie : Nat
  done : Bool
  deriving DecidableEq, Repr, Inhabited

/-- A seam (05 R102, 08 R177). `placed`: crews placed so far; `ended`: crews completed; `clusters`: one per seam cluster;
`whole`: placed whole. -/
structure Seam where
  launch : Nat
  words : List Word
  seamix : Nat
  ticket : Word
  clusters : List Nat
  placed : Nat
  ended : Nat
  whole : Bool
  deriving DecidableEq, Repr, Inhabited

/-- The kinds of level above the launch (08 R166). -/
inductive LevelKind where
  | graph
  | phase
  | job
  deriving DecidableEq, Repr, Inhabited

/-- A graph, phase or job (08 R166, 20 R381). `ident`: the identifier its packet gave; `parent`: the level above, 0 for a
job; `made`: children created so far, which gives ordinals; `reported`: its cancel-complete event has been sent. -/
structure Level where
  kind : LevelKind
  ctx : Nat
  ident : Nat
  parent : Nat
  counter : Nat
  cancel : Bool
  closed : Bool
  made : Nat
  ordinal : Nat
  done : Bool
  reported : Bool
  deriving DecidableEq, Repr, Inhabited

/-- A shape slot (13 R259): its generation, and the record when it is set. -/
structure Shape where
  gen : BitVec 16
  record : Option (List Word)
  deriving DecidableEq, Repr, Inhabited

/-- A fault record (17 R334) with its sequence number (R337): w0 to w7, and whether a thread is parked by it. `events`:
how it goes to the host when it does not go to the ring. -/
structure FaultRec where
  seq : Nat
  words : List Word
  async : Bool
  toHost : Bool
  debug : Bool
  deriving DecidableEq, Repr, Inhabited

end Sys2Proof.Machine
end

