-- ==== Sys2Proof/Machine/DeviceTypes.lean ====
section
/-!
DEFINITION. The records that State is made of, part 2: contexts, units, and the schedule of turns. Plain data.
-/
namespace Sys2Proof.Machine

/-- Where a context stands (17 R347 to R352, 20 R379). -/
inductive CtxStatus where
  | resident
  | preempting
  | saved
  | killing
  deriving DecidableEq, Repr, Inhabited

/-- One entry of an eviction schedule (10 R207): its 8 words. -/
structure Evict where
  words : List Word
  deriving DecidableEq, Repr, Inhabited

/-- The fault queue of a context (17 R337). `ring`: the records written and not yet popped, oldest first; `held`:
synchronous records waiting for room; `produced`: records not posted yet; `taken`: records popped whose threads are still
parked. -/
structure FaultQueue where
  base : Nat
  size : Nat
  count : Nat
  ring : List FaultRec
  held : List FaultRec
  produced : List FaultRec
  taken : List FaultRec
  dropped : Nat
  nextSeq : Nat
  deriving DecidableEq, Repr, Inhabited

/-- One peer entry (19 R362), its words, and one queue pair's sequence numbers (19 R363). -/
structure Peer where
  words : List Word
  sent : Word
  expected : Word
  deriving DecidableEq, Repr, Inhabited

/-- What is kept of a context off the device (17 R348): its crews and the clusters that it owned, by the numbers that they
had; the buffered updates that the spill areas hold, by stream (12 R254); refused updates, to be sent again; and the
physical ranges of its save area. -/
structure SavedCtx where
  crews : Table Crew
  clusters : Table Cluster
  spills : Table (List Update)
  updates : List Update
  area : List (Nat × Nat)
  deriving DecidableEq, Repr, Inhabited

/-- A context (20 R379). Root: 10 R211; handler: 17 R331; save area: 17 R348; watchdog in µs: 08 R183; stall limit: 12
R252; seeds, top first: 20 R384; shapes: 13 R259; peers: 19 R362; window descriptor: 19 R364; receive ring and messages
received: 20 R393; schedule and pins: 10 R207, R208. `toPlace`: handler crews waiting for a place. `host`: records delivered
to the host, by number. `haltDue`: a halt has begun whose groups are still to be formed; `haltClock`: the clock at which it
began (17 R353). `corrupt`: its control state has suffered an uncorrectable error (17 R350). -/
structure Context where
  status : CtxStatus
  root : Nat
  hEntry : Nat
  hFrame : DWord
  hCount : Nat
  toPlace : List Nat
  save : Nat
  fq : FaultQueue
  host : List FaultRec
  wdLimit : Nat
  wdCount : Nat
  stallLimit : Nat
  seeds : List DWord
  shapes : Table Shape
  peers : Table Peer
  window : List Word
  rxBase : Nat
  rxSize : Nat
  rxCount : Nat
  evicts : List Evict
  pins : List (Nat × Nat)
  halted : Bool
  haltDue : Bool
  haltClock : Nat
  attached : Bool
  corrupt : Bool
  saved : Option SavedCtx
  deriving DecidableEq, Repr, Inhabited

/-- Which units the part has (00 R1, 03 R59, 21 R396): enabled clusters per die, dead slices (cluster, partition,
slice), dead banks (cluster, bank), home slices of each die, channels of each stack, stacks, trained Ethernet lanes, capacity per
die in bytes, and the electrical trims and HBM4 lane repairs that were applied (21 R396). -/
structure Units where
  clusters0 : Nat
  clusters1 : Nat
  deadSlices : List (Nat × Nat × Nat)
  deadBanks : List (Nat × Nat)
  homes0 : Nat
  homes1 : Nat
  channels : List Nat
  hbmStacks : List Nat
  lanes0 : Nat
  lanes1 : Nat
  capacity0 : Nat
  capacity1 : Nat
  trims : List Byte
  repairs : List Byte
  deriving DecidableEq, Repr, Inhabited

/-- One scheduled happening (log entry 1): a step of the device or a message (`act`), the performing of a packet that a
parser has read, by its type (20 R376), the issue of a thread's group
(`issue`), the ganging of threads of one crew (05 R105), the issue of two crews' groups as one (`pair`, 05 R105, R106), the
passing of clocks and of µs (00 R3), whether atomics stay on their way to their home (12 R236), a DREAD that waits (`read`, 17
R353), a Lensel request of a type that has no meaning (20 R388), the arrival of a NAK for a CPNET (19 R362), and an inbound RoCEv2
message that the device serves by no other row: WRITE or SEND with immediate, or an atomic (19 R365), and a reset or loss of power
from outside (21 R397, R398). -/
inductive Turn where
  | act (i : Instr)
  | packet (type : Nat) (src : PktSrc) (f : List PktField)
  | issue (crew : Nat) (who : Tid)
  | gang (crew : Nat) (keys : List Nat)
  | pair (a b : Nat) (who other : Tid)
  | read (r : Req) (ctx crew off len : Nat)
  | unknown (type : Nat) (r : Req)
  | nak (crew copy : Nat)
  | unserved (h : NetHdr)
  | elapse (clocks us : Nat)
  | lag (b : Bool)
  | reset
  deriving DecidableEq, Repr, Inhabited

/-- A migration that has been accepted and waits or runs (19 R360, R361): F, G, the new LOCAL bit, and the leaves. -/
structure Migration where
  src : Nat
  dst : Nat
  loc : Bool
  leaves : List Nat
  deriving DecidableEq, Repr, Inhabited

/-- A fence that waits for its instance (20 R383): its level code and the instance, what it stores and where. -/
structure Fence where
  ctx : Nat
  level : Nat
  target : Nat
  ident : Nat
  va : Nat
  value : DWord
  deriving DecidableEq, Repr, Inhabited

/-- What a parser holds inside a packet (20 R376, R378, R381 to R383, R387): a packet that has been read and is next to be
performed; a WAIT's instance; a PHASEOPEN that waits for the phase before it in its job; a LAUNCH that waits for room with its checked
properties and seed; a QUNBIND that waits for its queue; a PREEMPT, CTXKILL or MIGRATE whose effect is not complete yet (log
entry 34). `ended`: it ends with a status. -/
inductive Held where
  | parsing
  | level (ctx code target : Nat)
  | phase (ctx ident job : Nat)
  | seed (l : Launch) (q : Nat) (record : List Word)
  | unbind (ctx q : Nat)
  | preempt (ctx : Nat)
  | kill (ctx : Nat)
  | move (mig : Nat)
  | ended (status : Nat)
  deriving DecidableEq, Repr, Inhabited

/-- A user queue control block (20 R372). `state`: 0 idle, 1 guard wait, 2 length wait, 3 in a WAIT packet, 4 launch waiting for
room, 5 parsing; `pending`: the wall time at which its pending bit was set; `header`: that of the packet at RIDX, once it has
been read (20 R376). -/
structure Qcb where
  ring : DWord
  en : Bool
  priv : Bool
  err : Bool
  prio : Nat
  lsize : Nat
  ctx : Nat
  ridx : Word
  kidx : Word
  lastIdx : Word
  state : Nat
  lastStat : Nat
  done : Word
  pending : Option Nat
  header : Option Word
  held : Option Held
  deriving DecidableEq, Repr, Inhabited

/-- A hardware queue slot that holds a queue (20 R386): since when it is mapped, and since when it stands idle. -/
structure HwSlot where
  queue : Nat
  since : Nat
  idle : Option Nat
  deriving DecidableEq, Repr, Inhabited

/-- The command fabric's registers, queues and slots (20 R371, R372, R386, 21 R402). `direct`: what a direct packet
holds while PKTGO is busy. -/
structure Fabric where
  loaded : Bool
  hwqSlots : Nat
  mapIdle : Nat
  mapAge : Nat
  pktBuf : Table Word
  pktStatus : Nat
  direct : Option Held
  qcbs : Table Qcb
  slots : Table HwSlot
  pwrCap : Nat
  pwrLimit : Nat
  mhz : Nat
  throttled : Bool
  thrTime : Nat
  deriving DecidableEq, Repr, Inhabited

/-- The owner state (20 R391): masters by identity and IP address, the lease's end in µs, and whom it is offered to. -/
inductive Owner where
  | none
  | owned (m : DWord) (ip lease : Nat)
  | offered (m : DWord) (ip lease : Nat) (target : DWord)
  deriving DecidableEq, Repr, Inhabited

/-- A reply to a Lensel request (20 R388). -/
structure Reply where
  type : Nat
  seq : Word
  status : Nat
  payload : List Byte
  deriving DecidableEq, Repr, Inhabited

/-- What the device keeps for a master (20 R389): the highest SEQ performed and the replies to its 32 most recent
requests, latest first. -/
structure Master where
  id : DWord
  ip : Nat
  high : Option Word
  replies : List Reply
  deriving DecidableEq, Repr, Inhabited

/-- An event for the owner that has not been acknowledged (20 R389, R390): its number, its payload, how often it has been
sent, and the wall time at which it was last sent. -/
structure HostEvent where
  num : Word
  payload : List Word
  sent : Nat
  last : Nat
  deriving DecidableEq, Repr, Inhabited

/-- How a responder answers an inbound RoCEv2 request (19 R365, R366). -/
inductive Answer where
  | ack (data : List Byte)
  | accessNak
  | invalidNak
  | rnrNak
  deriving DecidableEq, Repr, Inhabited

/-- A message that the device has sent: a Lensel reply or event (20 R388 to R390), a RoCEv2 request of CPNET (13 R274, 19
R367) with its queue pair, peer entry and packet sequence number, or an answer to an inbound request. -/
inductive OutMsg where
  | reply (master : DWord) (ip : Nat) (r : Reply)
  | event (master : DWord) (ip : Nat) (num : Word) (payload : List Word)
  | push (qp : Nat) (peer : List Word) (psn : Word) (off : Nat) (data : List Byte)
  | pull (qp : Nat) (peer : List Word) (psn : Word) (off len : Nat)
  | answer (qp : Nat) (a : Answer)
  deriving DecidableEq, Repr, Inhabited

/-- A recovery session (21 R398): its master, the image's KIND, the staging buffer, and the wall time of its last
message. -/
structure Session where
  master : DWord
  ip : Nat
  kind : Nat
  staging : Table Byte
  last : Nat
  deriving DecidableEq, Repr, Inhabited

/-- The hard core (21 R394 to R400): whether the start has run, whether the device is in recovery and after which step,
which images verified, what they held, the low 64 bits of the arithmetic section's digest (21 R401), the last step that was
reached, and starts since the last RECCOMMIT. -/
structure Boot where
  begun : Bool
  recovery : Bool
  failStep : Nat
  cfgOk : Bool
  bitOk : Bool
  cfgHeader : List Word
  bitHeader : List Word
  arith : List Byte
  steps : Nat
  starts : Nat
  session : Option Session
  deriving DecidableEq, Repr, Inhabited

end Sys2Proof.Machine

namespace Sys2Proof.Config

/-- What a context's state becomes when software has stored into its save area (17 R348): unspecified for that context. Log
entry 32. -/
opaque tampered : Nat → Machine.SavedCtx → Machine.SavedCtx

/-- The 16-byte sectors of a crew's registers, or of a cluster's banks, that poisoned sectors of a save area hold (17 R350). Log
entry 32. -/
opaque hurtSectors : Nat → Nat → List Nat

end Sys2Proof.Config
end

