-- ==== Sys2Proof/Machine/State.lean ====
section
/-!
DEFINITION. The state of the machine, its reset value, and the reasons a step can stop. Plain data: every register,
memory, queue and pending operation that spec/ names, with the schedule of turns (log entry 1).
-/
namespace Sys2Proof.Machine

/-- Why the machine stops with a fault. The device's own faults (17 R334) are next states of this model, not these. -/
inductive Fault where
  /-- Raised by an instruction word's meaning when no thread can issue it: the thread in focus does not exist, or it is
  parked or has exited. No step of the machine reaches it. Safe: nothing can be proved of a next state. -/
  | noIssuer
  deriving DecidableEq, Repr, Inhabited

/-- Why the machine refuses. -/
inductive Refusal where
  /-- Raised by exec for an instruction that has no meaning yet. Safe: nothing can be proved of a next state. -/
  | notModelled (mnemonic : String)
  deriving DecidableEq, Repr, Inhabited

/-- The thread whose group issues next: crew slot and thread (log entry 1). -/
structure Focus where
  crew : Nat
  who : Tid
  deriving DecidableEq, Repr, Inhabited

/-- The state of the machine. `badReads`: 16-byte sectors whose next load gets data that a link has corrupted (19 R358).
`voids`: physical ranges whose bytes became unspecified, as first byte, count and a number of their own (10 R210, 17 R348, 21
R398), latest first. `packs`: by byte, the transform, where not 0, of the mapping through which it was stored (10 R215).
`erased`: by region of the flash, the number of its last erase; `torn`: the regions whose write was cut short (21 R398).
`pushed`: the clock of the latest push by a crew, and its slot (08 R174). -/
structure State where
  turns : List Turn
  focus : Focus
  lag : Bool
  clock : Nat
  wall : Nat
  nonce : Nat
  uid : Nat
  mem : List Host.Cell
  memPoison : List Nat
  badReads : List Nat
  voids : List (Nat × Nat × Nat)
  packs : Table Nat
  shadow : Table (List (Word × List Nat))
  tlb : Table Leaf
  units : Units
  clusters : Table Cluster
  crews : Table Crew
  seams : Table Seam
  launches : Table Launch
  levels : Table Level
  contexts : Table Context
  queues : Table TaskQueue
  chosen : Table Nat
  pushed : Nat × Nat
  streams : Table Stream
  updates : List Update
  atoms : List Atom
  migrations : Table Migration
  fences : List Fence
  fabric : Fabric
  owner : Owner
  masters : List Master
  events : List HostEvent
  eventCount : Word
  outbox : List OutMsg
  boot : Boot
  flash : Table Byte
  erased : Table Nat
  torn : List Nat
  deriving DecidableEq, Repr, Inhabited

/-- The full part (00 R1): the units before a configuration record has been read (log entry 4). -/
def Units.full : Units :=
  { clusters0 := 64, clusters1 := 64, deadSlices := [], deadBanks := [], homes0 := 64, homes1 := 64, channels := List.replicate 8 32,
    hbmStacks := [0, 1, 2, 3, 4, 5, 6, 7], lanes0 := 8, lanes1 := 8,
    capacity0 := 192000000000, capacity1 := 192000000000, trims := [], repairs := [] }

/-- The command fabric after reset: not loaded; registers at the values of 20 R371. PWRCAP before a record has been read is
the greatest limit, 1,700 W; PWRSTAT reads 0 (21 R402; log entry 4). -/
def Fabric.reset : Fabric :=
  { loaded := false, hwqSlots := 64, mapIdle := 64, mapAge := 256, pktBuf := [], pktStatus := 0, direct := none,
    qcbs := [], slots := [], pwrCap := 1700, pwrLimit := 1700, mhz := 0, throttled := false, thrTime := 0 }

/-- The hard core after reset: the start has not run. -/
def Boot.reset : Boot :=
  { begun := false, recovery := false, failStep := 0, cfgOk := false, bitOk := false, cfgHeader := [], bitHeader := [], arith := [],
    steps := 0, starts := 0, session := none }

/-- The device right after reset, before the start of 21 R397. -/
def State.reset : State :=
  { turns := [], focus := ⟨0, .lane 0⟩, lag := false, clock := 0, wall := 0, nonce := 0, uid := 1,
    mem := [], memPoison := [], badReads := [], voids := [], packs := [], shadow := [], tlb := [], units := Units.full, clusters := [], crews := [],
    seams := [], launches := [], levels := [], contexts := [], queues := [], chosen := [], pushed := (0, 0), streams := [], updates := [], atoms := [],
    migrations := [], fences := [], fabric := Fabric.reset, owner := .none, masters := [], events := [], eventCount := 0,
    outbox := [], boot := Boot.reset, flash := [], erased := [], torn := [] }

end Sys2Proof.Machine
end

