-- ==== Sys2Proof/Machine/Ops.lean ====
section
/-!
DEFINITION. The named operations on the state that every instruction shares: threads and groups, registers and
predicates with their timing latitude (01 R21 to R24), the issue of a group, and taking a fault and resuming from one
(17 R333 to R345).
-/
namespace Sys2Proof.Machine

/-! ## Threads and crews -/

/-- The key of a thread in its crew's table: a lane's number, or 32 + recruiter × 32 + worker for a helper. -/
def tkey : Tid → Nat
  | .lane l => l
  | .helper r w => 32 + r * 32 + w

/-- The thread that a key names. -/
def tidOf (k : Nat) : Tid := if k < 32 then .lane k else .helper ((k - 32) / 32) ((k - 32) % 32)

/-- The crew in a slot; a crew with no thread where the slot is empty. -/
def crewAt (s : State) (slot : Nat) : Crew := tgetD s.crews slot default

/-- The state with a crew's record changed. -/
def modCrew (slot : Nat) (f : Crew → Crew) (s : State) : State := { s with crews := tmod s.crews slot f }

/-- The state with one thread's record changed. -/
def modThread (slot k : Nat) (f : Thread → Thread) (s : State) : State :=
  modCrew slot (fun c => { c with threads := tmod c.threads k f }) s

/-- The thread with a key. -/
def threadAt (c : Crew) (k : Nat) : Option Thread := tget c.threads k

/-- Slot numbers are CLUSTER × 192 + partition × 48 + index (17 R334). -/
def clusterOf (slot : Nat) : Nat := slot / 192

/-- The partition of a slot. -/
def partitionOf (slot : Nat) : Nat := slot % 192 / 48

/-- The die of a cluster: enabled clusters are numbered die 0 first (03 R58). -/
def dieOf (s : State) (cl : Nat) : Nat := if cl < s.units.clusters0 then 0 else 1

/-- The record of a cluster with every bank present: in cache mode, empty, until it is changed (10 R198). -/
def Cluster.fresh : Cluster :=
  { bankMode := 0, banks := [], fifos := [], fifoPoison := [], fifoReqs := [], poison := [], owner := none, lines := [], served := none,
    switches := [] }

/-- The fields of BANKMODE that stand at 3: the banks of a cluster that are mapped out (10 R198, 19 R368). -/
def deadModes (u : Units) (cl : Nat) : Nat := (((u.deadBanks.filter (·.1 == cl)).eraseDups).map (fun d => 3 * 4 ^ d.2)).sum

/-- A cluster whose record has not changed. -/
def freshCluster (s : State) (cl : Nat) : Cluster := { Cluster.fresh with bankMode := BitVec.ofNat 64 (deadModes s.units cl) }

/-- The cluster with a number. -/
def clusterAt (s : State) (cl : Nat) : Cluster := tgetD s.clusters cl (freshCluster s cl)

/-- The state with a cluster's record changed. -/
def modCluster (cl : Nat) (f : Cluster → Cluster) (s : State) : State :=
  { s with clusters := tput s.clusters cl (f (clusterAt s cl)) (freshCluster s cl) }

/-- The state with a context's record changed. -/
def modCtx (ctx : Nat) (f : Context → Context) (s : State) : State := { s with contexts := tmod s.contexts ctx f }

/-- Whether a thread of the crew runs system code: the threads of handler crews do (17 R331). -/
def runsSystem (c : Crew) : Bool :=
  match c.role with
  | .handler _ => true
  | .seam _ _ _ => false

/-- The clock that a crew's sleeps and its helpers' budgets count: it stands still while a debugger halts the crew (17 R342, 07
R160). -/
def crewClock (s : State) (c : Crew) : Nat :=
  let x := tgetD s.contexts c.ctx default
  if x.halted && !runsSystem c then x.haltClock else s.clock

/-- Whether a context's time counts for its watchdog and its stall limit: it is resident, until the end of a pre-emption, and
not halted (08 R183, 12 R252). -/
def Context.counts (x : Context) : Bool := (x.status == .resident || x.status == .preempting) && !x.halted

/-! ## Registers -/

/-- The place of a register in the timing tables: s0 to s31 of the crew, and the registers of each thread. A helper's
selectors are all its own. -/
def place (k sel : Nat) : Nat := if 96 ≤ sel ∧ k < 32 then sel - 96 else 256 * (k + 1) + sel

/-- The place of a predicate in the timing tables. -/
def predPlace (k p : Nat) : Nat := 256 * (k + 1) + 128 + p

/-- VCOUNT (05 R118). -/
def vcount (c : Crew) : Nat := bits c.viewV.toNat 26 20

/-- The word index of lane `l`'s v`n` in the register space (05 R117). -/
def vword (c : Crew) (l n : Nat) : Nat := bits c.viewV.toNat 19 7 * 32 + n * 32 + l

/-- The recruitment that a helper serves. -/
def recruitOf (c : Crew) (h : Helper) : Recruit := tgetD c.recruits h.recruiter default

/-- What a register holds, without the latitude of 01 R21 and R23. s31 reads zero (01 R12). A helper reads v0 to v31 and
the scalar registers from its snapshot and v32 to v63 from its own (07 R150). -/
def rawReg (c : Crew) (k sel : Nat) : Word :=
  match (threadAt c k).bind (·.helper) with
  | some h =>
    if 96 ≤ sel then (recruitOf c h).snapS.getD (sel - 96) 0
    else if sel < 32 then (recruitOf c h).snapV.getD sel 0
    else tgetD h.priv sel 0
  | none =>
    if 96 ≤ sel then (if sel = 127 then 0 else tgetD c.sregs (sel - 96) 0) else tgetD c.space (vword c k sel) 0

/-- The flag bits of the 64 KiB granules that hold a word of the register space (10 R196). -/
def granuleBit (word : Nat) : BitVec 16 := BitVec.ofNat 16 (2 ^ (word / 16384))

/-- A word of a poisoned sector is written: the marker goes when one write has covered the whole sector (14 R308). -/
def coverWord (word : Nat) (c : Crew) : Crew :=
  if c.spacePoison.contains (word / 4) then
    let cover := sadd c.cover word
    if [0, 1, 2, 3].all (fun j => cover.contains (word / 4 * 4 + j)) then
      { c with spacePoison := sdel c.spacePoison (word / 4), cover := cover.filter (fun w => w / 4 != word / 4) }
    else { c with cover := cover }
  else c

/-- A write of one word of the register space: it sets IU and DIRTY of the granule (10 R196). -/
def setSpace (word : Nat) (v : Word) (c : Crew) : Crew :=
  let c := coverWord word c
  { c with
    space := tput c.space word v 0
    inUse := c.inUse ||| granuleBit word
    dirty := c.dirty ||| granuleBit word }

/-- Sets a register, without the latitude of 01 R23. A write to s31 is discarded (01 R12). A helper writes v32 to v63
alone; its other registers are read-only (07 R150). A helper that has ended has none. -/
def setRaw (k sel : Nat) (v : Word) (c : Crew) : Crew :=
  match (threadAt c k).bind (·.helper) with
  | some h =>
    if 32 ≤ sel ∧ sel < 64 then
      { c with threads := tmod c.threads k (fun t => { t with helper := some { h with priv := tput h.priv sel v 0 } }) }
    else c
  | none =>
    if 32 ≤ k then c
    else if 96 ≤ sel then (if sel = 127 then c else { c with sregs := tput c.sregs (sel - 96) v 0, sregPoison := sdel c.sregPoison (sel - 96) })
    else setSpace (vword c k sel) v c

/-- Whether a register of thread `k` is poisoned: its word's sector of the register space, or the scalar register (13 R270, 14
R308, 17 R350). -/
def poisonedReg (c : Crew) (k sel : Nat) : Bool :=
  decide (k < 32) && (if 96 ≤ sel then c.sregPoison.contains (sel - 96) else c.spacePoison.contains (vword c k sel / 4))

/-- A predicate: p7 reads true (01 R12). -/
def rawPred (c : Crew) (k p : Nat) : Bool :=
  if p = 7 then true else
    match threadAt c k with
    | some t => t.preds.getLsbD p
    | none => false

/-- Sets a predicate; a write to p7 is discarded (01 R12). -/
def setRawPred (k p : Nat) (v : Bool) (c : Crew) : Crew :=
  if p = 7 then c else
    { c with
      threads := tmod c.threads k (fun t =>
        let m := BitVec.ofNat 8 (2 ^ p)
        { t with preds := if v then t.preds ||| m else t.preds &&& ~~~m }) }

/-! ## Timing latitude -/

/-- The result at a place that is still within its latency at a clock, for thread `k` (01 R21). -/
def hazardAt (c : Crew) (clock k pl : Nat) : Option Hazard :=
  c.hazards.find? (fun h => h.place == pl && decide (clock < h.until_) && h.only.all (· == k))

/-- Whether a counted operation still stands unwaited for thread `k` (01 R23). -/
def openFor (k : Nat) (o : Op) : Bool := !o.unwaited.isEmpty && (!o.members.contains k || o.unwaited.contains k)

/-- The other value that a counted operation gives a place that it writes: the new one before it has been written, as far as it is
known (log entry 58), the old one after (01 R23). -/
def opOther (o : Op) (pl : Nat) : Option Word :=
  if o.done then (o.olds.find? (·.1 == pl)).map (·.2) else (o.writes.find? (·.1 == pl)).map (·.2)

/-- The value read at a place that holds `raw`, with the latitude of 01 R21 and R23: where it applies, one of the values, by a
free choice per place, thread and operation. -/
def latitude (nonce clock : Nat) (c : Crew) (k pl : Nat) (raw : Word) : Word :=
  (c.ops.filter (openFor k)).foldl (fun v o => match opOther o pl with
    | some w => if Config.freeBit (nonce + 1) pl (k + 2048 * o.id) then v else w
    | none => v)
    (match hazardAt c clock k pl with
      | some h => if Config.freeBit nonce pl k then raw else h.old
      | none => raw)

/-- Thread `k` of the crew in `slot` reads a register; s31 reads zero whatever has been written to it (01 R12). -/
def readReg (s : State) (slot k sel : Nat) : Word :=
  if sel = 127 ∧ k < 32 then 0
  else latitude s.nonce s.clock (crewAt s slot) k (place k sel) (rawReg (crewAt s slot) k sel)

/-- Thread `k` reads a predicate; p7 reads true (01 R12). -/
def readPred (s : State) (slot k p : Nat) : Bool :=
  p == 7 || latitude s.nonce s.clock (crewAt s slot) k (predPlace k p) (if rawPred (crewAt s slot) k p then 1 else 0) != 0

/-- A pair, low word in the even register (01 R13). -/
def readPair (s : State) (slot k sel : Nat) : DWord := readReg s slot k (sel + 1) ++ readReg s slot k sel

/-- CREWCTL as it governs a thread: a helper's is the one of its grant (05 R122). -/
def ctlOf (c : Crew) (k : Nat) : Word :=
  match (threadAt c k).bind (·.helper) with
  | some h => h.crewctl
  | none => c.crewctl

/-- Assay mode is on for a thread (05 R121, R122). -/
def assayOn (c : Crew) (k : Nat) : Bool := (ctlOf c k).getLsbD 0

/-- The result of thread `k`'s fixed-latency instruction is recorded at its place, in the place of an earlier one (01 R21). -/
def noteHazard (k pl lat clock : Nat) (old : Word) (c : Crew) : Crew :=
  let hs := c.hazards.filter (fun h => h.place != pl && decide (clock < h.until_))
  { c with hazards := if lat ≤ 1 then hs else ⟨pl, old, clock + lat, none, none, assayOn c k⟩ :: hs }

/-- The results at a place stand in doubt no longer, but for those of counted operation `op` that stand so for a thread that waits
at a join (06 R123). -/
def dropHazard (op : Option Nat) (pl : Nat) (c : Crew) : Crew :=
  { c with hazards := c.hazards.filter (fun h => h.place != pl || (h.only.isSome && h.of_.isSome && h.of_ == op)) }

/-- A write to a place that counted operations that have still to complete also write, or are still to read, is marked there
(01 R23). -/
def clobber (pl : Nat) (c : Crew) : Crew :=
  { c with ops := c.ops.map (fun o =>
      if !o.done && (o.dests.contains pl || o.srcs.contains pl) then { o with clobbered := sadd o.clobbered pl } else o) }

/-- The word that a returned operation gave a place, while it stands unwaited. -/
def landedWord (o : Op) (pl : Nat) : Option Word :=
  if o.done && !o.unwaited.isEmpty then (o.writes.find? (·.1 == pl)).map (·.2) else none

/-- What a write of `v` leaves in a place: over the results of counted operations that have returned unwaited, either value may
stay (01 R23). -/
def keptWord (nonce pl : Nat) (c : Crew) (v : Word) : Word :=
  c.ops.foldl (fun v o => match landedWord o pl with
    | some w => if Config.freeBit nonce pl (o.id + 8) then w else v
    | none => v) v

/-- A returned operation after a write of `v` over what it gave a place, which keeps `kept`: until its slot has been waited for, a
read gives that or the other of the two (01 R23). -/
def Op.overwritten (pl : Nat) (v kept : Word) (o : Op) : Op :=
  match landedWord o pl with
  | some w => { o with olds := (pl, if kept = w then v else w) :: o.olds.filter (fun e => e.1 != pl) }
  | none => o

/-- A write of `v` to a place, which keeps `kept`, is noted in the counted operations that write or read it (01 R23). -/
def noteWrite (pl : Nat) (v kept : Word) (c : Crew) : Crew :=
  { clobber pl c with ops := (clobber pl c).ops.map (Op.overwritten pl v kept) }

/-- Thread `k` writes a register with a latency. A write to s31 is discarded and leaves no result (01 R12). -/
def writeRegLat (slot k sel lat : Nat) (v : Word) (s : State) : State :=
  let pl := place k sel
  if sel = 127 ∧ k < 32 then s
  else modCrew slot (fun c =>
    let w := keptWord s.nonce pl c v
    setRaw k sel w (noteHazard k pl lat s.clock (rawReg c k sel) (noteWrite pl v w c))) s

/-- Thread `k` writes a predicate with a latency. A write to p7 is discarded and leaves no result (01 R12). -/
def writePredLat (slot k p lat : Nat) (v : Bool) (s : State) : State :=
  if p = 7 then s
  else modCrew slot (fun c =>
    setRawPred k p v (noteHazard k (predPlace k p) lat s.clock (if rawPred c k p then 1 else 0) c)) s

/-- Thread `k` writes consecutive registers, lowest first. -/
def writeRegs (slot k sel lat : Nat) : List Word → State → State
  | [], s => s
  | v :: vs, s => writeRegs slot k (sel + 1) lat vs (writeRegLat slot k sel lat v s)

/-! ## Groups -/

/-- The issue group that an instruction runs for (05 R105): the crew's slot, the keys of its threads in ascending order,
and the address of the instruction. `early`: the threads that have failed a check made before those of the instruction's own
entry, in ascending order, whose records are still to be posted (17 R336). -/
structure Group where
  slot : Nat
  keys : List Nat
  pc : Nat
  early : List (Nat × Trap) := []
  deriving DecidableEq, Repr, Inhabited


/-- The group's lowest thread. -/
def Group.lead (g : Group) : Nat := g.keys.headD 0

/-- Whether the thread can stand in a group: it runs or waits, and a helper has its lane. -/
def canIssue (t : Thread) : Bool :=
  (match t.run with
    | .running => true
    | .waiting _ => true
    | .parked _ => false
    | .exited => false) &&
  (match t.helper with
    | some h => !h.suspended
    | none => true)

/-- The clause that a thread is in: none before its first instruction and after its last (01 R17). -/
def liveClause (t : Thread) : Option Clause :=
  match t.clause with
  | some cl => if cl.header < t.pc ∧ t.pc ≤ cl.header + 4 * cl.words.length then some cl else none
  | none => none

/-- Whether a thread waits. -/
def isWaiting (t : Thread) : Bool :=
  match t.run with
  | .waiting _ => true
  | _ => false

/-- The clause that thread `t` holds in the group of thread `u` at its address: one instruction word is issued for both (05
R105); its wait mask is each thread's own. -/
def sharedClause (u t : Thread) : Option Clause :=
  match liveClause u, t.clause with
  | some cl, some own => some { cl with waited := own.waited }
  | _, own => own

/-- Whether a thread's key is of its kind: a lane's, or a helper's. -/
def kindOk (k : Nat) (t : Thread) : Bool := t.helper.isSome == decide (32 ≤ k)

/-- Whether thread `j` stands in one group with thread `k`, which is `t`: group number, address, clause, state (running or
waiting) and kind agree (05 R105, 17 R353). -/
def ganged (c : Crew) (k : Nat) (t : Thread) (j : Nat) : Bool :=
  match threadAt c j with
  | some u =>
    u.group == t.group && u.pc == t.pc && isWaiting u == isWaiting t && canIssue u &&
      (liveClause u).map (·.header) == (liveClause t).map (·.header) && kindOk j u && decide (32 ≤ j) == decide (32 ≤ k)
  | none => false

/-- The group of a thread: the threads of its crew with its group number, address, clause and state, in ascending order
(05 R105). -/
def groupOf (s : State) (slot k : Nat) : Option Group :=
  match threadAt (crewAt s slot) k with
  | some t =>
    if canIssue t && kindOk k t then
      some ⟨slot, (((crewAt s slot).threads.map (·.1)).filter (ganged (crewAt s slot) k t)).foldl sadd [], t.pc, []⟩
    else none
  | none => none

/-- The group in focus. -/
def focusGroup (s : State) : Option Group := groupOf s s.focus.crew (tkey s.focus.who)

/-- Changes every thread of a group. -/
def modGroup (g : Group) (f : Thread → Thread) (s : State) : State :=
  modCrew g.slot (fun c =>
    { c with threads := c.threads.map (fun e => if g.keys.contains e.1 then (e.1, f e.2) else e) }) s

/-- The address after the instruction at `pc`: the next word of the clause, or the next header (01 R17). -/
def nextPc (pc words : Nat) : Nat := (pc + 4 * words) % 2 ^ 52

/-- The group goes on to the next instruction, no earlier than its stall count allows (01 R20). -/
def advance (i : Instr) (g : Group) (s : State) : State :=
  modGroup g (fun t => { t with pc := nextPc g.pc i.words, run := .running, ready := s.clock + 1 + i.stall }) s

/-- The group waits, at the same instruction. -/
def wait (w : Wait) (g : Group) (s : State) : State :=
  modGroup g (fun t => { t with run := .waiting w, ready := max t.ready s.clock }) s

/-- Gives the threads of a group a group number of their own (05 R105, R109, R113). -/
def regroup (slot : Nat) (keys : List Nat) (s : State) : State :=
  modCrew slot (fun c =>
    { c with
      nextGroup := c.nextGroup + 1
      threads := c.threads.map (fun e => if keys.contains e.1 then (e.1, { e.2 with group := c.nextGroup }) else e) }) s

/-! ## Taking a fault (17 R333 to R338) -/

/-- A trap with no VA. -/
def trapC (cause : Nat) : Trap := ⟨cause, 0, 0, 0, false⟩

/-- A trap with a VA. -/
def trapVa (cause va : Nat) : Trap := ⟨cause, va, 0, 0, false⟩

/-- The words of a fault record (17 R334). With cause 0x0F the sub-code stands in w5[31:24], in the place of bits 63 to 56 of
the VA (12 R257). -/
def recordWords (slot worker : Nat) (retry async helper : Bool) (cause ctx pc va sub mask : Nat) (aux : Word) :
    List Word :=
  [BitVec.ofNat 32 (slot * 65536 + worker * 2048 + retry.toNat * 1024 + async.toNat * 512 + helper.toNat * 256 + cause),
    BitVec.ofNat 32 ctx, BitVec.ofNat 32 pc, BitVec.ofNat 32 (pc / 2 ^ 32), BitVec.ofNat 32 va,
    BitVec.ofNat 32 (if cause = 0x0F then va / 2 ^ 32 % 2 ^ 24 + sub * 2 ^ 24 else va / 2 ^ 32), BitVec.ofNat 32 mask, aux]

/-- SEAMIX of the crew (08 R177; 17 R403 for a handler crew). -/
def seamixOf (s : State) (c : Crew) : Nat :=
  match c.role with
  | .seam id _ _ => (tgetD s.seams id default).seamix
  | .handler k => k

/-- CREWIX of the crew. -/
def crewixOf (c : Crew) : Nat :=
  match c.role with
  | .seam _ ix _ => ix
  | .handler _ => 0

/-- GTID of a lane (03 R58). -/
def gtidOf (s : State) (c : Crew) (lane : Nat) : Word :=
  BitVec.ofNat 32 (seamixOf s c % 65536 * 32768 + crewixOf c * 32 + lane)

/-- Whether the context has a handler crew that has not ended, or one that still waits for a place (17 R331). -/
def hasHandler (s : State) (ctx : Nat) : Bool :=
  let x := tgetD s.contexts ctx default
  !x.toPlace.isEmpty || (match x.saved with
      | some v => v.crews.any (fun e => runsSystem e.2)
      | none => false) ||
    s.crews.any (fun e => e.2.ctx == ctx && runsSystem e.2)

/-- Produces one record for a context: it takes the next sequence number (17 R337) and waits to be posted. `toHost`:
delivered to the host in place of the ring; `debug`: to the debugger. Answers the number too. -/
def produce (ctx : Nat) (words : List Word) (async toHost debug : Bool) (s : State) : State × Nat :=
  let n := (tgetD s.contexts ctx default).fq.nextSeq
  (modCtx ctx (fun x =>
    { x with fq := { x.fq with
        nextSeq := (n + 1) % 2 ^ 31
        produced := x.fq.produced ++ [⟨n, words, async, toHost, debug⟩] } }) s, n)

/-- An asynchronous record with a RETRY bit: it parks nothing (17 R334). -/
def postAsyncRetry (retry : Bool) (ctx slot pc cause va sub mask : Nat) (aux : Word) (s : State) : State :=
  (produce ctx (recordWords slot 0 retry true false cause ctx pc va sub mask aux) true
    (!(hasHandler s ctx)) false s).1

/-- An asynchronous record with RETRY 0. -/
def postAsync (ctx slot pc cause va sub mask : Nat) (aux : Word) (s : State) : State :=
  postAsyncRetry false ctx slot pc cause va sub mask aux s

/-- GTID of a lane's thread, or of a helper's recruiter (07 R162). -/
def workerGtid (s : State) (slot k : Nat) : Word :=
  gtidOf s (crewAt s slot) (match tidOf k with
    | .lane l => l
    | .helper l _ => l)

/-- An asynchronous record for an access of thread `k` of a crew: a helper's names the recruiter, with its GTID in w7 (07 R162,
17 R335). -/
def postAsyncOf (ctx slot k : Nat) (gtid : Word) (pc cause va sub : Nat) (aux : Word) (s : State) : State :=
  match tidOf k with
  | .lane _ => postAsync ctx slot pc cause va sub 0 aux s
  | .helper l w =>
    (produce ctx (recordWords slot w false true true cause ctx pc va sub (2 ^ l) gtid) true (!(hasHandler s ctx)) false s).1

/-- A record goes to the host when a handler thread takes it or no handler crew is left (17 R331, R332). -/
def goesToHost (s : State) (c : Crew) : Bool := runsSystem c || !(hasHandler s c.ctx)

/-- Nothing stands in doubt for some threads alone any longer. -/
def dropHeld (ks : List Nat) (c : Crew) : Crew :=
  { c with hazards := c.hazards.filter (fun h => h.only.all (fun k => !ks.contains k)) }

/-- Parks one thread with a record number, its PC at the failed instruction. A helper gives up its lane (07 R162). -/
def parkThread (slot pc n k : Nat) (s : State) : State :=
  modCrew slot (fun c =>
    let c := { dropHeld [k] c with
      threads := tmod c.threads k (fun t =>
        { t with
          pc := pc
          run := .parked n
          helper := t.helper.map (fun h => { h with held := none, due := none, suspended := true }) }) }
    match (threadAt c k).bind (·.helper) with
    | some h => { c with recruits := tmod c.recruits h.recruiter (fun r => { r with hfault := true }) }
    | none => c) s

/-- Posts one record for threads that fail one instruction alike and parks them; `ks` is not empty and, for a helper,
has one member. With a debugger attached, cause 0x13 goes to the debugger and halts the context (17 R355); the halt's groups
are formed at the end of the step (`haltDue`). -/
def parkShared (slot pc : Nat) (ks : List Nat) (t : Trap) (s : State) : State :=
  let c := crewAt s slot
  let dbg := t.cause == 0x13 && (tgetD s.contexts c.ctx default).attached
  let r := match tidOf (ks.headD 0) with
    | .lane _ =>
      produce c.ctx (recordWords slot 0 t.retry false false t.cause c.ctx (pc % 2 ^ 52) t.va t.sub
        ((ks.map (fun k => 2 ^ k)).sum) t.aux) false (goesToHost s c) dbg s
    | .helper l w =>
      produce c.ctx (recordWords slot w t.retry false true t.cause c.ctx (pc % 2 ^ 52) t.va t.sub (2 ^ l) (gtidOf s c l)) false
        (goesToHost s c) dbg s
  let s' := ks.foldl (fun s k => parkThread slot pc r.2 k s) r.1
  if dbg then modCtx c.ctx (fun x =>
    { x with halted := true, haltDue := true, haltClock := if x.halted then x.haltClock else s.clock }) s' else s'

/-- Whether two failures of one instruction share a record: cause, sub-code and 64 KiB page alike, and no helper
(17 R336). -/
def sharesRecord (a b : Nat × Trap) : Bool :=
  decide (a.1 < 32) && decide (b.1 < 32) && a.2.cause == b.2.cause && a.2.sub == b.2.sub &&
    a.2.va / 65536 == b.2.va / 65536

/-- Sorts failures, in ascending lane order, into records, in order of their lowest lane (17 R336). -/
def shareOut : List (Nat × Trap) → List (List (Nat × Trap)) → List (List (Nat × Trap))
  | [], acc => acc
  | f :: fs, acc =>
    if acc.any (fun r => match r with
      | x :: _ => sharesRecord x f
      | [] => false)
    then shareOut fs (acc.map (fun r => match r with
      | x :: _ => if sharesRecord x f then r ++ [f] else r
      | [] => r))
    else shareOut fs (acc ++ [[f]])

/-- TAKING A FAULT: the threads that failed the instruction at `pc` are parked with their records, which name the lowest
lane's VA (17 R333 to R336). -/
def takeFault (slot pc : Nat) (fails : List (Nat × Trap)) (s : State) : State :=
  (shareOut fails []).foldl (fun s r =>
    match r with
    | x :: _ => parkShared slot pc (r.map (·.1)) x.2 s
    | [] => s) s

/-! ## Leaving a fault (17 R345) -/

/-- The keys of a crew's threads that are parked with a record number. -/
def parkedWith (c : Crew) (n : Nat) : List Nat :=
  (c.threads.filter (fun e => decide (e.2.run = .parked n))).map (·.1)

/-- Whether a key is thread `k` of a lane, or one of its helpers. -/
def withHelpers (k m : Nat) : Bool := m == k || (decide (32 ≤ m) && (m - 32) / 32 == k)

/-- Threads leave a counted operation: what it would still do for them alone is lost. -/
def Op.leave (gone : Nat → Bool) (o : Op) : Op :=
  { o with
    members := o.members.filter (fun m => !gone m)
    unwaited := o.unwaited.filter (fun m => !gone m)
    writes := o.writes.filter (fun w => decide (w.1 < 32) || !gone (w.1 / 256 - 1))
    late := (o.late.map (fun l => { l with who := l.who.filter (fun m => !gone m) })).filter (fun l => !l.who.isEmpty)
    fails := o.fails.filter (fun f => !gone f.1) }

/-- What threads have under way is lost: operations, results in doubt, and pending stores that no other thread issued. -/
def forget (gone : Nat → Bool) (c : Crew) : Crew :=
  { c with
    ops := (c.ops.map (Op.leave gone)).filter (fun o => !o.members.isEmpty)
    hazards := c.hazards.filter (fun h => (decide (h.place < 32) || !gone (h.place / 256 - 1)) && h.only.all (fun k => !gone k))
    pend := (c.pend.map (fun p => { p with who := p.who.filter (fun m => !gone m) })).filter (fun p => !p.who.isEmpty) }

/-- A thread becomes exited; its operations and pending stores are lost, and a recruiter's helpers end and its pool
bytes are freed (07 R162, 17 R345, 11 R229). -/
def killLane (k : Nat) (c : Crew) : Crew :=
  forget (withHelpers k)
    { c with
      threads := (tmod c.threads k (fun t => { t with run := .exited })).filter (fun e =>
        match e.2.helper with
        | some h => h.recruiter != k
        | none => true)
      recruits := tdel c.recruits k }

/-- Waiting FIFO accesses whose operation is no more are withdrawn. -/
def pruneFifo (s : State) : State :=
  { s with clusters := s.clusters.map (fun e =>
      (e.1, { e.2 with fifoReqs := e.2.fifoReqs.filter (fun r => (crewAt s r.crew).ops.any (fun o => o.id == r.op)) })) }

/-- Whether a record's PC names a clause header: the thread holds no clause. -/
def atHeader (t : Thread) : Bool := t.clause.isNone

/-- The instruction word at a thread's PC in its clause, decoded. -/
def instrAt (t : Thread) : Option Instr :=
  t.clause.bind (fun cl =>
    decodeWord (cl.words.getD ((t.pc - cl.header) / 4 - 1) 0) (cl.words.getD ((t.pc - cl.header) / 4) 0))

/-- The major of an instruction word. -/
def majorOf (w : Word) : Nat := bits w.toNat 31 25

/-- LIT and RECRUIT occupy two words (02 R29). -/
def twoWords (m : Nat) : Bool := m == 0x22 || m == 0x74

/-- The words of the instruction at a thread's PC, for a skip: 2 for LIT and RECRUIT, whatever their fields, so that their literal
word is never decoded (02 R31). -/
def wordsAt (t : Thread) : Nat :=
  match t.clause with
  | some cl => if twoWords (majorOf (cl.words.getD ((t.pc - cl.header) / 4 - 1) 0)) then 2 else 1
  | none => 1

/-- RESUME's action for one parked thread (17 R345): 0 retry, 1 skip (at a clause header, kill), 2 kill. A helper is
killed with its recruiter. The released thread issues in a group of its own. -/
def resumeThread (act k : Nat) (c : Crew) : Crew :=
  match threadAt c k with
  | none => c
  | some t =>
    let victim := match t.helper with
      | some h => h.recruiter
      | none => k
    let fresh := fun (t : Thread) => { t with run := .running, group := c.nextGroup }
    if act = 0 then
      { c with nextGroup := c.nextGroup + 1, threads := tset c.threads k (fresh t) }
    else if act = 1 ∧ atHeader t = false then
      { c with nextGroup := c.nextGroup + 1,
               threads := tset c.threads k { fresh t with pc := nextPc t.pc (wordsAt t) } }
    else killLane victim c

/-- An action applied to the threads of one crew that are parked with record `n`. Threads that are released at one
address leave as one group. -/
def resumeCrew (n act : Nat) (c : Crew) : Crew :=
  let ks := parkedWith c n
  let c := ks.foldl (fun c k => resumeThread act k c) c
  if ks.isEmpty then c
  else { c with
    nextGroup := c.nextGroup + 1
    threads := c.threads.map (fun x => if ks.contains x.1 then (x.1, { x.2 with group := c.nextGroup }) else x) }

/-- RETURNING FROM A FAULT: applies an action to every thread of the context that is parked with record `n`, in every
crew, on the device or saved (17 R345, R351). -/
def resumeRecord (ctx n act : Nat) (s : State) : State :=
  pruneFifo <| modCtx ctx (fun x =>
    { x with saved := x.saved.map (fun v => { v with crews := v.crews.map (fun e => (e.1, resumeCrew n act e.2)) }) })
    { s with crews := s.crews.map (fun e => if e.2.ctx = ctx then (e.1, resumeCrew n act e.2) else e) }

/-- Whether any thread of the context is parked with record `n`, on the device or saved (17 R345, R351). -/
def isParked (s : State) (ctx n : Nat) : Bool :=
  s.crews.any (fun e => e.2.ctx == ctx && !(parkedWith e.2 n).isEmpty) ||
    (match (tgetD s.contexts ctx default).saved with
      | some v => v.crews.any (fun e => !(parkedWith e.2 n).isEmpty)
      | none => false)

/-- Whether a record is the host's or the debugger's to resolve (17 R332, R337, R345, R355; log entry 23). -/
def withHost (s : State) (ctx n : Nat) : Bool :=
  let x := tgetD s.contexts ctx default
  x.host.any (fun r => r.seq == n) || x.fq.produced.any (fun r => r.seq == n && (r.toHost || r.debug))

end Sys2Proof.Machine
end

