-- ==== Sys2Proof/Machine/Flags.lean ====
section
/-!
DEFINITION. Every flag computation: the conditions of ICMP (03 R53), the truth table of PLOP (03 R55), the conditions of
FCMP and DCMP (04 R90), and the sticky flags of FPCTL (04 R82, R83, R86).
-/
namespace Sys2Proof.Machine

/-- The conditions of ICMP (03 R53). CC from 11 to 15 does not reach here. -/
def icmpCond (cc : Nat) (a b : Word) : Bool :=
  match cc with
  | 0 => a == b
  | 1 => a != b
  | 2 => a.slt b
  | 3 => a.sle b
  | 4 => b.slt a
  | 5 => b.sle a
  | 6 => a.ult b
  | 7 => a.ule b
  | 8 => b.ult a
  | 9 => b.ule a
  | _ => a &&& b != 0

/-- PLOP: bit 2·a + b of the truth table (03 R55). -/
def plopBit (tt : BitVec 4) (a b : Bool) : Bool := tt.getLsbD (2 * a.toNat + b.toNat)

/-- How two numbers compare: less, equal, greater, or unordered (04 R90). -/
inductive FpOrder where
  | lt
  | eq
  | gt
  | un
  deriving DecidableEq, Repr, Inhabited

/-- The conditions of FCMP and DCMP (04 R90). CC from 12 to 15 does not reach here. -/
def fcmpCond (cc : Nat) (o : FpOrder) : Bool :=
  match cc, o with
  | 0, .eq => true
  | 1, .eq => false
  | 1, _ => true
  | 2, .lt => true
  | 3, .lt => true
  | 3, .eq => true
  | 4, .gt => true
  | 5, .gt => true
  | 5, .eq => true
  | 6, .un => false
  | 6, _ => true
  | 7, .un => true
  | 8, .lt => true
  | 8, .un => true
  | 9, .gt => false
  | 9, _ => true
  | 10, .gt => true
  | 10, .un => true
  | 11, .lt => false
  | 11, _ => true
  | _, _ => false

/-- LT, LE, GT and GE are the ordered compares, which raise NV on any NaN operand (04 R90). -/
def fcmpOrdered (cc : Nat) : Bool := decide (2 ≤ cc ∧ cc ≤ 5)

/-- The conditions of one floating-point operation (04 R86). -/
structure FpFlags where
  nv : Bool
  dz : Bool
  of : Bool
  uf : Bool
  nx : Bool
  deriving DecidableEq, Repr, Inhabited

/-- No condition. -/
def FpFlags.none : FpFlags := ⟨false, false, false, false, false⟩

/-- The conditions of either operation. -/
def FpFlags.or (a b : FpFlags) : FpFlags := ⟨a.nv || b.nv, a.dz || b.dz, a.of || b.of, a.uf || b.uf, a.nx || b.nx⟩

/-- Their places in FPCTL: NX 9, UF 8, OF 7, DZ 6, NV 5 (04 R82). -/
def FpFlags.toWord (f : FpFlags) : Word :=
  BitVec.ofNat 32 (f.nv.toNat * 32 + f.dz.toNat * 64 + f.of.toNat * 128 + f.uf.toNat * 256 + f.nx.toNat * 512)

/-- The flags of a group's instruction are ORed into the crew's FPCTL; a helper's go to its recruiter's (04 R83). -/
def raiseFlags (slot : Nat) (f : FpFlags) (s : State) : State :=
  modCrew slot (fun c => { c with fpctl := c.fpctl ||| f.toWord }) s

/-- RM of FPCTL (04 R82). -/
def roundMode (s : State) (slot : Nat) : Nat := bits (crewAt s slot).fpctl.toNat 1 0

end Sys2Proof.Machine
end

