-- ==== Sys2Proof/Machine/Operands.lean ====
section
/-!
DEFINITION. Operand forms, the checks of 02 R39 that every instruction makes when it issues, and the drivers that the
instructions share: register results, predicate results, and work done thread by thread.
-/
namespace Sys2Proof.Machine

/-! ## Operand values -/

/-- sext(B, 7) extended to 32 bits (02 R34). -/
def constB (b : Sel) : Word := b.signExtend 32

/-- What a thread's instruction reads registers with: selectors to words. -/
abbrev Reader := Nat → Word

/-- The pair at an even selector (01 R13). -/
def pairOf (rd : Reader) (a : Sel) : DWord := rd (a.toNat + 1) ++ rd a.toNat

/-- The 32-bit operand B: a register, or with K = 1 a constant (02 R34). -/
def operandB (rd : Reader) (k : Bool) (b : Sel) : Word := if k then constB b else rd b.toNat

/-- The 64-bit operand B. -/
def operandB64 (rd : Reader) (k : Bool) (b : Sel) : DWord := if k then b.signExtend 64 else pairOf rd b

/-- A double as the two words of its pair, low word first (01 R13). -/
def splitWords (x : DWord) : List Word := [x.setWidth 32, (x >>> 32).setWidth 32]

/-- The address of a load or store: A plus the signed offset in units of the access size (03 R62), as a 64-bit
number. -/
def addressM (rd : Reader) (a : Sel) (off : BitVec 8) (size : Nat) : Nat :=
  (pairOf rd a + off.signExtend 64 * BitVec.ofNat 64 size).toNat

/-! ## Checks at issue -/

/-- Whether a thread's key names a helper. -/
def isHelperKey (k : Nat) : Bool := decide (32 ≤ k)

/-- The selectors that an operand names. -/
def Opnd.selectors (o : Opnd) : List Nat := (List.range o.words).map (fun j => o.sel.toNat + j)

/-- The vector registers that an instruction names: every register of a group that starts where it may, so that a group
that begins below VCOUNT and ends above it counts as one that names a register above it, and CALL's link v62:v63 too, though no
field selects it (02 R32 and R39 leave both open; log entry 48). A group that starts where it may not names its first register
alone, so that 0x04 is found (01 R13). -/
def vectorsNamed (i : Instr) : List Nat :=
  (i.operands.filter (fun o => !isScalar o.sel)).flatMap (fun o => if o.isAligned then Opnd.selectors o else [o.sel.toNat])

/-- The instructions that a helper may not execute (07 R152). -/
def helperForbids (i : Instr) : Bool :=
  (match i with
    | .recruit _ _ _ _ _ _ => true
    | .hrelease _ => true
    | .exit => true
    | .bar => true
    | .barSeam => true
    | .tsopen _ _ => true
    | .tsbind _ => true
    | .tdrain _ => true
    | .tdrainF _ => true
    | .msplit _ _ _ => true
    | .mjoin _ => true
    | .shfli _ _ _ _ => true
    | .shflu _ _ _ _ => true
    | .shfld _ _ _ _ => true
    | .shflx _ _ _ _ => true
    | .vote _ _ _ _ _ => true
    | .ballot _ _ _ _ => true
    | .scan _ _ _ _ _ => true
    | .redux _ _ _ _ => true
    | .elect _ _ => true
    | .matchW _ _ _ => true
    | .matchD _ _ _ => true
    | _ => decide (0x78 ≤ encodeWord i / 2 ^ 25)) ||
  i.operands.any (fun o => o.isWritten && (isScalar o.sel || decide (o.sel.toNat < 32)))

/-- The checks made of the instruction for a whole group, in the order of 02 R39: 0x01 and the selector limits (05 R118;
in a helper 07 R150), 0x04 (01 R13), and 0x10 (07 R152). -/
def groupTrap (i : Instr) (g : Group) (s : State) : Option Trap :=
  let helper := isHelperKey g.lead
  if !(i.fieldsOk && i.selectorsOk) then some (trapC 0x01)
  else if !helper && (vectorsNamed i).any (fun n => decide (vcount (crewAt s g.slot) ≤ n)) then some (trapC 0x01)
  else if helper && (vectorsNamed i).any (fun n => decide (64 ≤ n)) then some (trapC 0x10)
  else if !i.aligned then some (trapC 0x04)
  else if helper && helperForbids i then some (trapC 0x10)
  else none

/-- The places that an instruction of thread `k` reads. -/
def readPlaces (i : Instr) (k : Nat) : List Nat :=
  ((i.operands.filter Opnd.isRead).flatMap Opnd.selectors).map (place k) ++ i.predReads.map (fun p => predPlace k p.toNat)

/-- The places of registers that an instruction of thread `k` writes. -/
def writePlaces (i : Instr) (k : Nat) : List Nat :=
  ((i.operands.filter Opnd.isWritten).flatMap Opnd.selectors).map (place k)

/-- Whether a read of a place by thread `k` at a clock comes too early after an instruction that assay mode governed (01 R24, 05
R122). -/
def readsEarly (c : Crew) (clock k p : Nat) : Bool :=
  (hazardAt c clock k p).any (·.watched) || c.ops.any (fun o => o.watched && o.slot != 0 && openFor k o && o.dests.contains p)

/-- Whether a write of a place by thread `k` comes too early after a counted operation that assay mode governed (01 R24). -/
def writesEarly (c : Crew) (k p : Nat) : Bool :=
  c.ops.any (fun o => o.watched && o.slot != 0 && openFor k o && (o.srcs.contains p || o.dests.contains p))

/-- Whether thread `k` writes the registers that its instruction names as destinations: CALL gives its link to the threads that it
sends to its target alone (03 R71), and HNEXT an index while one is left, but not to a helper that is due for release (07 R154). -/
def writesNamed (s : State) (slot : Nat) (i : Instr) (k : Nat) : Bool :=
  match i with
  | .call p n _ _ => readPred s slot k p.toNat ^^ n
  | .hnext _ _ _ =>
    let h := (threadAt (crewAt s slot) k).bind (·.helper)
    (tget (crewAt s slot).recruits ((h.map (·.recruiter)).getD k)).any (fun r => decide (r.next < r.count)) &&
      !((h.bind (·.due)).isSome)
  | _ => true

/-- Whether an issue of thread `k` breaks 01 R21 or R23 (01 R24). An operation that names no slot needs no wait (01 R23). -/
def underruns (s : State) (slot : Nat) (i : Instr) (k : Nat) : Bool :=
  let c := crewAt s slot
  (readPlaces i k).any (readsEarly c s.clock k) || (writesNamed s slot i k && (writePlaces i k).any (writesEarly c k))

/-- Whether thread `k` reads a poisoned register (13 R270, 14 R308, 17 R350). -/
def readsPoison (c : Crew) (i : Instr) (k : Nat) : Bool :=
  !(c.spacePoison.isEmpty && c.sregPoison.isEmpty) &&
    (((i.operands.filter Opnd.isRead).flatMap Opnd.selectors).any (poisonedReg c k))

/-- The checks that one thread makes before its entry's own: assay mode (01 R24), then poison (03 R63), which 06 R125 does not
place among the checks of a mask instruction (log entry 63). -/
def threadTrap (s : State) (slot : Nat) (i : Instr) (k : Nat) : Option Trap :=
  let c := crewAt s slot
  if assayOn c k && underruns s slot i k then some (trapC 0x03)
  else if readsPoison c i k then some (trapC 0x0B)
  else none

/-- The second registers of the pairs that a DCVT's control word names (04 R99). -/
def pairSeconds (d a : Sel) (w : Nat) : List Nat × List Nat :=
  (if bits w 4 0 = 0x1F then [a.toNat + 1] else [], if bits w 12 8 = 0x1F then [d.toNat + 1] else [])

/-- The vector registers that an instruction of some threads reads or writes: those that it names, v0 to v31 for RECRUIT's
snapshot (07 R151), and what DCVT's control words name (04 R99). -/
def vectorsUsed (c : Crew) (ks : List Nat) (i : Instr) : List Nat :=
  (match i with
    | .recruit _ _ _ _ _ _ => List.range (min 32 (vcount c))
    | .dcvt d a b _ => (ks.flatMap (fun k =>
        let p := pairSeconds d a (rawReg c k b.toNat).toNat
        p.1 ++ p.2)).filter (fun n => decide (n < 96))
    | _ => []) ++ vectorsNamed i

/-- Whether a thread has waited out the delay of far registers where it stands. -/
def farTaken (c : Crew) (k : Nat) : Bool :=
  match threadAt c k with
  | some t => t.farAt == some (t.pc, t.ready)
  | none => false

/-- The extra issue delay of an instruction that uses far registers (05 R120), until the group has waited it out. -/
def farDelay (s : State) (g : Group) (i : Instr) : Nat :=
  let c := crewAt s g.slot
  if !isHelperKey g.lead && !(farTaken c g.lead) && (vectorsUsed c g.keys i).any (fun n => decide (0x10000 ≤ vword c 0 n)) then 4
  else 0

/-- The clock from which an instruction may issue for its own sake: CREGR and CREGW of FPCTL wait for the results of the
floating-point instructions that the crew has issued (04 R83). -/
def floatClock (c : Crew) (i : Instr) : Nat :=
  match i with
  | .cregr _ 0 => c.floatUntil
  | .cregw 0 _ => c.floatUntil
  | _ => 0

/-- The slices of the partition on which some threads of a crew run: those of their lanes, or of the lanes that helpers hold (05
R100). -/
def slicesOf (c : Crew) (ks : List Nat) : List Nat :=
  ks.filterMap (fun k =>
    if k < 32 then some (c.half * 8 + k / 4) else ((threadAt c k).bind (·.helper)).bind (fun h => h.held.map (· / 4)))

/-- Whether two threads are helpers of one recruitment, by their keys. -/
def fellows (k j : Nat) : Bool := decide (32 ≤ k ∧ 32 ≤ j) && (k - 32) / 32 == (j - 32) / 32

/-- Whether a slice of a group has issued at a clock (01 R20), or another group of its crew at its address (05 R107), or of the
helpers of its recruitment, whose HNEXTs are served by worker number (07 R155). -/
def sliceBusy (s : State) (g : Group) (clk : Nat) : Bool :=
  let mine := slicesOf (crewAt s g.slot) g.keys
  s.crews.any (fun e => e.1 / 48 == g.slot / 48 && e.2.lastOn.any (fun x => x.clock == clk &&
    (mine.contains x.slice || (e.1 == g.slot && (x.pc == g.pc || fellows x.lead g.lead)))))

/-- Whether an instruction makes events, or ends what earlier ones must precede: those of memory, tasks and engines, joins,
EXIT, recruitment, and those of system code. -/
def makesEvents (i : Instr) : Bool :=
  let m := encodeWord i / 2 ^ 25
  decide (0x3C ≤ m ∧ m < 0x60) || (decide (0x64 ≤ m) && m != 0x67 && m != 0x73 && m != 0x77)

/-- Whether an instruction pushes a task record. -/
def pushesTask (i : Instr) : Bool :=
  match i with
  | .spawn _ _ => true
  | .spawnn _ _ => true
  | _ => false

/-- Whether a port access of an operation waits. -/
def portWaits (s : State) (op : Nat) : Bool := s.clusters.any (fun c => c.2.fifoReqs.any (fun r => r.op == op))

/-- Whether the threads of an operation have an atomic on its way. -/
def opFlying (s : State) (op : Nat) : Bool := s.atoms.any (fun a => a.op == op)

/-- Whether a group of a crew that issued on a clock still owes events of its instruction. -/
def owesEvents (s : State) (c : Crew) (clk : Nat) : Bool :=
  c.ops.any (fun o => !o.done && o.issued == clk && (!o.late.isEmpty || opFlying s o.id || portWaits s o.id))

/-- The first clock from one on at which a group issues an instruction. A slice issues once on a clock. The groups of a crew that
issue on one clock stand at different addresses and take effect by their lowest lanes (05 R107, 11 R218), and the pushes of
different crews on one clock arrive by their slots (08 R174). -/
def turnClock (s : State) (g : Group) (i : Instr) (clk : Nat) : Nat :=
  let c := crewAt s g.slot
  if (c.last.1 == clk && decide (g.lead < c.last.2)) || sliceBusy s g clk || (owesEvents s c clk && makesEvents i) ||
      (pushesTask i && s.pushed.1 == clk && decide (g.slot < s.pushed.2)) then clk + 1
  else clk

/-- The clock from which every thread of a group is ready (01 R20). -/
def readyClock (s : State) (g : Group) : Nat :=
  ((crewAt s g.slot).threads.filter (fun e => g.keys.contains e.1)).foldl (fun m e => max m e.2.ready) 0

/-- The clock at which the group issues: when its slowest thread may (01 R20), and later for far registers. -/
def issueClock (s : State) (g : Group) (i : Instr) : Nat :=
  turnClock s g i (max (max s.clock (floatClock (crewAt s g.slot) i)) (readyClock s g) + farDelay s g i)

/-- The state at the issue of a group: the clock, a fresh index for free values, and results past their latency
forgotten. -/
def atIssue (i : Instr) (g : Group) (s : State) : State :=
  let clk := issueClock s g i
  modCrew g.slot (fun c =>
    { c with cover := [], last := (clk, g.lead),
             lastOn := (slicesOf c g.keys).map (fun x => ⟨x, clk, g.pc, g.lead⟩) ++
               c.lastOn.filter (fun x => !((slicesOf c g.keys).contains x.slice)),
             hazards := c.hazards.filter (fun h => decide (clk < h.until_)) })
    { s with clock := clk, nonce := s.nonce + 8 }

/-! ## Drivers -/

/-- Adds a failure to a list in ascending order of thread. -/
def addFail (f : Nat × Trap) : List (Nat × Trap) → List (Nat × Trap)
  | [] => [f]
  | x :: xs => if f.1 < x.1 then f :: x :: xs else x :: addFail f xs

/-- Parks the threads that fail the instruction, with those of the group that failed before, in the order of 17 R336. -/
def takeFails (g : Group) (fails : List (Nat × Trap)) (s : State) : State :=
  takeFault g.slot g.pc (g.early.foldl (fun l f => addFail f l) fails) s

/-- Every thread of the group fails alike. -/
def failAll (g : Group) (t : Trap) (s : State) : State := takeFails g (g.keys.map (fun k => (k, t))) s

/-- Parks the threads that fail; answers those that pass. -/
def settle (g : Group) (fails : List (Nat × Trap)) (s : State) : Group × State :=
  if fails.isEmpty then (g, s)
  else ({ g with keys := g.keys.filter (fun k => !(fails.any (·.1 == k))) },
    takeFails g fails s)

/-- The failures of a check over a group's threads, in ascending order. -/
def failures (chk : Nat → Option Trap) (ks : List Nat) : List (Nat × Trap) :=
  ks.filterMap (fun k => (chk k).map (fun t => (k, t)))

/-- Goes on with a group that still has a thread. -/
def proceed (body : Group → State → State) (r : Group × State) : State :=
  if r.1.keys.isEmpty then r.2 else body r.1 r.2

/-- Whether a thread has issued its instruction already and now waits for what it waits for: at a join, BAR, HRELEASE or
EXIT, TCLOSE, or YIELD (06 R123). -/
def hasIssued (c : Crew) (k : Nat) : Bool :=
  match threadAt c k with
  | some t => (match t.run with
    | .waiting .slots => false
    | .waiting .engine => false
    | .waiting _ => true
    | _ => false)
  | none => false

/-- The failures of the checks that each thread makes when it issues. -/
def issueFails (i : Instr) (g : Group) (s : State) : List (Nat × Trap) :=
  failures (threadTrap s g.slot i) (g.keys.filter (fun k => !(hasIssued (crewAt s g.slot) k)))

/-- Whether a thread is parked. -/
def isParkedThread (c : Crew) (k : Nat) : Bool :=
  match threadAt c k with
  | some t => (match t.run with
    | .parked _ => true
    | _ => false)
  | none => false

/-- Whether a thread has failed an instruction and its record waits for those of other lanes. -/
def awaitsRecord (c : Crew) (k : Nat) : Bool := c.ops.any (fun o => !o.done && o.fails.any (·.1 == k))

/-- Runs the body for the threads of a group that have not failed; those that have are parked, by the body together with
its own, or after it. -/
def withEarly (body : Group → State → State) (early : List (Nat × Trap)) (g : Group) (s : State) : State :=
  let g' := { g with keys := g.keys.filter (fun k => !(early.any (·.1 == k))), early := early }
  let t := if g'.keys.isEmpty then s else body g' s
  if early.all (fun f => isParkedThread (crewAt t g.slot) f.1 || awaitsRecord (crewAt t g.slot) f.1) then t
  else takeFault g.slot g.pc early t

/-- Runs the body for the threads of the group that pass every check (02 R39, 00 R8). Threads that wait have passed them when
they issued. -/
def issueGroup (i : Instr) (body : Group → State → State) (g : Group) (s : State) : State :=
  let s := atIssue i g s
  match (if hasIssued (crewAt s g.slot) g.lead then none else groupTrap i g s) with
  | some t => takeFault g.slot g.pc (g.keys.map (fun k => (k, t))) s
  | none =>
    let early := issueFails i g s
    if early.isEmpty then body g s else withEarly body early g s

/-- THE ISSUE of an instruction word by the group in focus. -/
def issue (i : Instr) (body : Group → State → State) (s : State) : Host.Outcome State Fault Refusal :=
  match focusGroup s with
  | some g => .next (issueGroup i body g s)
  | none => .fault .noIssuer

/-- Registers as thread `k` of the group reads them. -/
def reader (s : State) (g : Group) (k : Nat) : Reader := readReg s g.slot k

/-- Writes a register result: once for a scalar destination (01 R14), else for every thread. All threads read before any
result is written. -/
def writeResult (i : Instr) (d : Sel) (val : Nat → List Word) (g : Group) (s : State) : State :=
  if isScalar d then writeRegs g.slot g.lead d.toNat i.latency (val g.lead) s
  else g.keys.foldl (fun s k => writeRegs g.slot k d.toNat i.latency (val k) s) s

/-- An instruction whose effect is a register result computed from register operands. -/
def regOp (i : Instr) (d : Sel) (val : Reader → List Word) (s : State) : Host.Outcome State Fault Refusal :=
  issue i (fun g s => advance i g (writeResult i d (fun k => val (reader s g k)) g s)) s

/-- Writes a predicate of every thread. -/
def writePred (i : Instr) (p : PSel) (val : Nat → Bool) (g : Group) (s : State) : State :=
  g.keys.foldl (fun s k => writePredLat g.slot k p.toNat i.latency (val k) s) s

/-- An instruction whose effect is a predicate computed from register operands. -/
def predOp (i : Instr) (p : PSel) (val : Reader → Bool) (s : State) : Host.Outcome State Fault Refusal :=
  issue i (fun g s => advance i g (writePred i p (fun k => val (reader s g k)) g s)) s

/-- A floating-point instruction's result and flags are written when its latency is over (04 R83). -/
def holdFloat (i : Instr) (g : Group) (s : State) : State :=
  modCrew g.slot (fun c => { c with floatUntil := max c.floatUntil (s.clock + i.latency) }) s

/-- A floating-point instruction: a register result with flags, in the rounding mode of FPCTL (04 R83). -/
def fpOp (i : Instr) (d : Sel) (val : Nat → Reader → List Word × FpFlags) (s : State) :
    Host.Outcome State Fault Refusal :=
  issue i (fun g s =>
    let f := fun k => val (roundMode s g.slot) (reader s g k)
    let ks := if isScalar d then [g.lead] else g.keys
    advance i g (holdFloat i g (raiseFlags g.slot (ks.foldl (fun a k => a.or (f k).2) FpFlags.none)
      (writeResult i d (fun k => (f k).1) g s)))) s

/-- A floating-point compare. -/
def fpPredOp (i : Instr) (p : PSel) (val : Reader → Bool × FpFlags) (s : State) : Host.Outcome State Fault Refusal :=
  issue i (fun g s =>
    let f := fun k => val (reader s g k)
    advance i g (holdFloat i g (raiseFlags g.slot (g.keys.foldl (fun a k => a.or (f k).2) FpFlags.none)
      (writePred i p (fun k => (f k).1) g s)))) s

/-- Work thread by thread in ascending lane order (00 R7) over an accumulated state: each thread may fail with a trap.
Answers the failures. -/
def eachThread {σ : Type} (f : Nat → σ → Option Trap × σ) : List Nat → σ → List (Nat × Trap) × σ
  | [], a => ([], a)
  | k :: ks, a =>
    let r := f k a
    let q := eachThread f ks r.2
    match r.1 with
    | some t => ((k, t) :: q.1, q.2)
    | none => q

/-- The threads that work alone: every thread, or one for all when the work is done once per group (02 R33). -/
def workers (once : Bool) (g : Group) : List Nat := if once then [g.lead] else g.keys

/-- When the one worker of a group fails, every thread fails. -/
def spread (once : Bool) (g : Group) (fs : List (Nat × Trap)) : List (Nat × Trap) :=
  if once then (match fs with
    | (_, t) :: _ => g.keys.map (fun k => (k, t))
    | [] => [])
  else fs

/-- An instruction that works thread by thread, or once per group; threads that fail are parked, the others advance. -/
def eachOp (i : Instr) (once : Bool) (f : Group → Nat → State → Option Trap × State) (s : State) :
    Host.Outcome State Fault Refusal :=
  issue i (fun g s =>
    let r := eachThread (f g) (workers once g) s
    proceed (advance i) (settle g (spread once g r.1) r.2)) s

end Sys2Proof.Machine
end

