-- ==== Sys2Proof/Machine/Events.lean ====
section
/-!
DEFINITION. Events for the owner (20 R389, R390, R392).
-/
namespace Sys2Proof.Machine

/-- When the owner's lease ends. -/
def leaseEnd : Owner → Option Nat
  | .none => none
  | .owned _ _ t => some t
  | .offered _ _ t _ => some t

/-- The owner state: none once the lease has lapsed (20 R391). -/
def liveOwner (s : State) : Owner := if (leaseEnd s.owner).any (fun t => decide (t ≤ s.wall)) then .none else s.owner

/-- The owner, if there is one (20 R391). -/
def ownerOf (s : State) : Option (DWord × Nat) :=
  match liveOwner s with
  | .none => none
  | .owned m ip _ => some (m, ip)
  | .offered m ip _ _ => some (m, ip)

/-- Sends an event that has not been acknowledged to the owner, if there is one; at most 64 times (20 R389). -/
def transmit (num : Word) (s : State) : State :=
  match ownerOf s, s.events.find? (fun e => e.num == num) with
  | some o, some e =>
    if e.sent < 64 then
      { s with
        outbox := s.outbox ++ [.event o.1 o.2 num e.payload]
        events := s.events.map (fun x => if x.num = num then { x with sent := x.sent + 1, last := s.wall } else x) }
    else { s with events := s.events.filter (fun x => x.num != num) }
  | _, _ => s

/-- Raises an event: it takes the next number, and is sent when there is an owner (20 R389, R392). -/
def raiseEvent (payload : List Word) (s : State) : State :=
  transmit s.eventCount
    { s with eventCount := s.eventCount + 1, events := s.events ++ [⟨s.eventCount, payload, 0, 0⟩] }

/-- The payload of an event (20 R390): kind; for a record its 8 words and its number; then context, level, identifier or
queue, and status (log entry 9). -/
def eventWords (kind : Nat) (record : List Word) (ctx level ident status : Nat) : List Word :=
  BitVec.ofNat 32 kind :: record ++
    [BitVec.ofNat 32 ctx, BitVec.ofNat 32 level, BitVec.ofNat 32 ident, BitVec.ofNat 32 status]

end Sys2Proof.Machine
end

