-- ==== Sys2Proof/Machine/Window.lean ====
section
/-!
DEFINITION. The device register window as a crew and a master reach it (19 R359, 20 R371, R372, R385, 21 R402): which
accesses it admits, what a read returns, and kicks.
-/
namespace Sys2Proof.Machine

/-! ## Queue control blocks (20 R372) -/

/-- A control block at reset: every field zero. -/
def Qcb.fresh : Qcb :=
  { ring := 0, en := false, priv := false, err := false, prio := 0, lsize := 0, ctx := 0, ridx := 0, kidx := 0,
    lastIdx := 0, state := 0, lastStat := 0, done := 0, pending := none, header := none, held := none }

/-- The control block of user queue `n`. -/
def qcbAt (s : State) (n : Nat) : Qcb := tgetD s.fabric.qcbs n Qcb.fresh

/-- The state with a control block changed. -/
def modQcb (n : Nat) (f : Qcb → Qcb) (s : State) : State :=
  { s with fabric := { s.fabric with qcbs := tput s.fabric.qcbs n (f (qcbAt s n)) Qcb.fresh } }

/-- Words of a ring. -/
def Qcb.size (q : Qcb) : Nat := 2 ^ (q.lsize + 10)

/-- The slot that a queue is mapped on. -/
def slotOf (s : State) (n : Nat) : Option Nat := (s.fabric.slots.find? (fun e => e.2.queue == n)).map (·.1)

/-- The state with the slot that a queue is mapped on changed. -/
def modSlot (n : Nat) (f : HwSlot → HwSlot) (s : State) : State :=
  { s with fabric := { s.fabric with slots := s.fabric.slots.map (fun e => if e.2.queue = n then (e.1, f e.2) else e) } }

/-- The queue stops in error, and the host receives an event of kind 5 (20 R376, R385). A packet that it performs goes on. -/
def stopQueue (n : Nat) (s : State) : State :=
  let wait := (qcbAt s n).held.isSome
  raiseEvent (eventWords 5 [] (qcbAt s n).ctx 0 n 0)
    (modSlot n (fun x => { x with idle := if wait then x.idle else some s.wall })
      (modQcb n (fun q => { q with err := true, state := if wait then q.state else 0 }) s))

/-! ## Registers (20 R371, 21 R402) -/

/-- Where the blocks of registers begin. -/
def offDoorbell : Nat := 0x10000
/-- PENDING. -/
def offPending : Nat := 0x30000
/-- SLOT. -/
def offSlot : Nat := 0x40000
/-- FQDROP. -/
def offDrop : Nat := 0x50000
/-- PKTBUF. -/
def offBuf : Nat := 0x80000
/-- PKTGO. -/
def offGo : Nat := 0x84000
/-- The queue control blocks. -/
def offQcb : Nat := 0x100000

/-- Whether an offset is that of a 64-bit register: OWNERID, THRTIME, PENDING k, RING of a control block. -/
def isReg64 (off : Nat) : Bool :=
  off == 8 || off == 0x38 || (decide (offPending ≤ off ∧ off < offPending + 512) && off % 8 == 0) ||
    (decide (offQcb ≤ off ∧ off < offQcb + 64 * 4096) && off % 64 == 0)

/-- Whether an aligned access of `size` bytes at an offset of the window is admitted (20 R371). -/
def windowAdmits (off size : Nat) : Bool := size == 4 || (size == 8 && isReg64 off)

/-- Half `h` of a 64-bit value. -/
def half64 (x h : Nat) : Word := BitVec.ofNat 32 (x / 2 ^ (32 * h))

/-- The master identity of the owner, 0 when there is none. -/
def ownerId (s : State) : Nat :=
  match ownerOf s with
  | some o => o.1.toNat
  | none => 0

/-- FABSTAT. -/
def fabstat (s : State) : Word :=
  BitVec.ofNat 32 ((if s.boot.bitOk then bits (s.boot.bitHeader.getD 1 0).toNat 15 0 else 0) * 65536 +
    s.fabric.loaded.toNat)

/-- The pending bits of queues 64k to 64k + 63. -/
def pendingBits (s : State) (k : Nat) : Nat :=
  ((List.range 64).map (fun i => if (qcbAt s (64 * k + i)).pending.isSome then 2 ^ i else 0)).sum

/-- SLOT s. -/
def slotWord (s : State) (n : Nat) : Word :=
  match tget s.fabric.slots n with
  | some x => BitVec.ofNat 32 (2 ^ 31 + x.queue)
  | none => 0

/-- Word `j` of a control block. -/
def qcbWord (q : Qcb) (j : Nat) : Word :=
  match j with
  | 0 => half64 q.ring.toNat 0
  | 1 => half64 q.ring.toNat 1
  | 2 => BitVec.ofNat 32 (q.en.toNat * 2 ^ 31 + q.priv.toNat * 2 ^ 30 + q.err.toNat * 2 ^ 29 + q.prio * 2 ^ 24 +
      q.lsize * 2 ^ 20 + q.ctx)
  | 3 => q.ridx
  | 4 => q.kidx
  | 5 => q.lastIdx
  | 6 => BitVec.ofNat 32 (q.state * 2 ^ 24 + q.lastStat)
  | 7 => q.done
  | _ => 0

/-- The low registers. -/
def lowRegister (s : State) (off : Nat) : Word :=
  match off with
  | 0x00 => Config.devid
  | 0x08 => half64 (ownerId s) 0
  | 0x0C => half64 (ownerId s) 1
  | 0x10 => BitVec.ofNat 32 s.fabric.hwqSlots
  | 0x14 => BitVec.ofNat 32 s.fabric.mapIdle
  | 0x18 => BitVec.ofNat 32 s.fabric.mapAge
  | 0x1C => Config.saveSize
  | 0x20 => fabstat s
  | 0x30 => BitVec.ofNat 32 s.fabric.pwrCap
  | 0x34 => BitVec.ofNat 32 (s.fabric.throttled.toNat * 65536 + s.fabric.mhz)
  | 0x38 => half64 s.fabric.thrTime 0
  | 0x3C => half64 s.fabric.thrTime 1
  | _ => 0

/-- What a read of the word at a 4-aligned offset returns; 0 where nothing is listed. Reads have no side effect. -/
def windowRead (s : State) (off : Nat) : Word :=
  if off < offDoorbell then lowRegister s off
  else if off < offDoorbell + 8 * 4096 then (if off % 8 = 0 then (qcbAt s ((off - offDoorbell) / 8)).kidx else 0)
  else if offPending ≤ off ∧ off < offPending + 512 then half64 (pendingBits s ((off - offPending) / 8)) (off / 4 % 2)
  else if offSlot ≤ off ∧ off < offSlot + 1024 then (if off % 16 = 0 then slotWord s ((off - offSlot) / 16) else 0)
  else if offDrop ≤ off ∧ off < offDrop + 4 * 4096 then
    BitVec.ofNat 32 (tgetD s.contexts ((off - offDrop) / 4) default).fq.dropped
  else if offBuf ≤ off ∧ off < offGo then tgetD s.fabric.pktBuf ((off - offBuf) / 4) 0
  else if off = offGo then BitVec.ofNat 32 ((s.fabric.direct.isSome).toNat * 2 ^ 31 + s.fabric.pktStatus)
  else if offQcb ≤ off ∧ off < offQcb + 64 * 4096 then qcbWord (qcbAt s ((off - offQcb) / 64)) (off / 4 % 16)
  else 0

/-! ## Kicks (20 R385) -/

/-- A kick is taken when it moves the index forward, of a queue that is enabled and not in error. -/
def kickTaken (q : Qcb) (w : Word) : Bool :=
  q.en && !q.err && decide (0 < (w - q.kidx).toNat ∧ (w - q.kidx).toNat < 2 ^ 31)

/-- KIDX moves; an unmapped queue's pending bit is set; a mapped queue is no longer idle. -/
def moveKidx (n : Nat) (w : Word) (s : State) : State :=
  match slotOf s n with
  | some _ =>
    modSlot n (fun x => { x with idle := none })
      (modQcb n (fun q => { q with kidx := w, state := if q.state = 0 then 1 else q.state }) s)
  | none => modQcb n (fun q => { q with kidx := w, pending := some (q.pending.getD s.wall) }) s

/-- A kick: a write of an index to DOORBELL n (20 R385). One that passes the ring's size stops the queue. -/
def kickQueue (n : Nat) (w : Word) (s : State) : State :=
  let q := qcbAt s n
  if kickTaken q w then
    let s := moveKidx n w s
    if q.size < (w - q.ridx).toNat then stopQueue n s else s
  else s

/-- A crew's 4-byte write of the window: it takes effect on doorbells alone (20 R371). -/
def windowStore (off : Nat) (w : Word) (s : State) : State :=
  if offDoorbell ≤ off ∧ off < offDoorbell + 8 * 4096 ∧ off % 8 = 0 then kickQueue ((off - offDoorbell) / 8) w s else s

end Sys2Proof.Machine
end

