-- ==== Sys2Proof/Machine/Memory.lean ====
section
/-!
DEFINITION. Memory (10, 11): physical bytes, page-table walks and translation caches, the windows and FIFO ports of
cluster SRAM, the checks of 03 R63 in their order, and the loads and stores that every instruction uses.
-/
namespace Sys2Proof.Machine

/-! ## Physical memory -/

/-- When the unwritten bytes at an address became unspecified: 0 for since power-on. -/
def voidSince (vs : List (Nat × Nat × Nat)) (pa : Nat) : Nat :=
  match vs.find? (fun v => decide (v.1 ≤ pa ∧ pa < v.1 + v.2.1)) with
  | some v => v.2.2
  | none => 0

/-- What a byte of HBM4 that no store has written reads as: a free value, the same on every read (11 R219). -/
def unlistedByte (s : State) (pa : Nat) : Byte := Config.unwritten (pa + voidSince s.voids pa * 2 ^ 46)

/-- A byte of HBM4. -/
def memByte (s : State) (pa : Nat) : Byte :=
  match tget s.mem pa with
  | some b => b
  | none => unlistedByte s pa

/-- The bytes of a physical range become unspecified. -/
def voidRange (pa n : Nat) (s : State) : State :=
  { s with
    mem := s.mem.filter (fun e => decide (e.1 < pa ∨ pa + n ≤ e.1))
    voids := (pa, n, s.nonce + 1) :: s.voids
    nonce := s.nonce + 8 }

/-- Consecutive bytes. -/
def memBytes (s : State) (pa n : Nat) : List Byte := (List.range n).map (fun j => memByte s (pa + j))

/-- The little-endian number of a list of bytes (00 R4). -/
def ofBytes : List Byte → Nat
  | [] => 0
  | b :: bs => b.toNat + 256 * ofBytes bs

/-- The word at a 4-aligned physical address. -/
def memWord (s : State) (pa : Nat) : Word := BitVec.ofNat 32 (ofBytes (memBytes s pa 4))

/-- The double at a physical address. -/
def mem64 (s : State) (pa : Nat) : Nat := ofBytes (memBytes s pa 8)

/-- Remembers that a word changes: later fetches of it as an instruction may still use the old one (01 R19). -/
def noteOld (pa : Nat) (s : State) : State :=
  let w := pa / 4 * 4
  let old := tgetD s.shadow w []
  if old.contains (memWord s w, []) then s else { s with shadow := tset s.shadow w ((memWord s w, []) :: old) }

/-- Stores bytes at consecutive physical addresses. -/
def setBytes (pa : Nat) : List Byte → List Host.Cell → List Host.Cell
  | [], m => m
  | b :: bs, m => setBytes (pa + 1) bs (tset m pa b)

/-- The words, by address, that a run of bytes touches. -/
def wordsTouched (pa n : Nat) : List Nat :=
  if n = 0 then [] else (List.range ((pa + n - 1) / 4 - pa / 4 + 1)).map (fun j => (pa / 4 + j) * 4)

/-- A store event: bytes written, their poison cleared (03 R63), the replaced words remembered for fetch. -/
def memStore (pa : Nat) (bs : List Byte) (s : State) : State :=
  let s := (wordsTouched pa bs.length).foldl (fun s w => noteOld w s) s
  { s with
    mem := setBytes pa bs s.mem
    memPoison := s.memPoison.filter (fun a => decide (a < pa ∨ pa + bs.length ≤ a)) }

/-- Whether any of a run of bytes is poisoned. -/
def memPoisoned (s : State) (pa n : Nat) : Bool := s.memPoison.any (fun a => decide (pa ≤ a ∧ a < pa + n))

/-- Whether a 16-byte sector holds any of a run of bytes. -/
def sectorIn (pa n q : Nat) : Bool := decide (pa < q * 16 + 16 ∧ q * 16 < pa + n)

/-- Whether the data of a read of some bytes comes back corrupted by a link (19 R358). -/
def spoiltRead (s : State) (pa n : Nat) : Bool := s.badReads.any (sectorIn pa n)

/-- A read of some bytes takes the errors with which a link returns their sectors. -/
def takeReads (pa n : Nat) (s : State) : State := { s with badReads := s.badReads.filter (fun q => !sectorIn pa n q) }

/-- Whether a physical address is backed by HBM4 (10 R209, 19 R359). -/
def backed (s : State) (pa : Nat) : Bool :=
  decide (pa < s.units.capacity0) ||
    decide (0x4000000000 ≤ pa ∧ pa < 0x4000000000 + s.units.capacity1)

/-- Where the register window begins and how long it is (19 R359). -/
def windowBase : Nat := 0x3F0000000000

/-- Whether a physical address lies in the register window. -/
def inWindow (pa : Nat) : Bool := decide (windowBase ≤ pa ∧ pa < windowBase + 0x1000000)

/-- The home slice of a line, among all enabled slices, or with the die-local bit among those of its die (10 R210). -/
def homeOf (s : State) (pa : Nat) (loc : Bool) : Nat :=
  if loc then
    if pa < 0x4000000000 then Config.homeHash (pa / 128) s.units.homes0
    else s.units.homes0 + Config.homeHash (pa / 128) s.units.homes1
  else Config.homeHash (pa / 128) (s.units.homes0 + s.units.homes1)

/-! ## Leaves -/

/-- V, W, X, SYS, COW, PIN and LOCAL of a leaf (10 R212). -/
def Leaf.valid (l : Leaf) : Bool := bitAt l.pte 0
/-- Writable. -/
def Leaf.writable (l : Leaf) : Bool := bitAt l.pte 1
/-- Executable. -/
def Leaf.executable (l : Leaf) : Bool := bitAt l.pte 2
/-- System-only. -/
def Leaf.system (l : Leaf) : Bool := bitAt l.pte 3
/-- Memory type: 0 normal, 1 write-combining, 2 device, 3 strongly ordered. -/
def Leaf.type (l : Leaf) : Nat := bits l.pte 5 4
/-- Transform. -/
def Leaf.xform (l : Leaf) : Nat := bits l.pte 8 6
/-- Copy-on-write shared. -/
def Leaf.cow (l : Leaf) : Bool := bitAt l.pte 9
/-- Pinned. -/
def Leaf.pinned (l : Leaf) : Bool := bitAt l.pte 12
/-- Die-local home. -/
def Leaf.isLocal (l : Leaf) : Bool := bitAt l.pte 13

/-- The physical address that a leaf gives (10 R211). -/
def Leaf.target (l : Leaf) (va : Nat) : Nat :=
  if l.large then bits l.pte 45 29 * 2 ^ 29 + va % 2 ^ 29 else bits l.pte 45 16 * 65536 + va % 65536

/-- A table entry, when it is valid; a table outside memory has none (10 R209). -/
def tableEntry (s : State) (pa : Nat) : Option Nat :=
  if backed s pa && bitAt (mem64 s pa) 0 then some (mem64 s pa) else none

/-- A walk of the tables from a root (10 R211): the leaf, or none where an entry is not valid. Level-1 entry 1023 is never
read. -/
def walk (s : State) (root va : Nat) : Option Leaf :=
  if bits va 51 42 = 1023 then none
  else
    match tableEntry s (root + bits va 51 42 * 8) with
    | none => none
    | some e1 =>
      let a2 := bits e1 45 16 * 65536 + bits va 41 29 * 8
      match tableEntry s a2 with
      | none => none
      | some e2 =>
        if bitAt e2 14 then some ⟨e2, a2, true⟩
        else
          let a3 := bits e2 45 16 * 65536 + bits va 28 16 * 8
          match tableEntry s a3 with
          | none => none
          | some e3 => some ⟨e3, a3, false⟩

/-- Whether a leaf reaches memory or the register window; any other frame counts as not valid (10 R209). A frame
that a die's capacity backs in part is judged by the byte that is accessed, for a copy by its page's first (log entry 66). -/
def Leaf.reaches (s : State) (l : Leaf) (va : Nat) : Bool := backed s (l.target va) || inWindow (l.target va)

/-- The key of a translation in the caches: context and 64 KiB page. -/
def tlbKey (ctx va : Nat) : Nat := ctx * 2 ^ 36 + va / 65536

/-- An entry without its AC and D bits. -/
def plainPte (pte : Nat) : Nat := pte - bits pte 11 10 * 1024

/-- Whether two translations agree but for AC and D. -/
def sameLeaf (a b : Leaf) : Bool :=
  a.addr == b.addr && a.large == b.large && plainPte a.pte == plainPte b.pte

/-- The translation of an address: the cached leaf or the one the tables hold now; where they differ, either, by a free
choice, until a TLBINV (10 R214). -/
def translate (s : State) (ctx va : Nat) : Option Leaf :=
  let w := walk s (tgetD s.contexts ctx default).root va
  let r := match tget s.tlb (tlbKey ctx va), w with
    | none, w => w
    | some c, some l => if sameLeaf c l then some l else if Config.freeBit s.nonce (tlbKey ctx va) 2 then some c else some l
    | some c, none => if Config.freeBit s.nonce (tlbKey ctx va) 2 then some c else none
  match r with
  | some l => if l.reaches s va then some l else none
  | none => none

/-- An atomic OR of AC or D into an entry that stands in memory (10 R213); none into a copy-on-write leaf. -/
def markLeaf (l : Leaf) (bit : Nat) (s : State) : State :=
  let e := mem64 s l.addr
  if l.cow || !bitAt e 0 || bitAt e bit then s
  else { s with mem := setBytes l.addr (bytesOf 8 (e + 2 ^ bit)) s.mem }

/-- Memory type, transform and die-local bit of a leaf, as one number (10 R210). -/
def Leaf.form (l : Leaf) : Nat := l.type + 4 * l.xform + 32 * l.isLocal.toNat

/-- Whether a leaf maps the frame of a physical address. -/
def Leaf.maps (l : Leaf) (pa : Nat) : Bool :=
  if l.large then bits l.pte 45 29 == pa / 2 ^ 29 else bits l.pte 45 16 == pa / 65536

/-- The valid entries that stand written in a table of `n` entries: each with its address (log entry 47). -/
def standing (s : State) (base n : Nat) : List (Nat × Nat) :=
  (s.mem.filter (fun e => decide (base ≤ e.1 ∧ e.1 < base + 8 * n) && e.1 % 8 == 0)).filterMap (fun e =>
    (tableEntry s e.1).map (fun v => (e.1, v)))

/-- The leaves that stand in the tables under a root (10 R211). -/
def tableLeaves (s : State) (root : Nat) : List Leaf :=
  (standing s root 1023).flatMap (fun e1 => (standing s (bits e1.2 45 16 * 65536) 8192).flatMap (fun e2 =>
    if bitAt e2.2 14 then [⟨e2.2, e2.1, true⟩]
    else (standing s (bits e2.2 45 16 * 65536) 8192).map (fun e3 => ⟨e3.2, e3.1, false⟩)))

/-- The forms of the leaves, cached or in a context's tables, that map the frame of a physical address. -/
def frameForms (s : State) (pa : Nat) : List Nat :=
  ((s.tlb.map (·.2) ++ s.contexts.flatMap (fun e => tableLeaves s e.2.root)).filter (·.maps pa)).map Leaf.form

/-- Whether mappings of the frame of an address disagree, so that its bytes hold unspecified values (10 R210, R215; log entry
47). -/
def disputed (s : State) (pa : Nat) : Bool :=
  match frameForms s pa with
  | [] => false
  | f :: fs => fs.any (· != f)

/-- Whether what an access through a leaf reads at an address is unspecified: its frame is disputed, or the byte was stored
through another transform (10 R210, R215). -/
def blurred (s : State) (l : Leaf) (pa : Nat) : Bool :=
  disputed s pa || ((tget s.mem pa).isSome && tgetD s.packs pa 0 != l.xform)

/-- The byte that an access through a leaf reads. -/
def seenByte (s : State) (l : Leaf) (pa : Nat) : Byte :=
  if blurred s l pa then (Config.freeWord s.nonce pa).setWidth 8 else memByte s pa

/-- The bytes that an access through a leaf reads. -/
def seenBytes (s : State) (l : Leaf) (pa n : Nat) : List Byte := (List.range n).map (fun j => seenByte s l (pa + j))

/-- The word that an access through a leaf reads. -/
def seenWord (s : State) (l : Leaf) (pa : Nat) : Word := BitVec.ofNat 32 (ofBytes (seenBytes s l pa 4))

/-- A run of bytes is stored through a leaf, in the form of its transform (10 R215). -/
def packBytes (l : Leaf) (pa n : Nat) (s : State) : State :=
  if l.xform = 0 && s.packs.isEmpty then s
  else { s with packs := (List.range n).foldl (fun t j => tput t (pa + j) l.xform 0) s.packs }

/-- What goes before a store of a run of bytes through a leaf to memory: D is set (10 R213). -/
def openLeaf (l : Leaf) (pa n : Nat) (s : State) : State := markLeaf l 11 (packBytes l pa n s)

/-- A store event, after which the bytes are unspecified where `lost` says so. -/
def storeUnless (lost : Bool) (pa : Nat) (bs : List Byte) (s : State) : State :=
  if lost then voidRange pa bs.length (memStore pa bs s) else memStore pa bs s

/-- A store event through a leaf: in a disputed frame the bytes become unspecified. -/
def leafStore (pa : Nat) (bs : List Byte) (s : State) : State := storeUnless (disputed s pa) pa bs s

/-- Caching a leaf in a TLB: sets AC when it was not cached (10 R213). A leaf that another one still stands for in the caches is
walked to and its AC set; the other stays too, as both may be used (10 R214). -/
def cacheLeaf (ctx va : Nat) (l : Leaf) (s : State) : State :=
  match tget s.tlb (tlbKey ctx va) with
  | some c => if sameLeaf c l then s else markLeaf l 10 s
  | none => markLeaf l 10 { s with tlb := tset s.tlb (tlbKey ctx va) l }

/-- Addresses that stand for the pages of a range: its first byte, and the first byte of each further 64 KiB page. -/
def pageStarts (va n : Nat) : List Nat :=
  if n = 0 then []
  else va :: (List.range ((va + n - 1) / 65536 - va / 65536)).map (fun j => (va / 65536 + j + 1) * 65536)

/-- Whether a byte has a leaf for a check, and what it is; addresses from 2^52 up have none. -/
def leafAt (s : State) (ctx va : Nat) : Option Leaf := if va < 2 ^ 52 then translate s ctx va else none

/-- A normal page of memory. -/
def normalLeaf (s : State) (va : Nat) (l : Leaf) : Bool := l.type == 0 && backed s (l.target va)

/-! ## Windows of cluster SRAM -/

/-- The mode of bank `b`: 0 cache, 1 scratchpad, 2 FIFO, 3 absent (10 R198). -/
def bankModeOf (c : Cluster) (b : Nat) : Nat := bits c.bankMode.toNat (2 * b + 1) (2 * b)

/-- Banks in a mode, ascending. -/
def banksIn (c : Cluster) (m : Nat) : List Nat := (List.range 32).filter (fun b => bankModeOf c b == m)

/-- The bytes of the scratchpad (10 R201). -/
def scratchSize (c : Cluster) : Nat := (banksIn c 1).length * 0x20000

/-- Where scratch offset `o` lies: bank × 131,072 + byte (10 R201). -/
def scratchKey (c : Cluster) (o : Nat) : Nat :=
  let bs := banksIn c 1
  let g := o / 64
  bs.getD (g % bs.length) 0 * 0x20000 + g / bs.length * 64 + o % 64

/-- Whether an address lies in the reserved window region (10 R202). -/
def inRegion (va : Nat) : Bool := bits va 51 42 == 1023 && decide (va < 2 ^ 52)

/-- The local window's base. -/
def localBase : Nat := 0xFFF0000000000
/-- The seam windows' base. -/
def seamBase : Nat := 0xFFF1000000000

/-- The clusters of a crew's seam when it is cooperative: those that seam windows reach (05 R104). -/
def seamClusters (s : State) (c : Crew) : List Nat :=
  match c.role with
  | .seam id _ _ =>
    let m := tgetD s.seams id default
    if bitAt (m.words.getD 6 0).toNat 18 then m.clusters else []
  | .handler _ => []

/-- The cluster and offset that a window address reaches (10 R202, 05 R104). -/
def windowOf (s : State) (slot va : Nat) : Option (Nat × Nat) :=
  if localBase ≤ va ∧ va < localBase + 0x400000 then some (clusterOf slot, va - localBase)
  else if seamBase ≤ va ∧ va < seamBase + 0x1000000 then
    match (seamClusters s (crewAt s slot))[(va - seamBase) / 0x400000]? with
    | some cl => some (cl, (va - seamBase) % 0x400000)
    | none => none
  else none

/-- Whether an offset lies in the FIFO port block (10 R204). -/
def inPorts (c : Cluster) (o : Nat) : Bool := decide (0x3FF000 ≤ o) && !(banksIn c 2).isEmpty

/-- A port access that 10 R204 admits: pushes of 4, 8 or 16 bytes and counts of 4 at 0x00, pops of 4, 8 or 16 at 0x40. -/
def portAdmits (c : Cluster) (o size : Nat) (store : Bool) : Bool :=
  let z := size == 4 || size == 8 || size == 16
  let p := o % 128
  bankModeOf c ((o - 0x3FF000) / 128) == 2 &&
    ((store && p == 0 && z) || (!store && p == 0 && size == 4) || (!store && p == 64 && z))

/-- Whether an offset in the block names a port of a bank in FIFO mode. -/
def namesPort (c : Cluster) (o : Nat) : Bool :=
  bankModeOf c ((o - 0x3FF000) / 128) == 2 && (o % 128 == 0 || o % 128 == 64)

/-- A window access (10 R202 to R204). An atomic to a port raises 0x09; one to any other offset of the block 0x06. -/
def reachWindow (s : State) (slot va size : Nat) (store atomic zero : Bool) : Trap ⊕ Reach :=
  match windowOf s slot va with
  | none => .inl (trapVa 0x06 va)
  | some (cl, o) =>
    let c := clusterAt s cl
    if inPorts c o then
      (if atomic then .inl (trapVa (if namesPort c o then 0x09 else 0x06) va)
       else if !zero && portAdmits c o size store then .inr (.port cl ((o - 0x3FF000) / 128) (o % 128))
       else .inl (trapVa 0x06 va))
    else if o + size ≤ scratchSize c then .inr (.bank cl (scratchKey c o))
    else .inl (trapVa 0x06 va)

/-! ## The checks of 03 R63 -/

/-- How an instruction uses memory, as far as the checks differ. -/
inductive Use where
  | load
  | store
  | atomic
  | zero
  deriving DecidableEq, Repr, Inhabited

/-- A reserved transform or combination (10 R212). -/
def Leaf.badForm (l : Leaf) : Bool := decide (4 ≤ l.xform) || (decide (1 ≤ l.xform) && l.type != 0)

/-- Check 5: an access kind that the page's type does not admit (03 R63, 12 R234). -/
def typeRefuses (s : State) (l : Leaf) (va size : Nat) (u : Use) : Bool :=
  let w := inWindow (l.target va) && !(backed s (l.target va))
  (w && (decide (l.type < 2) || !windowAdmits (l.target va - windowBase) size)) ||
    (u == .zero && l.type != 0) || (u == .atomic && decide (2 ≤ l.type))

/-- Check 6: protection. -/
def protects (l : Leaf) (sys : Bool) (u : Use) : Bool :=
  (u != .load && (!l.writable || l.cow)) || (l.system && !sys)

/-- Checks 1 to 6 of 03 R63, for atomics 2 to 7 of 12 R234, in order; the state carries a leaf newly cached. `sys`: the
access is made by system code. -/
def reach (s : State) (slot va size : Nat) (u : Use) (sys : Bool) : (Trap ⊕ Reach) × State :=
  let ctx := (crewAt s slot).ctx
  if 2 ^ 52 ≤ va then (.inl (trapVa 0x06 va), s)
  else if va % size ≠ 0 then (.inl (trapVa 0x05 va), s)
  else if inRegion va then (reachWindow s slot va size (u != .load) (u == .atomic) (u == .zero), s)
  else
    match translate s ctx va with
    | none => (.inl ⟨0x06, va, 0, 0, true⟩, s)
    | some l =>
      let s := cacheLeaf ctx va l s
      if l.badForm then (.inl (trapVa 0x0A va), s)
      else if typeRefuses s l va size u then (.inl (trapVa 0x09 va), s)
      else if protects l sys u then (.inl ⟨0x07, va, 0, 0, l.cow⟩, s)
      else if backed s (l.target va) then (.inr (.mem (l.target va) l), s)
      else (.inr (.reg (l.target va - windowBase) l), s)

/-! ## Bytes of banks -/

/-- Consecutive bytes of a bank. -/
def bankBytes (c : Cluster) (key n : Nat) : List Byte := (List.range n).map (fun j => tgetD c.banks (key + j) 0)

/-- Stores consecutive bytes of a bank. -/
def putBank (key : Nat) : List Byte → Table Byte → Table Byte
  | [], t => t
  | b :: bs, t => putBank (key + 1) bs (tput t key b 0)

/-- Bytes of a bank change, with no further effect; their poison is cleared. -/
def bankPut (cl key : Nat) (bs : List Byte) (s : State) : State :=
  modCluster cl (fun c =>
    { c with banks := putBank key bs c.banks,
             poison := c.poison.filter (fun a => decide (a < key ∨ key + bs.length ≤ a)) }) s

/-- Word `j` of the sync word at a place of a bank (13 R278): TARGET, ARRIVED, GEN, and OVER with WAITERS. -/
def syncField (c : Cluster) (key j : Nat) : Word := BitVec.ofNat 32 (ofBytes (bankBytes c (key + 4 * j) 4))

/-- Whether a generation has passed a waiter's (13 R282). -/
def genPassed (gen g : Word) : Bool := let d := (gen - g).toNat; decide (1 ≤ d ∧ d ≤ 0x7FFFFFFF)

/-- Whether a thread waits at SYWAIT on the sync word at a place of a bank, and the word's generation lets it go. -/
def syncReleases (c : Cluster) (cl key : Nat) (t : Thread) : Bool :=
  match t.run with
  | .waiting (.sync cl' off _ g _) => cl' == cl && scratchKey c off == key && genPassed (syncField c key 2) g
  | _ => false

/-- The number of the group with which a thread began to wait at SYWAIT. -/
def syncTag (t : Thread) : Nat :=
  match t.run with
  | .waiting (.sync _ _ _ _ n) => n
  | _ => 0

/-- After an event on the sync word at a place: the groups whose wait it ends leave SYWAIT, and WAITERS counts down once
for each (13 R282). -/
def wakeSync (cl key : Nat) (s : State) : State :=
  let c := clusterAt s cl
  let n := (s.crews.map (fun e =>
    (((e.2.threads.filter (fun t => syncReleases c cl key t.2)).map (fun t => syncTag t.2)).eraseDups).length)).sum
  if n = 0 then s
  else
    let w := (syncField c key 3).toNat
    let s' := bankPut cl (key + 12) (bytesOf 2 (w % 65536 - n)) s
    { s' with crews := s'.crews.map (fun e =>
        (e.1, { e.2 with threads := e.2.threads.map (fun t =>
          if syncReleases c cl key t.2 then
            (t.1, { t.2 with pc := nextPc t.2.pc 1, run := .running, ready := s.clock + 1 })
          else t) })) }

/-- The 16-byte sectors, by first byte, that a run of bytes touches. -/
def sectorsTouched (key n : Nat) : List Nat :=
  if n = 0 then [] else (List.range ((key + n - 1) / 16 - key / 16 + 1)).map (fun j => (key / 16 + j) * 16)

/-- A store event in scratchpad; it clears the poison of the bytes, and ends the waits of SYWAIT that it satisfies. -/
def bankStore (cl key : Nat) (bs : List Byte) (s : State) : State :=
  (sectorsTouched key bs.length).foldl (fun s k => wakeSync cl k s) (bankPut cl key bs s)

/-- A store event of bytes of one sector of a cluster's banks, by key, each with its poison. -/
def bankCells (cl : Nat) (cells : List (Nat × Byte × Bool)) (s : State) : State :=
  let s := cells.foldl (fun s e => bankPut cl e.1 [e.2.1] s) s
  let s := modCluster cl (fun c => { c with poison := cells.foldl (fun p e => if e.2.2 then sadd p e.1 else p) c.poison }) s
  match cells with
  | e :: _ => wakeSync cl (e.1 / 16 * 16) s
  | [] => s

/-- Bytes by address, in runs of one 16-byte sector each. -/
def sectorRuns : List (Nat × Byte × Bool) → List (List (Nat × Byte × Bool))
  | [] => []
  | e :: es =>
    match sectorRuns es with
    | (f :: fs) :: rs => if e.1 / 16 = f.1 / 16 then (e :: f :: fs) :: rs else [e] :: (f :: fs) :: rs
    | rs => [e] :: rs

/-- Whether any of a run of bank bytes is poisoned. -/
def bankPoisoned (c : Cluster) (key n : Nat) : Bool := c.poison.any (fun a => decide (key ≤ a ∧ a < key + n))

/-! ## Pending stores (11 R223, R225) -/

/-- Whether a pending store holds a byte. -/
def Pending.holds (p : Pending) (cl : Option Nat) (a : Nat) : Bool :=
  decide (p.cluster = cl) && decide (p.pa ≤ a ∧ a < p.pa + p.data.length)

/-- A thread's latest pending value of a byte, if it has one (03 R66, 11 R223). -/
def pendingByte (ps : List Pending) (cl : Option Nat) (a : Nat) : Option Byte :=
  (ps.reverse.find? (fun p => p.holds cl a)).bind (fun p => p.data[a - p.pa]?)

/-- Makes a pending store an event. A bank that is no longer scratchpad takes no bytes. -/
def performPending (p : Pending) (s : State) : State :=
  match p.cluster with
  | none => leafStore p.pa p.data s
  | some cl => if bankModeOf (clusterAt s cl) (p.pa / 0x20000) = 1 then bankStore cl p.pa p.data s else s

/-- Whether two pending stores have a byte in common. -/
def Pending.meets (p q : Pending) : Bool :=
  decide (p.cluster = q.cluster) && decide (p.pa < q.pa + q.data.length ∧ q.pa < p.pa + p.data.length)

/-- Whether pending store `p` cannot come after the later store `q`: they write a byte in common, for lanes of one
instruction (00 R7), or both as STNTs of one thread (11 R225). -/
def Pending.leads (p q : Pending) : Bool :=
  p.meets q && (p.instr == q.instr || (!p.wc && !q.wc && p.who.any (fun k => q.who.contains k)))

/-- The pending stores, of a list in order of issue, that become events when those that `sel` picks do, and those that
stay, in front of others that have been so divided. -/
def splitOnto (sel : Pending → Bool) (ps : List Pending) (base : List Pending × List Pending) : List Pending × List Pending :=
  ps.foldr (fun p r => if sel p || r.1.any p.leads then (p :: r.1, r.2) else (r.1, p :: r.2)) base

/-- The pending stores of a list that become events when those that `sel` picks do, and those that stay. -/
def splitPending (sel : Pending → Bool) (ps : List Pending) : List Pending × List Pending := splitOnto sel ps ([], [])

/-- Makes the pending stores of a crew that `sel` picks events, oldest first. -/
def flushCrew (slot : Nat) (sel : Pending → Bool) (s : State) : State :=
  let r := splitPending sel (crewAt s slot).pend
  if r.1.isEmpty then s
  else r.1.foldl (fun s p => performPending p s) (modCrew slot (fun c => { c with pend := r.2 }) s)

/-- Makes the pending stores of some threads that `sel` picks events. -/
def flushWhere (slot : Nat) (ks : List Nat) (sel : Pending → Bool) (s : State) : State :=
  flushCrew slot (fun p => p.who.any (fun k => ks.contains k) && sel p) s

/-- What DRAIN does (03 R67). -/
def drainThreads (slot : Nat) (ks : List Nat) (s : State) : State := flushWhere slot ks (fun p => !p.wc) s

/-- What FENCE does (03 R68): the other accesses of this model are complete when they issue, or hold issue. -/
def fenceThreads (slot : Nat) (ks : List Nat) (s : State) : State := flushWhere slot ks (fun _ => true) s

/-- Pending stores of threads to a run of bytes become events, so that a later store of the thread leaves its own
value (03 R66). -/
def settleBytes (slot : Nat) (ks : List Nat) (cl : Option Nat) (a n : Nat) (s : State) : State :=
  flushWhere slot ks (fun p => decide (p.cluster = cl) && decide (p.pa < a + n ∧ a < p.pa + p.data.length)) s

/-- The pending stores of a thread, oldest first. -/
def pendOf (s : State) (slot k : Nat) : List Pending := (crewAt s slot).pend.filter (fun p => p.who.contains k)

/-- Adds a pending store. -/
def addPending (slot : Nat) (p : Pending) (s : State) : State :=
  modCrew slot (fun c => { c with pend := c.pend ++ [p] }) s

/-! ## One thread's load and store -/

/-- The bytes that a thread's load reads at a place, its own pending stores over what stands there. -/
def loadBytes (s : State) (slot k : Nat) (r : Reach) (size : Nat) : List Byte :=
  let ps := pendOf s slot k
  match r with
  | .mem pa l =>
    (List.range size).map (fun j => match pendingByte ps none (pa + j) with
      | some b => b
      | none => seenByte s l (pa + j))
  | .bank cl key =>
    (List.range size).map (fun j => match pendingByte ps (some cl) (key + j) with
      | some b => b
      | none => tgetD (clusterAt s cl).banks (key + j) 0)
  | .reg off _ =>
    if size = 8 then bytesOf 4 (windowRead s off).toNat ++ bytesOf 4 (windowRead s (off + 4)).toNat
    else bytesOf size (windowRead s off).toNat
  | .port cl bank _ => bytesOf size (tgetD (clusterAt s cl).fifos bank []).length

/-- A load takes the poison with which a link returns its data (19 R358). -/
def takeSpoilt (r : Reach) (size : Nat) (s : State) : State :=
  match r with
  | .mem pa _ => takeReads pa size s
  | _ => s

/-- Whether a load would consume poison (03 R63, check 7). -/
def loadPoisoned (s : State) (slot k : Nat) (r : Reach) (size : Nat) : Bool :=
  let ps := pendOf s slot k
  match r with
  | .mem pa _ =>
    spoiltRead s pa size ||
      (!s.memPoison.isEmpty && (List.range size).any (fun j => s.memPoison.contains (pa + j) && (pendingByte ps none (pa + j)).isNone))
  | .bank cl key =>
    !(clusterAt s cl).poison.isEmpty && (List.range size).any (fun j =>
      (clusterAt s cl).poison.contains (key + j) && (pendingByte ps (some cl) (key + j)).isNone)
  | .reg _ _ => false
  | .port _ _ _ => false

/-- Whether an access is strongly ordered, by the type of its page (11 R224). -/
def Reach.strong (r : Reach) : Bool :=
  match r with
  | .mem _ l => l.type == 3
  | .reg _ l => l.type == 3
  | .bank _ _ => false
  | .port _ _ _ => false

/-- A strongly ordered access first does what FENCE does, for the threads that make it (11 R224). -/
def beforeAccess (slot : Nat) (ks : List Nat) (r : Reach) (s : State) : State :=
  if r.strong then fenceThreads slot ks s else s

/-- The store of threads at a place by the page's type (03 R65, R66, 11 R223 to R225): `nt` for STNT; `id` numbers the
instruction. D is set before it (10 R213). -/
def storeBytes (slot : Nat) (ks : List Nat) (id : Nat) (r : Reach) (nt : Bool) (bs : List Byte) (s : State) : State :=
  match r with
  | .mem pa l =>
    let s := openLeaf l pa bs.length s
    if l.type = 1 then addPending slot ⟨true, ks, id, none, pa, bs⟩ s
    else if nt && l.type == 0 then addPending slot ⟨false, ks, id, none, pa, bs⟩ s
    else leafStore pa bs (settleBytes slot ks none pa bs.length s)
  | .bank cl key =>
    if nt then addPending slot ⟨false, ks, id, some cl, key, bs⟩ s
    else bankStore cl key bs (settleBytes slot ks (some cl) key bs.length s)
  | .reg off l =>
    let s := markLeaf l 11 s
    if bs.length = 8 then
      windowStore (off + 4) (BitVec.ofNat 32 (ofBytes (bs.drop 4)))
        (windowStore off (BitVec.ofNat 32 (ofBytes (bs.take 4))) s)
    else windowStore off (BitVec.ofNat 32 (ofBytes bs)) s
  | .port _ _ _ => s

end Sys2Proof.Machine
end

