-- ==== Sys2Proof/Machine/Counted.lean ====
section
/-!
DEFINITION. Counted operations and scoreboard slots (01 R22, R23).
-/
namespace Sys2Proof.Machine

/-! ## Counted operations -/

/-- The count of a thread's slot (01 R22). -/
def slotCount (c : Crew) (k n : Nat) : Nat :=
  (c.ops.filter (fun o => o.slot == n && !o.done && o.members.contains k)).length

/-- Whether a slot of any of the threads stands at 15, so that an instruction that names it waits (01 R22). -/
def slotFull (s : State) (g : Group) (sb : BitVec 3) : Bool :=
  sb != 0 && g.keys.any (fun k => decide (15 ≤ slotCount (crewAt s g.slot) k sb.toNat))

/-- What a place holds. -/
def getPlace (c : Crew) (pl : Nat) : Word :=
  if pl < 32 then tgetD c.sregs pl 0 else rawReg c (pl / 256 - 1) (pl % 256)

/-- Sets what a place holds. -/
def setPlace (pl : Nat) (v : Word) (c : Crew) : Crew :=
  if pl < 32 then
    (if pl = 31 then c else { c with sregs := tput c.sregs pl v 0, sregPoison := sdel c.sregPoison pl })
  else setRaw (pl / 256 - 1) (pl % 256) v c

/-- A result of counted operation `op`, or of one that has held issue, is written to its place, so that an earlier result there
stands in doubt no longer (01 R21); over the results of operations that have returned unwaited, either value may stay (01 R23). -/
def landPlace (nonce : Nat) (op : Option Nat) (pl : Nat) (v : Word) (c : Crew) : Crew :=
  let w := keptWord nonce pl c v
  setPlace pl w (noteWrite pl v w (dropHazard op pl c))

/-- Writes the results of operation `id` to their places; over a place that another instruction wrote first, either value may stay
(01 R23). Answers the crew and, by place, the other value that a read may still give. -/
def returnWrites (nonce id : Nat) (clob : List Nat) : List (Nat × Word) → Crew → Crew × List (Nat × Word)
  | [], c => (c, [])
  | (pl, v) :: ws, c =>
    if clob.contains pl && !Config.freeBit nonce pl 3 then
      let r := returnWrites nonce id clob ws c
      (r.1, (pl, v) :: r.2)
    else
      let other := if keptWord nonce pl c v = v then getPlace c pl else v
      let r := returnWrites nonce id clob ws (landPlace nonce (some id) pl v c)
      (r.1, (pl, other) :: r.2)

/-- Operations that nothing can ask about any more are forgotten. -/
def pruneOps (c : Crew) : Crew := { c with ops := c.ops.filter (fun o => !(o.done && o.unwaited.isEmpty)) }

/-- What a source register gives that an operation reads late: what it held at issue, or, when another instruction has
written it since, either value (01 R23). -/
def lateWord (nonce : Nat) (c : Crew) (clob : List Nat) (e : Nat × Word) : Word :=
  if clob.contains e.1 && Config.freeBit nonce e.1 5 then getPlace c e.1 else e.2

/-- The bytes of a store of a size from its source words. -/
def sourceBytes (size : Nat) (ws : List Word) : List Byte := (ws.flatMap (fun w => bytesOf 4 w.toNat)).take size

/-- The words of a run of bytes, four to a word. -/
def wordsOfBytes : List Byte → List Word
  | b0 :: b1 :: b2 :: b3 :: bs => wordOfBytes b0 b1 b2 b3 :: wordsOfBytes bs
  | _ => []

/-- The words that a load of a size gives (03 R61). -/
def loadedWords (size : Nat) (signed : Bool) (bs : List Byte) : List Word :=
  if size = 1 then [if signed then (BitVec.ofNat 8 (ofBytes bs)).signExtend 32 else BitVec.ofNat 32 (ofBytes bs)]
  else if size = 2 then [if signed then (BitVec.ofNat 16 (ofBytes bs)).signExtend 32 else BitVec.ofNat 32 (ofBytes bs)]
  else wordsOfBytes bs

/-- Places in turn take words, which repeat. -/
def fillPlaces (dest : List Nat) (ws : List Word) : List (Nat × Word) :=
  (dest.zipIdx).map (fun e => (e.1, ws.getD (e.2 % ws.length) 0))

/-- Adds results to a counted operation that has not completed. -/
def opWrites (slot id : Nat) (ws : List (Nat × Word)) (s : State) : State :=
  modCrew slot (fun c =>
    { c with ops := c.ops.map (fun o => if o.id = id && !o.done then { o with writes := o.writes ++ ws } else o) }) s

/-- Threads leave a counted operation. -/
def leaveOp (slot id : Nat) (ks : List Nat) (s : State) : State :=
  modCrew slot (fun c =>
    { c with ops := c.ops.map (fun o =>
        if o.id = id then { o with members := o.members.filter (fun k => !ks.contains k),
                                   unwaited := o.unwaited.filter (fun k => !ks.contains k) } else o) }) s

/-- Whether some access of instruction `id` of a crew has still to take place for a thread below `k`: at a port, or behind one
(00 R7). -/
def fifoBehind (s : State) (crew id k : Nat) : Bool :=
  s.clusters.any (fun e => e.2.fifoReqs.any (fun r => r.crew == crew && r.instr == id && decide (r.who.headD 0 < k))) ||
    (crewAt s crew).ops.any (fun o => o.late.any (fun l => l.instr == id && decide (l.who.headD 0 < k)))

/-- How a late access uses memory. -/
def LateAccess.use (l : LateAccess) : Use :=
  match l.act with
  | .put _ _ => .store
  | .get _ _ => .load

/-- What a late access reaches, as found at its issue; or, where its turn comes only now, by the checks of 03 R63, which the modes
and the translations of now decide (10 R202, R214). -/
def lateReach (s : State) (slot : Nat) (l : LateAccess) : (Trap ⊕ Reach) × State :=
  match l.reach with
  | some r => (.inr r, s)
  | none => reach s slot l.va l.size l.use (runsSystem (crewAt s slot))

/-- An access waits at its port. -/
def fifoWait (cl : Nat) (r : FifoReq) (s : State) : State :=
  modCluster cl (fun c => { c with fifoReqs := c.fifoReqs ++ [r] }) s

/-- A late access of an operation takes place at what it reaches; answers what it fails of. One that has come to be a push or a pop
waits at the port. -/
def performAt (slot : Nat) (o : Op) (l : LateAccess) (r : Reach) (s : State) : Option Trap × State :=
  let t := beforeAccess slot l.who r s
  match l.act with
  | .put nt regs => (none, match r with
    | .port cl bank _ => fifoWait cl ⟨slot, l.who, l.instr, o.id, bank, true, l.size, regs, [], l.va, o.pc⟩ s
    | _ => storeBytes slot l.who l.instr r nt (sourceBytes l.size (regs.map (lateWord t.nonce (crewAt t slot) o.clobbered))) t)
  | .get signed dest => (match r with
    | .port cl bank 64 => (none, fifoWait cl ⟨slot, l.who, l.instr, o.id, bank, false, l.size, [], dest, l.va, o.pc⟩ s)
    | _ =>
      if loadPoisoned s slot (l.who.headD 0) r l.size then (some (trapVa 0x0B l.va), takeSpoilt r l.size s)
      else
        (none, opWrites slot o.id (fillPlaces dest (loadedWords l.size signed (loadBytes t slot (l.who.headD 0) r l.size))) t))

/-- Late accesses of an operation, one after another: the state, what threads fail of, and whether one was strongly ordered. -/
structure LateRun where
  state : State
  fails : List (Nat × Trap)
  strong : Bool

/-- A late access of an operation takes place. -/
def performLate (slot : Nat) (o : Op) (p : LateRun) (l : LateAccess) : LateRun :=
  match lateReach p.state slot l with
  | (.inl t, s) => { p with state := s, fails := p.fails ++ l.who.map (fun k => (k, t)) }
  | (.inr r, s) =>
    let x := performAt slot o l r s
    ⟨x.2, p.fails ++ x.1.toList.flatMap (fun t => l.who.map (fun k => (k, t))), p.strong || r.strong⟩

/-- The late accesses of an operation take place. -/
def performLates (slot : Nat) (o : Op) (s : State) : LateRun :=
  o.late.foldl (performLate slot o) ⟨{ s with nonce := s.nonce + 8 }, [], false⟩

/-- The operation of a crew with a number, while it has not completed. -/
def standingOp (c : Crew) (id : Nat) : Option Op := c.ops.find? (fun o => o.id == id && !o.done)

/-- An operation returns: its results are written, and its slot's count falls (01 R22). -/
def returnOp (slot id : Nat) (s : State) : State :=
  match standingOp (crewAt s slot) id with
  | none => s
  | some o =>
    modCrew slot (fun c =>
      let r := returnWrites s.nonce o.id o.clobbered o.writes { c with cover := [] }
      pruneOps { r.1 with ops := r.1.ops.map (fun x =>
        if x.id = id then { x with done := true, late := [], olds := r.2,
                                   unwaited := if x.slot = 0 then [] else x.unwaited }
        else x) }) { s with nonce := s.nonce + 8 }

/-- Whether an operation has an access that stands behind a port access of its instruction. -/
def lateWaits (s : State) (slot : Nat) (o : Op) : Bool :=
  o.late.any (fun l => l.reach.isNone && fifoBehind s slot l.instr (l.who.headD 0))

/-- Whether an operation is not yet to return: an access of it waits at a port or behind one, an atomic of it is on its way, or an
update of it has not been accepted. -/
def opPending (s : State) (slot : Nat) (o : Op) : Bool :=
  portWaits s o.id || opFlying s o.id || s.updates.any (fun u => u.op == o.id) || lateWaits s slot o

/-- The late accesses of an operation have taken place: it returns where `back` says so, and where no port access of it waits. -/
def endLate (slot id : Nat) (back : Bool) (s : State) : State :=
  if back && !(portWaits s id) then returnOp slot id s
  else modCrew slot (fun c => { c with ops := c.ops.map (fun x => if x.id = id then { x with late := [] } else x) }) s

/-- The late accesses of an operation take place, and the threads that fail leave it. It returns where `all` says so, and when it
loads nothing or a strongly ordered access holds it (11 R224). Answers what threads fail of. -/
def runLate (slot : Nat) (all : Bool) (o : Op) (s : State) : State × List (Nat × Trap) :=
  let r := performLates slot o s
  (endLate slot o.id (all || o.dests.isEmpty || r.strong) (leaveOp slot o.id (r.fails.map (·.1)) r.state), r.fails)

/-- An operation completes, when it can: its accesses that are still to be made take place, and it returns. -/
def completeOp (slot id : Nat) (s : State) : State :=
  match standingOp (crewAt s slot) id with
  | none => s
  | some o =>
    if opPending s slot o then s
    else
      let r := runLate slot true o s
      takeFault slot o.pc r.2 r.1

/-- Whether two operations are those of one instruction whose accesses stand behind a port access of it. -/
def lateMates (o x : Op) : Bool :=
  x.id == o.id || x.late.any (fun l => l.reach.isNone && o.late.any (fun m => m.reach.isNone && m.instr == l.instr))

/-- The late accesses of the operation with a number take place, when there are any and none goes before them. -/
def lateOne (slot : Nat) (p : State × List (Nat × Trap)) (x : Op) : State × List (Nat × Trap) :=
  match standingOp (crewAt p.1 slot) x.id with
  | none => p
  | some o =>
    if o.late.isEmpty || lateWaits p.1 slot o then p
    else
      let r := runLate slot false o p.1
      (r.1, p.2 ++ r.2)

/-- The accesses of an operation that are still to be made take place, once none goes before them; with them those of the higher
lanes of its instruction that stood behind the same one, so that threads which fail alike share a record (17 R336; those behind a
further port access fail when their turn comes, log entry 21). -/
def lateOp (slot id : Nat) (s : State) : State :=
  match standingOp (crewAt s slot) id with
  | none => s
  | some o =>
    let r := ((crewAt s slot).ops.filter (lateMates o)).foldl (lateOne slot) (s, [])
    takeFault slot o.pc r.2 r.1

/-- Adds a counted operation; answers its number. -/
def addOp (slot : Nat) (o : Op) (s : State) : State × Nat :=
  (modCrew slot (fun c => { c with ops := c.ops ++ [{ o with id := s.uid }] }) { s with uid := s.uid + 1 }, s.uid)

/-- A counted operation of a group's instruction, not yet complete. -/
def newOp (s : State) (g : Group) (i : Instr) (sb : BitVec 3) (load : Bool) (ks : List Nat) (ws : List (Nat × Word)) : Op :=
  { id := 0, slot := sb.toNat, pc := g.pc, load := load, issued := s.clock, members := ks,
    srcs := ks.flatMap (readPlaces i), dests := ks.flatMap (writePlaces i), writes := ws, olds := [], clobbered := [], late := [], fails := [],
    watched := assayOn (crewAt s g.slot) g.lead, done := false, unwaited := ks }

/-- Thread `k` has waited its slots in `mask` (bit 0 for slot 1) to 0: its operations on them stand open no longer
(01 R23). -/
def waitedSlots (slot k mask : Nat) (s : State) : State :=
  modCrew slot (fun c =>
    pruneOps { c with ops := c.ops.map (fun o =>
      if o.slot ≠ 0 ∧ bitAt mask (o.slot - 1) then { o with unwaited := o.unwaited.filter (· != k) } else o) }) s

/-- Whether every slot in `mask` of thread `k` has count 0. -/
def slotsClear (c : Crew) (k mask : Nat) : Bool :=
  (List.range 6).all (fun n => !bitAt mask n || slotCount c k (n + 1) == 0)

end Sys2Proof.Machine
end

