-- ==== Sys2Proof/Machine/Fetch.lean ====
section
/-!
DEFINITION. Fetching and framing a clause (01 R17 to R19, 02 R28 to R31, 17 R332).
-/
namespace Sys2Proof.Machine

/-! ## Framing (02 R29 to R31) -/

/-- N of a clause header. -/
def headerCount (h : Nat) : Nat := bits h 3 0

/-- CLASS of a clause header. -/
def headerClass (h : Nat) : Nat := bits h 6 4

/-- WAIT of a clause header, bit 0 for slot 1. -/
def headerWait (h : Nat) : Nat := bits h 13 8

/-- Whether a class admits a major (02 R30); majors that are not assigned are not checked (02 R31). -/
def admits (cls m : Nat) : Bool :=
  decide (m < 0x3C) || decide (0x60 ≤ m ∧ m < 0x78) || decide (0x4D ≤ m ∧ m < 0x50) || decide (0x7E ≤ m) ||
    (cls == 1 && decide (m < 0x60)) || (cls == 2 && decide (0x78 ≤ m ∧ m < 0x7D)) || (cls == 3 && m == 0x7D)

/-- The majors that may only end a clause: BRA, CALL, JMPR, RET, EXIT. -/
def endsClause (m : Nat) : Bool := decide (0x60 ≤ m ∧ m ≤ 0x63) || m == 0x66

/-- Whether the instruction words of a clause pass the framing check. -/
def framesWords (cls : Nat) : List Word → Bool
  | [] => true
  | [w] => admits cls (majorOf w) && !twoWords (majorOf w)
  | w :: x :: ws =>
    admits cls (majorOf w) &&
      (if twoWords (majorOf w) then framesWords cls ws else !endsClause (majorOf w) && framesWords cls (x :: ws))

/-- The framing check (02 R31). -/
def frames (header : Word) (ws : List Word) : Bool :=
  let h := header.toNat
  bits h 31 28 == 0xE && bits h 27 14 == 0 && decide (1 ≤ headerCount h) && decide (headerClass h ≤ 3) &&
    framesWords (headerClass h) ws

/-! ## Translation -/

/-- What a fetch finds at an address: a leaf, a window of cluster SRAM, or no valid translation, with RETRY. -/
inductive FetchPage where
  | leaf (l : Leaf)
  | window
  | absent (retry : Bool)
  deriving DecidableEq, Repr, Inhabited

/-- The page of an address, for a fetch by a crew (01 R18, 10 R203). The FIFO port block counts as a window, so that a fetch
from it raises 0x08: 10 R204 gives 0x06 for its other accesses and does not name fetches (log entry 67). -/
def fetchPage (s : State) (slot va : Nat) : FetchPage :=
  if 2 ^ 52 ≤ va then .absent false
  else if inRegion va then
    match windowOf s slot va with
    | some (cl, o) =>
      if inPorts (clusterAt s cl) o || decide (o + 4 ≤ scratchSize (clusterAt s cl)) then .window else .absent false
    | none => .absent false
  else
    match translate s (crewAt s slot).ctx va with
    | some l => .leaf l
    | none => .absent true

/-- The state with the leaf of an address cached (10 R213). -/
def fetchCaches (slot : Nat) (s : State) (va : Nat) : State :=
  match fetchPage s slot va with
  | .leaf l => cacheLeaf (crewAt s slot).ctx va l s
  | _ => s

/-- Old words at a physical address that the fetches of a context may still use: those that it has not discarded, and
those that every thread of the group still holds (01 R19). -/
def oldWords (s : State) (g : Group) (ctx pa : Nat) : List Word :=
  let held := g.keys.filterMap (fun k => (threadAt (crewAt s g.slot) k).bind (fun t => tget t.stale pa))
  ((tgetD s.shadow pa []).filter (fun w => !w.2.contains ctx)).map (·.1) ++
    (match held with
      | w :: _ => if held.length = g.keys.length ∧ held.all (fun x => x == w) then [w] else []
      | [] => [])

/-- Picks an old word or the new one, by free choices. -/
def pickWord (s : State) (pa : Nat) (new : Word) : List Word → Nat → Word
  | [], _ => new
  | w :: ws, n => if Config.freeBit s.nonce pa (16 + n) then w else pickWord s pa new ws (n + 1)

/-- The word that a fetch reads at an address. -/
def fetchWord (s : State) (g : Group) (va : Nat) : Word :=
  match fetchPage s g.slot va with
  | .leaf l =>
    let pa := l.target va
    if backed s pa then pickWord s pa (seenWord s l pa) (oldWords s g (crewAt s g.slot).ctx pa) 0
    else windowRead s (pa - windowBase)
  | _ => 0

/-! ## The checks of a fetch, in order -/

/-- Whether the last of a clause's words is a two-word instruction, whose literal word comes after them. -/
def literalBeyond : List Word → Bool
  | [] => false
  | [w] => twoWords (majorOf w)
  | w :: x :: ws => if twoWords (majorOf w) then literalBeyond ws else literalBeyond (x :: ws)

/-- The addresses of a clause's words, its header first, and of the literal word of a two-word instruction that is the last of
them (01 R18). The count is read from the header's N field. -/
def clauseWords (s : State) (g : Group) : List Nat :=
  match fetchPage s g.slot g.pc with
  | .leaf _ =>
    let n := headerCount (fetchWord s g g.pc).toNat
    let vas := (List.range (n + 1)).map (fun j => g.pc + 4 * j)
    if literalBeyond ((vas.drop 1).map (fetchWord s g)) then vas ++ [g.pc + 4 * (n + 1)] else vas
  | _ => [g.pc]

/-- Translation: 0x06 at the lowest word with no valid translation. -/
def absentTrap (s : State) (slot : Nat) (vas : List Nat) : Option Trap :=
  vas.findSome? (fun va => match fetchPage s slot va with
    | .absent r => some ⟨0x06, va, 0, 0, r⟩
    | _ => none)

/-- Form: 0x0A at the first word on a page whose leaf has a reserved transform or combination (10 R212), after the translations, as
in 03 R63; 01 R18 does not place it among the checks of a fetch (log entry 67). -/
def fetchForm (s : State) (slot : Nat) (vas : List Nat) : Option Trap :=
  vas.findSome? (fun va => match fetchPage s slot va with
    | .leaf l => if l.badForm then some (trapVa 0x0A va) else none
    | _ => none)

/-- Execution: 0x08 at the first word on a page that is not executable. -/
def noExecTrap (s : State) (slot : Nat) (vas : List Nat) : Option Trap :=
  vas.findSome? (fun va => match fetchPage s slot va with
    | .leaf l => if l.executable then none else some (trapVa 0x08 va)
    | _ => some (trapVa 0x08 va))

/-- Corrupted data: 0x0B at the first poisoned word (17 R335; log entry 31). -/
def fetchPoison (s : State) (slot : Nat) (vas : List Nat) : Option Trap :=
  vas.findSome? (fun va => match fetchPage s slot va with
    | .leaf l => if memPoisoned s (l.target va) 4 || spoiltRead s (l.target va) 4 then some (trapVa 0x0B va) else none
    | _ => none)

/-- 0x07 at the first word on a system-only page, for a thread that does not run system code (17 R332). -/
def systemTrap (s : State) (slot : Nat) (vas : List Nat) : Option Trap :=
  if runsSystem (crewAt s slot) then none
  else vas.findSome? (fun va => match fetchPage s slot va with
    | .leaf l => if l.system then some ⟨0x07, va, 0, 0, l.cow⟩ else none
    | _ => none)

/-- The words of a clause have been read: what a link has corrupted of them is read anew (19 R358). -/
def takeFetch (slot : Nat) (vas : List Nat) (s : State) : State :=
  vas.foldl (fun st va => match fetchPage s slot va with
    | .leaf l => takeReads (l.target va) 4 st
    | _ => st) s

/-- The checks of a fetch (01 R18, 02 R31, 10 R212, 17 R332): a trap, or the clause. -/
def fetchClause (s : State) (g : Group) : Trap ⊕ Clause :=
  let vas := clauseWords s g
  let header := fetchWord s g g.pc
  let ws := ((vas.drop 1).take (headerCount header.toNat)).map (fetchWord s g)
  match absentTrap s g.slot vas with
  | some t => .inl t
  | none => match (fetchForm s g.slot vas).or (noExecTrap s g.slot vas) with
    | some t => .inl t
    | none => match fetchPoison s g.slot vas with
      | some t => .inl t
      | none =>
        if !(g.pc % 4 == 0 && frames header ws) then .inl (trapC 0x02)
        else match systemTrap s g.slot vas with
          | some t => .inl t
          | none => .inr { header := g.pc, words := ws, wait := headerWait header.toNat, waited := false }

/-- A group at the start of a clause fetches it. A trap parks every thread of the group with its PC at the header. -/
def fetchGroup (g : Group) (s : State) : State :=
  let s := (clauseWords s g).foldl (fetchCaches g.slot) { s with nonce := s.nonce + 8 }
  match fetchClause s g with
  | .inl t => takeFault g.slot g.pc (g.keys.map (fun k => (k, t)))
      (modGroup g (fun t => { t with clause := none }) (if t.cause = 0x0B then takeFetch g.slot (clauseWords s g) s else s))
  | .inr cl =>
    modGroup g (fun t => { t with clause := some cl, pc := nextPc cl.header 1 }) s

/-- Whether a group stands at the start of a clause. -/
def wantsClause (s : State) (g : Group) : Bool :=
  match threadAt (crewAt s g.slot) g.lead with
  | some t => (liveClause t).isNone && t.run == .running
  | none => false

/-- CLAUSE_FETCH (01 R17, R18). The group in focus, at the start of a clause, fetches, checks and frames it. -/
def execClauseFetch (s : State) : Host.Outcome State Fault Refusal :=
  match focusGroup s with
  | some g => .next (if wantsClause s g then fetchGroup g s else s)
  | none => .fault .noIssuer

end Sys2Proof.Machine
end

