-- ==== Sys2Proof/Machine/Fp.lean ====
section
/-!
DEFINITION. Number formats and rounding (04 R75 to R86): exact values as an integer times a power of two, one rounding to
a format, and the exact operations that the instructions, the atomics and the engines share. Rounding modes are numbered
as RM of FPCTL: 0 nearest even, 1 toward zero, 2 up, 3 down.
-/
namespace Sys2Proof.Machine

/-- How a format encodes infinities and NaNs (04 R77): as IEEE 754, NaN alone at all ones (E4M3), or neither. -/
inductive Specials where
  | ieee
  | nanOnly
  | none
  deriving DecidableEq, Repr, Inhabited

/-- The layout of a floating-point format (04 R77): exponent bits, fraction bits and bias. -/
structure FpFmt where
  ebits : Nat
  mbits : Nat
  bias : Nat
  specials : Specials
  deriving DecidableEq, Repr, Inhabited

/-- FP64. -/
def fp64 : FpFmt := ⟨11, 52, 1023, .ieee⟩
/-- FP32. -/
def fp32 : FpFmt := ⟨8, 23, 127, .ieee⟩
/-- FP16. -/
def fp16 : FpFmt := ⟨5, 10, 15, .ieee⟩
/-- BF16. -/
def bf16 : FpFmt := ⟨8, 7, 127, .ieee⟩
/-- E4M3. -/
def e4m3 : FpFmt := ⟨4, 3, 7, .nanOnly⟩
/-- E5M2. -/
def e5m2 : FpFmt := ⟨5, 2, 15, .ieee⟩
/-- E2M3. -/
def e2m3 : FpFmt := ⟨2, 3, 1, .none⟩
/-- E3M2. -/
def e3m2 : FpFmt := ⟨3, 2, 3, .none⟩
/-- E2M1. -/
def e2m1 : FpFmt := ⟨2, 1, 1, .none⟩

/-- A value: a NaN, an infinity, or (−1)^neg × m × 2^e, where m = 0 is a signed zero. -/
inductive FpVal where
  | nan (signalling : Bool)
  | inf (neg : Bool)
  | fin (neg : Bool) (m : Nat) (e : Int)
  deriving DecidableEq, Repr, Inhabited

/-- The bits above the fraction and exponent fields: the sign's place. -/
def FpFmt.signBit (f : FpFmt) : Nat := 2 ^ (f.ebits + f.mbits)

/-- The exponent of the unit in the last place of subnormal values. -/
def FpFmt.emin (f : FpFmt) : Int := 1 - (f.bias : Int) - (f.mbits : Int)

/-- The value of an encoding (04 R77, R78). -/
def FpFmt.value (f : FpFmt) (x : Nat) : FpVal :=
  let neg := (x / f.signBit) % 2 == 1
  let e := x / 2 ^ f.mbits % 2 ^ f.ebits
  let m := x % 2 ^ f.mbits
  let top := e == 2 ^ f.ebits - 1
  match f.specials with
  | .ieee =>
    if top then (if m = 0 then .inf neg else .nan (decide (m < 2 ^ (f.mbits - 1))))
    else if e = 0 then .fin neg m f.emin else .fin neg (2 ^ f.mbits + m) (f.emin + ((e : Int) - 1))
  | .nanOnly =>
    if top && m == 2 ^ f.mbits - 1 then .nan false
    else if e = 0 then .fin neg m f.emin else .fin neg (2 ^ f.mbits + m) (f.emin + ((e : Int) - 1))
  | .none =>
    if e = 0 then .fin neg m f.emin else .fin neg (2 ^ f.mbits + m) (f.emin + ((e : Int) - 1))

/-- The largest finite magnitude's encoding (04 R77). -/
def FpFmt.maxFinite (f : FpFmt) : Nat :=
  match f.specials with
  | .ieee => (2 ^ f.ebits - 1) * 2 ^ f.mbits - 1
  | .nanOnly => 2 ^ (f.ebits + f.mbits) - 2
  | .none => 2 ^ (f.ebits + f.mbits) - 1

/-- The canonical NaN, positive (04 R77). -/
def FpFmt.nan (f : FpFmt) : Nat :=
  match f.specials with
  | .ieee => (2 ^ f.ebits - 1) * 2 ^ f.mbits + 2 ^ (f.mbits - 1)
  | .nanOnly => 2 ^ (f.ebits + f.mbits) - 1
  | .none => 0

/-- The sign's contribution to an encoding. -/
def FpFmt.signed (f : FpFmt) (neg : Bool) (x : Nat) : Nat := if neg then x + f.signBit else x

/-- An infinity of a format; in a format without infinities, the canonical NaN with the sign (04 R84). With the saturation
option, the largest finite value. -/
def FpFmt.infinity (f : FpFmt) (sat neg : Bool) : Nat :=
  f.signed neg (if sat then f.maxFinite else
    match f.specials with
    | .ieee => (2 ^ f.ebits - 1) * 2 ^ f.mbits
    | .nanOnly => f.nan
    | .none => f.maxFinite)

/-- Whether a magnitude r + rest rounds away from zero: `half` compares the rest with one half (0 below, 1 equal, 2
above), `inexact` says that there is a rest. -/
def roundsUp (mode : Nat) (neg : Bool) (odd : Bool) (half : Nat) (inexact : Bool) : Bool :=
  match mode with
  | 0 => decide (half = 2) || (decide (half = 1) && odd)
  | 1 => false
  | 2 => inexact && !neg
  | _ => inexact && neg

/-- m × 2^−sh rounded to an integer; `sticky` says that the exact magnitude lies strictly between m and m + 1 units.
Answers whether anything was lost. -/
def roundShift (mode : Nat) (neg : Bool) (m sh : Nat) (sticky : Bool) : Nat × Bool :=
  let r := m >>> sh
  let rem := m % 2 ^ sh
  let inexact := decide (rem ≠ 0) || sticky
  let h := if sh = 0 then 0
    else if rem < 2 ^ (sh - 1) then 0 else if rem = 2 ^ (sh - 1) ∧ sticky = false then 1 else 2
  (if roundsUp mode neg (r % 2 == 1) h inexact then r + 1 else r, inexact)

/-- Rounds m × 2^e (and a little more when sticky) so that the last place is 2^q. Answers the integer and whether
anything was lost. -/
def roundAt (mode : Nat) (neg : Bool) (m : Nat) (e q : Int) (sticky : Bool) : Nat × Bool :=
  if e < q then roundShift mode neg m (q - e).toNat sticky
  else roundShift mode neg (m <<< (e - q).toNat) 0 sticky

/-- Bits of a number: 0 for 0. -/
def bitLen (m : Nat) : Nat := if m = 0 then 0 else m.log2 + 1

/-- One rounding of (−1)^neg × m × 2^e to a format (04 R84, R86): the encoding and the conditions OF, UF and NX. -/
def FpFmt.round (f : FpFmt) (mode : Nat) (sat neg : Bool) (m : Nat) (e : Int) (sticky : Bool) : Nat × FpFlags :=
  if m = 0 ∧ sticky = false then (f.signed neg 0, .none)
  else
    let q := e + (bitLen m : Int) - 1 - (f.mbits : Int)
    let free := roundAt mode neg m e q sticky
    let r := roundAt mode neg m e (if q < f.emin then f.emin else q) sticky
    let enc := ((if q < f.emin then f.emin else q) - f.emin).toNat * 2 ^ f.mbits + r.1
    let tiny := decide (q < f.emin ∧ ¬ (q + 1 = f.emin ∧ free.1 = 2 ^ (f.mbits + 1)))
    if f.maxFinite < enc then
      let away := match mode with
        | 0 => true
        | 1 => false
        | 2 => !neg
        | _ => neg
      (if away then f.infinity sat neg else f.signed neg f.maxFinite, ⟨false, false, true, false, true⟩)
    else (f.signed neg enc, ⟨false, false, false, tiny && r.2, r.2⟩)

/-- A NaN result, with NV when an operand was signalling or the operation is invalid (04 R85, R86). -/
def FpFmt.nanResult (f : FpFmt) (nv : Bool) : Nat × FpFlags := (f.nan, { FpFlags.none with nv := nv })

/-- Whether a value is a signalling NaN. -/
def FpVal.isSignalling : FpVal → Bool
  | .nan s => s
  | _ => false

/-- Whether a value is a NaN. -/
def FpVal.isNan : FpVal → Bool
  | .nan _ => true
  | _ => false

/-- The value negated; a NaN stays. -/
def FpVal.neg : FpVal → FpVal
  | .nan s => .nan s
  | .inf n => .inf (!n)
  | .fin n m e => .fin (!n) m e

/-- A finite value's signed integer in units of 2^e0, e0 at most its exponent. -/
def signedUnits (neg : Bool) (m : Nat) (e e0 : Int) : Int :=
  let x : Int := ((m <<< (e - e0).toNat : Nat) : Int)
  if neg then -x else x

/-- The exact sum of two finite values, as a signed integer and its unit. -/
def exactSum (n1 : Bool) (m1 : Nat) (e1 : Int) (n2 : Bool) (m2 : Nat) (e2 : Int) : Int × Int :=
  let e0 := if e1 < e2 then e1 else e2
  (signedUnits n1 m1 e1 e0 + signedUnits n2 m2 e2 e0, e0)

/-- The sign of an exact zero sum (04 R84). -/
def zeroSumNeg (mode : Nat) (n1 n2 : Bool) : Bool := if n1 == n2 then n1 else mode == 3

/-- The sum of two values rounded to a format. -/
def FpFmt.addVal (f : FpFmt) (mode : Nat) (x y : FpVal) : Nat × FpFlags :=
  if x.isNan || y.isNan then f.nanResult (x.isSignalling || y.isSignalling)
  else
    match x, y with
    | .inf a, .inf b => if a == b then (f.infinity false a, .none) else f.nanResult true
    | .inf a, _ => (f.infinity false a, .none)
    | _, .inf b => (f.infinity false b, .none)
    | .fin n1 m1 e1, .fin n2 m2 e2 =>
      let s := exactSum n1 m1 e1 n2 m2 e2
      if s.1 = 0 then (f.signed (zeroSumNeg mode n1 n2) 0, .none)
      else f.round mode false (decide (s.1 < 0)) s.1.natAbs s.2 false
    | _, _ => f.nanResult false

/-- The exact product of two values; NaN for an invalid product. -/
def mulVal (x y : FpVal) : FpVal :=
  match x, y with
  | .nan _, _ => .nan false
  | _, .nan _ => .nan false
  | .inf a, .inf b => .inf (a ^^ b)
  | .inf a, .fin n m _ => if m = 0 then .nan false else .inf (a ^^ n)
  | .fin n m _, .inf b => if m = 0 then .nan false else .inf (n ^^ b)
  | .fin n1 m1 e1, .fin n2 m2 e2 => .fin (n1 ^^ n2) (m1 * m2) (e1 + e2)

/-- Whether a product is 0 × ∞ (04 R86). -/
def mulInvalid (x y : FpVal) : Bool :=
  match x, y with
  | .inf _, .fin _ m _ => m == 0
  | .fin _ m _, .inf _ => m == 0
  | _, _ => false

/-- A value delivered in a format, rounded; a NaN is canonical. An infinite value into E4M3 without SATF becomes the NaN with
its sign, without a flag: 04 R84 gives that NaN to an overflow, and R85 another to other results (log entry 61). -/
def FpFmt.deliver (f : FpFmt) (mode : Nat) (sat : Bool) (x : FpVal) : Nat × FpFlags :=
  match x with
  | .nan s => f.nanResult s
  | .inf n => (f.infinity sat n, .none)
  | .fin n m e => f.round mode sat n m e false

/-- A + B in a format (04 R88, R92, R97). -/
def FpFmt.add (f : FpFmt) (mode a b : Nat) : Nat × FpFlags := f.addVal mode (f.value a) (f.value b)

/-- A − B in a format. -/
def FpFmt.sub (f : FpFmt) (mode a b : Nat) : Nat × FpFlags := f.addVal mode (f.value a) (f.value b).neg

/-- A × B in a format. -/
def FpFmt.mul (f : FpFmt) (mode a b : Nat) : Nat × FpFlags :=
  let x := f.value a
  let y := f.value b
  if x.isNan || y.isNan then f.nanResult (x.isSignalling || y.isSignalling)
  else if mulInvalid x y then f.nanResult true
  else f.deliver mode false (mulVal x y)

/-- A × B + D with a single rounding. 0 × ∞ is invalid whatever the addend (04 R86). -/
def FpFmt.fma (f : FpFmt) (mode a b d : Nat) : Nat × FpFlags :=
  let x := f.value a
  let y := f.value b
  let z := f.value d
  if mulInvalid x y then f.nanResult true
  else if x.isNan || y.isNan || z.isNan then f.nanResult (x.isSignalling || y.isSignalling || z.isSignalling)
  else f.addVal mode (mulVal x y) z

/-- The order of two values; −0 and +0 are equal (04 R90). -/
def compareVal (x y : FpVal) : FpOrder :=
  match x, y with
  | .nan _, _ => .un
  | _, .nan _ => .un
  | .inf a, .inf b => if a == b then .eq else if a then .lt else .gt
  | .inf a, _ => if a then .lt else .gt
  | _, .inf b => if b then .gt else .lt
  | .fin n1 m1 e1, .fin n2 m2 e2 =>
    let s := (exactSum n1 m1 e1 (!n2) m2 e2).1
    if s < 0 then .lt else if s = 0 then .eq else .gt

/-- A compare with its flags (04 R90). -/
def FpFmt.compare (f : FpFmt) (cc a b : Nat) : Bool × FpFlags :=
  let x := f.value a
  let y := f.value b
  let nv := x.isSignalling || y.isSignalling || (fcmpOrdered cc && (x.isNan || y.isNan))
  (fcmpCond cc (compareVal x y), { FpFlags.none with nv := nv })

/-- Whether `x` is below `y` with −0 below +0 (04 R89). -/
def belowBits (f : FpFmt) (a b : Nat) : Bool :=
  match compareVal (f.value a) (f.value b) with
  | .lt => true
  | .eq => decide (b < a) && decide (f.signBit ≤ a)
  | _ => false

/-- minimumNumber and maximumNumber (04 R89): one of the operands, bit for bit. -/
def FpFmt.minMax (f : FpFmt) (greater : Bool) (a b : Nat) : Nat × FpFlags :=
  let x := f.value a
  let y := f.value b
  let fl := { FpFlags.none with nv := x.isSignalling || y.isSignalling }
  if x.isNan && y.isNan then (f.nan, fl)
  else if x.isNan then (b, fl)
  else if y.isNan then (a, fl)
  else if (if greater then belowBits f a b else belowBits f b a) then (b, fl)
  else (a, fl)

/-- The square root of `n` rounded down, by its bits from 2^k down. -/
def isqrtFrom (n : Nat) : Nat → Nat → Nat
  | 0, r => if (r + 1) * (r + 1) ≤ n then r + 1 else r
  | k + 1, r =>
    let t := r + 2 ^ (k + 1)
    isqrtFrom n k (if t * t ≤ n then t else r)

/-- The square root rounded down. -/
def isqrt (n : Nat) : Nat := isqrtFrom n (bitLen n / 2 + 1) 0

/-- The integer nearest a finite value in a rounding mode, as a magnitude, and whether anything was lost. -/
def toInteger (mode : Nat) (neg : Bool) (m : Nat) (e : Int) : Nat × Bool := roundAt mode neg m e 0 false

/-- The encoding of the integer sext(B, 7) in a format, exact in every format (04 R87). -/
def FpFmt.ofInt (f : FpFmt) (z : Int) : Nat :=
  if z = 0 then 0 else (f.round 0 false (decide (z < 0)) z.natAbs 0 false).1

end Sys2Proof.Machine
end

