-- ==== Sys2Proof/Machine/LoadStore.lean ====
section
/-!
DEFINITION. FIFO ports (10 R205), and the meanings of the loads,
stores, STNT, DRAIN, FENCE, PREF and CCTL (03 R61 to R70).
-/
namespace Sys2Proof.Machine

/-! ## FIFO ports (10 R205) -/

/-- Whether an access can be performed now. -/
def fifoReady (c : Cluster) (bank : Nat) (push : Bool) (size : Nat) : Bool :=
  let n := (tgetD c.fifos bank []).length
  if push then decide (n + size ≤ 131072) else decide (size ≤ n)

/-- Whether another access waits at the same port. -/
def fifoQueued (c : Cluster) (bank : Nat) (push : Bool) : Bool :=
  c.fifoReqs.any (fun r => r.bank == bank && r.push == push)

/-- Whether an access of a thread can be performed at once: it fits, and no other goes before it (10 R205). -/
def fifoNow (s : State) (crew id k cl bank : Nat) (push : Bool) (size : Nat) : Bool :=
  fifoReady (clusterAt s cl) bank push size && !fifoQueued (clusterAt s cl) bank push && !fifoBehind s crew id k

/-- A push: bytes appended. -/
def fifoPut (cl bank : Nat) (bs : List Byte) (s : State) : State :=
  modCluster cl (fun c => { c with fifos := tput c.fifos bank (tgetD c.fifos bank [] ++ bs) [] }) s

/-- The poisoned places of a FIFO after its oldest bytes have gone. -/
def marksAfter (size : Nat) (ms : List Nat) : List Nat := (ms.filter (fun m => decide (size ≤ m))).map (· - size)

/-- A pop: the oldest bytes, and the state without them. -/
def fifoTake (cl bank size : Nat) (s : State) : List Byte × State :=
  let q := tgetD (clusterAt s cl).fifos bank []
  (q.take size, modCluster cl (fun c =>
    { c with fifos := tput c.fifos bank (q.drop size) []
             fifoPoison := tput c.fifoPoison bank (marksAfter size (tgetD c.fifoPoison bank [])) [] }) s)

/-- Whether a pop would return a poisoned byte (17 R350): it fails check 7 of 03 R63, and takes nothing (log entry 69). -/
def fifoSpoilt (c : Cluster) (bank size : Nat) : Bool := (tgetD c.fifoPoison bank []).any (fun m => decide (m < size))

/-- What a FIFO request writes when its bytes have come: its places in turn take the words. -/
def fifoWrites (r : FifoReq) (bs : List Byte) : List (Nat × Word) := fillPlaces r.dest (wordsOfBytes bs)

/-- The bytes that a waiting push appends: of its source registers as it finds them now (01 R23). -/
def fifoBytes (s : State) (r : FifoReq) : List Byte :=
  let c := crewAt s r.crew
  let clob := ((c.ops.find? (fun o => o.id == r.op)).map (·.clobbered)).getD []
  sourceBytes r.size (r.regs.map (lateWord s.nonce c clob))

/-- Performs one waiting request, which is ready. -/
def fifoServe (cl : Nat) (r : FifoReq) (s : State) : State :=
  let s := modCluster cl (fun c => { c with fifoReqs := c.fifoReqs.filter (fun x => x.op != r.op) }) s
  if r.push then returnOp r.crew r.op (fifoPut cl r.bank (fifoBytes s r) s)
  else if fifoSpoilt (clusterAt s cl) r.bank r.size then
    returnOp r.crew r.op (leaveOp r.crew r.op r.who (takeFault r.crew r.pc (r.who.map (fun k => (k, trapVa 0x0B r.va))) s))
  else
    let t := fifoTake cl r.bank r.size s
    returnOp r.crew r.op (modCrew r.crew (fun c =>
      { c with ops := c.ops.map (fun o => if o.id = r.op then { o with writes := fifoWrites r t.1 } else o) }) t.2)

/-- The oldest request that waits at a port, if it can be performed. -/
def fifoNext (s : State) (push : Bool) (cl bank : Nat) : Option FifoReq :=
  ((clusterAt s cl).fifoReqs.find? (fun r => r.bank == bank && r.push == push)).filter (fun r =>
    fifoReady (clusterAt s cl) bank push r.size && !fifoBehind s r.crew r.instr (r.who.headD 0))

/-- Serves the oldest request that waits at a port, if it can be performed. -/
def fifoStep (push : Bool) (cl bank : Nat) (s : State) : State :=
  match fifoNext s push cl bank with
  | some r => fifoServe cl r s
  | none => s

/-! ## Loads -/

/-- The threads that receive what worker `k` loads. -/
def receivers (once : Bool) (g : Group) (k : Nat) : List Nat := if once then g.keys else [k]

/-- The places that a result of `n` words in D takes for some threads: once for a scalar D (01 R14). -/
def destPlaces (d : Sel) (n : Nat) (ks : List Nat) : List Nat :=
  (if isScalar d then ks.take 1 else ks).flatMap (fun k => (List.range n).map (fun j => place k (d.toNat + j)))

/-- Results by place: the words repeat for each receiving thread. -/
def placed (d : Sel) (ws : List Word) (ks : List Nat) : List (Nat × Word) := fillPlaces (destPlaces d ws.length ks) ws

/-- A pop by instruction `id`, for some threads: at once when it can be, else it waits in its turn with an operation of its own,
whose results are not known yet (10 R205). -/
def popPort (i : Instr) (d : Sel) (sb : BitVec 3) (g : Group) (id : Nat) (ks : List Nat) (cl bank size va : Nat) (s : State) :
    State × List (Nat × Word) :=
  if fifoNow s g.slot id (ks.headD 0) cl bank false size then
    let t := fifoTake cl bank size s
    (t.2, placed d (wordsOfBytes t.1) ks)
  else
    let r := addOp g.slot (newOp s g i sb true ks []) s
    (fifoWait cl ⟨g.slot, ks, id, r.2, bank, false, size, [], destPlaces d (size / 4) ks, va, g.pc⟩ r.1, [])

/-- Whether an access of thread `k` of a group stands behind one of a lower lane of the instruction that waits (00 R7). -/
def standsBehind (s : State) (g : Group) (id k : Nat) : Bool := decide (g.lead < k) && fifoBehind s g.slot id k

/-- An access that stands behind a port access of its instruction, with an operation of its own: its checks wait with it (00 R7). -/
def standBehind (i : Instr) (sb : BitVec 3) (g : Group) (l : LateAccess) (s : State) : State :=
  (addOp g.slot { newOp s g i sb true l.who [] with late := [l] } s).1

/-- The pending stores of a group's threads to bytes that one access loads for them all become events first, so that it gives each
of them what it has stored last (03 R66, 11 R223). -/
def settleShared (slot : Nat) (ks : List Nat) (r : Reach) (size : Nat) (s : State) : State :=
  match r with
  | .mem pa _ => settleBytes slot ks none pa size s
  | .bank cl key => settleBytes slot ks (some cl) key size s
  | .reg _ _ => s
  | .port _ _ _ => s

/-- The results of a load with a slot from a strongly ordered page: it has completed before the thread's next instruction issues
(11 R224), so they are written at once, and its operation stands open until its slot is waited for. -/
def landStrong (i : Instr) (sb : BitVec 3) (g : Group) (ks : List Nat) (ws : List (Nat × Word)) (s : State) : State :=
  let r := addOp g.slot (newOp s g i sb true ks ws) s
  returnOp g.slot r.2 r.1

/-- One worker's load, of instruction `id`: its checks in order (03 R63), then its value for the threads that receive it. -/
def loadOne (i : Instr) (d a : Sel) (off : BitVec 8) (sb : BitVec 3) (size : Nat) (signed once : Bool) (id : Nat) (g : Group)
    (k : Nat) (p : State × List (Nat × Word)) : Option Trap × State × List (Nat × Word) :=
  let s := p.1
  let va := addressM (reader s g k) a off size
  let ks := receivers once g k
  if standsBehind s g id k then
    (none, standBehind i sb g ⟨ks, id, none, va, size, .get signed (destPlaces d (max 1 (size / 4)) ks)⟩ s, p.2)
  else
  match reach s g.slot va size .load (runsSystem (crewAt s g.slot)) with
  | (.inl t, s) => (some t, s, p.2)
  | (.inr r, s) =>
    match r with
    | .port cl bank 64 =>
      if fifoNow s g.slot id (ks.headD 0) cl bank false size && fifoSpoilt (clusterAt s cl) bank size then
        (some (trapVa 0x0B va), s, p.2)
      else
      let q := popPort i d sb g id ks cl bank size va s
      (none, q.1, p.2 ++ q.2)
    | _ =>
      let s := if once then settleShared g.slot ks r size s else s
      if loadPoisoned s g.slot k r size then (some (trapVa 0x0B va), takeSpoilt r size s, p.2)
      else
        let s := beforeAccess g.slot ks r s
        let ws := placed d (loadedWords size signed (loadBytes s g.slot k r size)) ks
        if sb != 0 && r.strong then (none, landStrong i sb g ks ws s, p.2) else (none, s, p.2 ++ ws)

/-- Results are written at once. -/
def landResults (slot : Nat) (ws : List (Nat × Word)) (s : State) : State :=
  modCrew slot (fun c => ws.foldl (fun c w => landPlace s.nonce none w.1 w.2 c) { c with cover := [] }) s

/-- The threads of a group that have no operation numbered from `first` up. -/
def unboundKeys (c : Crew) (first : Nat) (ks : List Nat) : List Nat :=
  ks.filter (fun k => !(c.ops.any (fun o => decide (first ≤ o.id) && o.members.contains k)))

/-- Adds the counted operation of an instruction for some threads, when there are any. -/
def countOp (slot : Nat) (o : Op) (s : State) : State := if o.members.isEmpty then s else (addOp slot o s).1

/-- The end of a load or returning atomic: with a slot, the results wait for their return; with SB = 0, they are written
(01 R22). Threads whose pop waits have an operation already, numbered from `first` up. -/
def finishLoad (i : Instr) (sb : BitVec 3) (first : Nat) (ws : List (Nat × Word)) (g : Group) (s : State) : State :=
  advance i g (if sb = 0 then landResults g.slot ws s
    else countOp g.slot (newOp s g i sb true (unboundKeys (crewAt s g.slot) first g.keys) ws) s)

/-- A load (03 R61 to R64). -/
def loadOp (i : Instr) (d a : Sel) (off : BitVec 8) (sb : BitVec 3) (size : Nat) (signed : Bool) (s : State) :
    Host.Outcome State Fault Refusal :=
  issue i (fun g s =>
    if slotFull s g sb then wait .slots g s
    else
      let once := isScalar a
      let r := eachThread (loadOne i d a off sb size signed once s.nonce g) (workers once g) (s, [])
      proceed (finishLoad i sb s.uid r.2.2) (settle g (spread once g r.1) r.2.1)) s

/-! ## Stores -/

/-- The low bytes of consecutive registers. -/
def regBytes (rd : Reader) (d : Sel) (size : Nat) : List Byte :=
  if size < 4 then bytesOf size (rd d.toNat).toNat
  else (List.range (size / 4)).flatMap (fun j => bytesOf 4 (rd (d.toNat + j)).toNat)

/-- The source places of a store with what thread `k` reads there. -/
def sourceWords (rd : Reader) (d : Sel) (size k : Nat) : List (Nat × Word) :=
  (List.range (max 1 (size / 4))).map (fun j => (place k (d.toNat + j), rd (d.toNat + j)))

/-- A push by instruction `id`, for some threads, of whom `k` reads the source. -/
def pushPort (i : Instr) (d : Sel) (sb : BitVec 3) (g : Group) (id k : Nat) (ks : List Nat) (cl bank size va : Nat) (s : State) :
    State :=
  let rd := reader s g k
  if fifoNow s g.slot id k cl bank true size then fifoPut cl bank (regBytes rd d size) s
  else
    let r := addOp g.slot (newOp s g i sb true ks []) s
    fifoWait cl ⟨g.slot, ks, id, r.2, bank, true, size, sourceWords rd d size k, [], va, g.pc⟩ r.1

/-- Whether a store to what it reaches may take place after its issue: one to a normal or write-combining page, or scratchpad. A
device page takes it in order, and a strongly ordered one before the thread's next instruction (11 R222, R224). -/
def Reach.maySlip (r : Reach) : Bool :=
  match r with
  | .mem _ l => decide (l.type < 2)
  | .bank _ _ => true
  | .reg _ _ => false
  | .port _ _ _ => false

/-- Late stores of an instruction take place at once, when a higher lane of it makes an access that cannot slip (00 R7). -/
def performNow (slot : Nat) (ls : List LateAccess) (s : State) : State :=
  (ls.foldl (performLate slot { (default : Op) with id := s.uid }) ⟨s, [], false⟩).state

/-- One worker's store, of instruction `id`, for some threads. With a slot, while the machine's schedule lets atomics lag (log
entry 1), it reads its source registers later, where it may; the last component gathers such stores. -/
def storeOne (i : Instr) (d a : Sel) (off : BitVec 8) (sb : BitVec 3) (size : Nat) (nt once : Bool) (id : Nat) (g : Group)
    (k : Nat) (p : State × List LateAccess) : Option Trap × State × List LateAccess :=
  let s := p.1
  let rd := reader s g k
  let ks := receivers once g k
  let va := addressM rd a off size
  let late := fun (r : Option Reach) => (⟨ks, id, r, va, size, .put nt (sourceWords rd d size k)⟩ : LateAccess)
  if standsBehind s g id k then (none, standBehind i sb g (late none) s, p.2)
  else
  match reach s g.slot va size .store (runsSystem (crewAt s g.slot)) with
  | (.inl t, s) => (some t, s, p.2)
  | (.inr r, s) =>
    match r with
    | .port cl bank _ => (none, pushPort i d sb g id k ks cl bank size va (performNow g.slot p.2 s), [])
    | _ =>
      if s.lag && sb != 0 && r.maySlip then (none, s, p.2 ++ [late (some r)])
      else
        (none, storeBytes g.slot ks id r nt (regBytes rd d size) (beforeAccess g.slot ks r (performNow g.slot p.2 s)), [])

/-- The end of a store: when its source registers have been read its slot's count has fallen; with a slot, the operation
stands open until the slot is waited for (01 R22, R23). Threads whose push waits have an operation already, numbered from
`first` up. -/
def finishStore (i : Instr) (sb : BitVec 3) (first : Nat) (lates : List LateAccess) (g : Group) (s : State) : State :=
  advance i g (if sb = 0 then s
    else countOp g.slot { newOp s g i sb false (unboundKeys (crewAt s g.slot) first g.keys) [] with
      done := lates.isEmpty, late := lates } s)

/-- A store (03 R61 to R66); one access when A and D are both scalar. -/
def storeOp (i : Instr) (d a : Sel) (off : BitVec 8) (sb : BitVec 3) (size : Nat) (nt : Bool) (s : State) :
    Host.Outcome State Fault Refusal :=
  issue i (fun g s =>
    if slotFull s g sb then wait .slots g s
    else
      let once := isScalar a && isScalar d
      let r := eachThread (storeOne i d a off sb size nt once s.nonce g) (workers once g) (s, [])
      proceed (finishStore i sb s.uid r.2.2) (settle g (spread once g r.1) r.2.1)) s

/-! ## Cluster cache lines (10 R206) and instruction copies (01 R19) -/

/-- Ways of the cluster cache: banks in cache mode. -/
def cacheWays (c : Cluster) : Nat := (banksIn c 0).length

/-- Whether two lines fall in one set: physical address bits [16:7]. -/
def sameSet (a b : Nat) : Bool := bits a 16 7 == bits b 16 7

/-- The lines of a cluster in the set of a line. -/
def linesLike (c : Cluster) (line : Nat) : List CacheLine := c.lines.filter (fun e => sameSet e.line line)

/-- Whether a line is pinned. -/
def CacheLine.pinned (l : CacheLine) : Bool := !l.pins.isEmpty

/-- Whether a further line of a set may be pinned: at most w − 1 ways of it are. -/
def pinFits (c : Cluster) (line : Nat) : Bool := decide (((linesLike c line).filter CacheLine.pinned).length + 1 < cacheWays c)

/-- Pins a line that is held, when it is pinned already or its set admits it. -/
def pinLine (line : Nat) (pins : List (Nat × Nat)) (c : Cluster) : Cluster :=
  { c with lines := c.lines.map (fun e =>
      if e.line = line && (e.pinned || pinFits c line) then
        { e with pins := e.pins ++ pins.filter (fun p => !e.pins.contains p) } else e) }

/-- Fills a line: it takes the first free way of its set, which no value shows; in a full set it replaces the unpinned line
filled earliest. At most w − 1 lines of a set are pinned, so there is one. -/
def fillLine (pa : Nat) (pins : List (Nat × Nat)) (c : Cluster) : Cluster :=
  let line := pa / 128 * 128
  if cacheWays c = 0 then c
  else if c.lines.any (·.line == line) then pinLine line pins c
  else
    let add := fun (ls : List CacheLine) (way : Nat) =>
      { c with lines := ls ++ [⟨line, if pinFits c line then pins else [], way⟩] }
    match (banksIn c 0).find? (fun b => !((linesLike c line).any (·.way == b))) with
    | some b => add c.lines b
    | none => (match (linesLike c line).find? (fun e => !e.pinned) with
      | some v => add (c.lines.filter (fun e => e.line != v.line)) v.way
      | none => c)

/-- The VAs of a range of a context that reach a line of memory through valid normal leaves. -/
def lineVas (s : State) (ctx a n line : Nat) : List Nat :=
  (pageStarts a n).filterMap (fun p =>
    match leafAt s ctx p with
    | some l =>
      let va := p / 65536 * 65536 + line % 65536
      if normalLeaf s p l && l.target p / 65536 == line / 65536 && decide (a ≤ va ∧ va < a + n) then some va else none
    | none => none)

/-- The pins that hold a line when it is filled: of the pinned ranges of every context (10 R208). -/
def pinsOf (s : State) (line : Nat) : List (Nat × Nat) :=
  s.contexts.flatMap (fun e => e.2.pins.flatMap (fun p => (lineVas s e.1 p.1 p.2 line).map (fun v => (e.1, v))))

/-- PREF of one address: with level 1, the line is brought into the cluster cache; it changes no value and sets no leaf
bit (03 R69, 10 R213). -/
def prefetch (ctx cl va : Nat) (level : Nat) (s : State) : State :=
  if level = 0 ∨ 2 ^ 52 ≤ va ∨ inRegion va then s
  else
    match translate s ctx va with
    | some l =>
      if l.type = 0 ∧ backed s (l.target va) then modCluster cl (fillLine (l.target va) (pinsOf s (l.target va / 128 * 128))) s else s
    | none => s

/-- Drops a line from the cluster cache (03 R70). -/
def evictLine (ctx cl va : Nat) (s : State) : State :=
  if 2 ^ 52 ≤ va ∨ inRegion va then s
  else
    match translate s ctx va with
    | some l => modCluster cl (fun c => { c with lines := c.lines.filter (fun e => e.line != l.target va / 128 * 128) }) s
    | none => s

/-- Discards the copies of instruction words, of a line or of all, held for a context. A thread that has not taken a
branch since may still hold its own (01 R19). -/
def discardCopies (ctx : Nat) (sel : Nat → Bool) (s : State) : State :=
  let held := s.shadow.filterMap (fun e =>
    match e.2.find? (fun w => !w.2.contains ctx) with
    | some w => if sel e.1 then some (e.1, w.1) else none
    | none => none)
  { s with
    shadow := s.shadow.map (fun e =>
      if sel e.1 then (e.1, e.2.map (fun w => (w.1, sadd w.2 ctx))) else e)
    crews := s.crews.map (fun e =>
      if e.2.ctx = ctx then
        (e.1, { e.2 with threads := e.2.threads.map (fun t =>
          (t.1, { t.2 with stale := held.foldl (fun m w => tset m w.1 w.2) t.2.stale })) })
      else e) }

/-- CCTL of one address over the threads of a group: `f` acts for one worker. -/
def cacheOp (i : Instr) (a : Sel) (off : BitVec 8) (f : Group → Nat → Nat → State → Option Trap × State) (s : State) :
    Host.Outcome State Fault Refusal :=
  eachOp i (isScalar a) (fun g k s => f g k (addressM (reader s g k) a off 128) s) s

/-- Where byte `o` of the line at `va` lies, when its first byte lies at `r`: a window's line spans two granules (10 R201). -/
def lineReach (s : State) (slot va : Nat) (r : Reach) (o : Nat) : Reach :=
  match r with
  | .mem pa l => .mem (pa + o) l
  | .bank cl key => (match windowOf s slot va with
    | some w => .bank cl (scratchKey (clusterAt s cl) (w.2 + o))
    | none => .bank cl key)
  | r => r

/-- The stores of some threads to the line at `va` become events (03 R70). -/
def settleLine (slot : Nat) (ks : List Nat) (va : Nat) (s : State) : State :=
  match windowOf s slot va with
  | some (cl, o) => [0, 64].foldl (fun s j =>
      settleBytes slot ks (some cl) (scratchKey (clusterAt s cl) (o + j)) 64 s) s
  | none => s

/-- The first `n` of the 16-byte stores of zero to the line at `va`, ascending, after the pending stores of the threads to it (03
R70). -/
def zeroSectors (slot : Nat) (ks : List Nat) (va : Nat) (r : Reach) (s : State) : Nat → State
  | 0 => (match r with
    | .mem pa _ => settleBytes slot ks none pa 128 s
    | _ => settleLine slot ks va s)
  | n + 1 =>
    let s := zeroSectors slot ks va r s n
    storeBytes slot ks s.nonce (lineReach s slot va r (16 * n)) false (List.replicate 16 0) s

/-- Stores zero to the line at `va`. -/
def zeroLine (slot : Nat) (ks : List Nat) (va : Nat) (r : Reach) (s : State) : State := zeroSectors slot ks va r s 8

/-! ## Meanings -/

/-- LDB (03 R61, R62). D ← the byte, zero-extended. -/
def execLdb (d a : Sel) (off : BitVec 8) (sb : BitVec 3) (s : State) : Host.Outcome State Fault Refusal :=
  loadOp (.ldb d a off sb) d a off sb 1 false s

/-- LDBS (03 R61, R62). D ← the byte, sign-extended. -/
def execLdbs (d a : Sel) (off : BitVec 8) (sb : BitVec 3) (s : State) : Host.Outcome State Fault Refusal :=
  loadOp (.ldbs d a off sb) d a off sb 1 true s

/-- LDH (03 R61, R62). D ← the half, zero-extended. -/
def execLdh (d a : Sel) (off : BitVec 8) (sb : BitVec 3) (s : State) : Host.Outcome State Fault Refusal :=
  loadOp (.ldh d a off sb) d a off sb 2 false s

/-- LDHS (03 R61, R62). D ← the half, sign-extended. -/
def execLdhs (d a : Sel) (off : BitVec 8) (sb : BitVec 3) (s : State) : Host.Outcome State Fault Refusal :=
  loadOp (.ldhs d a off sb) d a off sb 2 true s

/-- LDW (03 R61, R62). D ← the word. -/
def execLdw (d a : Sel) (off : BitVec 8) (sb : BitVec 3) (s : State) : Host.Outcome State Fault Refusal :=
  loadOp (.ldw d a off sb) d a off sb 4 false s

/-- LDD (03 R61, R62). The pair ← the double. -/
def execLdd (d a : Sel) (off : BitVec 8) (sb : BitVec 3) (s : State) : Host.Outcome State Fault Refusal :=
  loadOp (.ldd d a off sb) d a off sb 8 false s

/-- LDQ (03 R61, R62). The quad ← the quad. -/
def execLdq (d a : Sel) (off : BitVec 8) (sb : BitVec 3) (s : State) : Host.Outcome State Fault Refusal :=
  loadOp (.ldq d a off sb) d a off sb 16 false s

/-- STB (03 R61, R62). Stores the low byte of D. -/
def execStb (d a : Sel) (off : BitVec 8) (sb : BitVec 3) (s : State) : Host.Outcome State Fault Refusal :=
  storeOp (.stb d a off sb) d a off sb 1 false s

/-- STH (03 R61, R62). Stores the low half of D. -/
def execSth (d a : Sel) (off : BitVec 8) (sb : BitVec 3) (s : State) : Host.Outcome State Fault Refusal :=
  storeOp (.sth d a off sb) d a off sb 2 false s

/-- STW (03 R61, R62). Stores D. -/
def execStw (d a : Sel) (off : BitVec 8) (sb : BitVec 3) (s : State) : Host.Outcome State Fault Refusal :=
  storeOp (.stw d a off sb) d a off sb 4 false s

/-- STD (03 R61, R62). Stores the pair. -/
def execStd (d a : Sel) (off : BitVec 8) (sb : BitVec 3) (s : State) : Host.Outcome State Fault Refusal :=
  storeOp (.std d a off sb) d a off sb 8 false s

/-- STQ (03 R61, R62). Stores the quad. -/
def execStq (d a : Sel) (off : BitVec 8) (sb : BitVec 3) (s : State) : Host.Outcome State Fault Refusal :=
  storeOp (.stq d a off sb) d a off sb 16 false s

/-- STNT (03 R66). Stores the quad, outside the order until DRAIN, FENCE or EXIT. -/
def execStnt (d a : Sel) (off : BitVec 8) (sb : BitVec 3) (s : State) : Host.Outcome State Fault Refusal :=
  storeOp (.stnt d a off sb) d a off sb 16 true s

/-- DRAIN (03 R67). Every earlier STNT of the threads becomes an event. -/
def execDrain  (s : State) : Host.Outcome State Fault Refusal :=
  issue (.drain) (fun g s => advance (.drain) g (drainThreads g.slot g.keys s)) s

/-- FENCE (03 R68). Every earlier STNT and write-combining store of the threads becomes an event. -/
def execFence  (s : State) : Host.Outcome State Fault Refusal :=
  issue (.fence) (fun g s => advance (.fence) g (fenceThreads g.slot g.keys s)) s

/-- PREF (03 R69). Brings a line nearer; changes no value and never faults. -/
def execPref (lvl a : Sel) (off : BitVec 8) (s : State) : Host.Outcome State Fault Refusal :=
  cacheOp (.pref lvl a off) a off (fun g _ va s =>
    (none, prefetch (crewAt s g.slot).ctx (clusterOf g.slot) va lvl.toNat s)) s

/-- CCTL_IINV (03 R70). Discards the copies of a line of instructions held for the context. -/
def execCctlIinv (a : Sel) (off : BitVec 8) (s : State) : Host.Outcome State Fault Refusal :=
  cacheOp (.cctlIinv a off) a off (fun g k va s =>
    let line := va / 128 * 128
    let ks := receivers (isScalar a) g k
    if 2 ^ 52 ≤ va then (none, s)
    else if inRegion va then (none, settleLine g.slot ks line s)
    else match translate s (crewAt s g.slot).ctx line with
      | some l =>
        let pa := l.target line
        (none, discardCopies (crewAt s g.slot).ctx (fun w => decide (pa ≤ w ∧ w < pa + 128))
          (settleBytes g.slot ks none pa 128 s))
      | none => (none, s)) s

/-- CCTL_IINVALL (03 R70). Discards every copy of instructions held for the context. -/
def execCctlIinvall (a : Sel) (off : BitVec 8) (s : State) : Host.Outcome State Fault Refusal :=
  cacheOp (.cctlIinvall a off) a off (fun g k _ s =>
    (none, discardCopies (crewAt s g.slot).ctx (fun _ => true) (fenceThreads g.slot (receivers (isScalar a) g k) s))) s

/-- CCTL_EVICT (03 R70). Drops a line from the cluster cache; changes no value. -/
def execCctlEvict (a : Sel) (off : BitVec 8) (s : State) : Host.Outcome State Fault Refusal :=
  cacheOp (.cctlEvict a off) a off (fun g _ va s =>
    (none, evictLine (crewAt s g.slot).ctx (clusterOf g.slot) va s)) s

/-- CCTL_ZERO (03 R70). Stores zero to the line, with the checks of R63 at its base. -/
def execCctlZero (a : Sel) (off : BitVec 8) (s : State) : Host.Outcome State Fault Refusal :=
  cacheOp (.cctlZero a off) a off (fun g k va s =>
    match reach s g.slot (va / 128 * 128) 16 .zero (runsSystem (crewAt s g.slot)) with
    | (.inl t, s) => (some t, s)
    | (.inr r, s) => (none, zeroLine g.slot (receivers (isScalar a) g k) (va / 128 * 128) r s)) s

/-- LOAD_RETURN (01 R22, R23). An operation's results come back: its destinations are written and its slot's count falls. -/
def execLoadReturn (crew op : Nat) (s : State) : Host.Outcome State Fault Refusal := .next (completeOp crew op s)

/-- FIFO_PUSH (10 R204, R205). The oldest push that waits at a bank's port is performed when its bytes fit. -/
def execFifoPush (cl bank : Nat) (s : State) : Host.Outcome State Fault Refusal := .next (fifoStep true cl bank s)

/-- FIFO_POP (10 R204, R205). The oldest pop that waits at a bank's port is performed when its bytes are held. -/
def execFifoPop (cl bank : Nat) (s : State) : Host.Outcome State Fault Refusal := .next (fifoStep false cl bank s)

/-- A list before, at and after the entry number `n` of those that meet a condition. -/
def cutAt {α : Type} (ok : α → Bool) : Nat → List α → Option (List α × α × List α)
  | _, [] => none
  | n, x :: xs =>
    if ok x && n == 0 then some ([], x, xs)
    else (cutAt ok (if ok x then n - 1 else n) xs).map (fun r => (x :: r.1, r.2))

/-- PENDING_STORE_EVENT (03 R66, 11 R223, R225). One pending store of a thread becomes an event, after those that cannot come
after it. -/
def execPendingStoreEvent (crew : Nat) (who : Tid) (idx : Nat) (s : State) : Host.Outcome State Fault Refusal :=
  .next (match cutAt (fun (p : Pending) => p.who.contains (tkey who)) idx (crewAt s crew).pend with
    | none => s
    | some (older, p, later) =>
      let r := splitOnto (fun _ => false) older ([p], [])
      r.1.foldl (fun s p => performPending p s) (modCrew crew (fun c => { c with pend := r.2 ++ later }) s))

/-- PAGE_WALK (10 R211, R213, 17 R339). A walk of a context's tables caches a valid leaf and sets AC; a walk that finds no
valid entry caches nothing. -/
def execPageWalk (ctx va : Nat) (s : State) : Host.Outcome State Fault Refusal :=
  match walk s (tgetD s.contexts ctx default).root va with
  | some l => .next (if l.reaches s va then cacheLeaf ctx va l s else s)
  | none => .next s

/-- The bytes of a 16-byte sector are added to a rising list. -/
def poisonSector (a : Nat) (l : List Nat) : List Nat := (List.range 16).foldl (fun m j => sadd m (a / 16 * 16 + j)) l

/-- Poisons the 16-byte sector of a bank's byte; in a FIFO bank, of what the FIFO holds, counted from the oldest byte. -/
def poisonBank (a : Nat) (c : Cluster) : Cluster :=
  let bank := a / 0x20000
  if bankModeOf c bank = 2 then
    let n := (tgetD c.fifos bank []).length
    let ms := (poisonSector (a % 0x20000) (tgetD c.fifoPoison bank [])).filter (fun m => decide (m < n))
    { c with fifoPoison := tput c.fifoPoison bank ms [] }
  else { c with poison := poisonSector a c.poison }

/-- Poisons the 16-byte sector of a byte of the scalar registers: four of them. -/
def poisonScalars (a : Nat) (c : Crew) : Crew :=
  { c with sregPoison := ((List.range 4).map (fun j => a / 16 * 4 + j)).foldl (fun l n => if n < 31 then sadd l n else l) c.sregPoison }

/-- UNCORRECTABLE_ERROR (03 R63, 14 R308, 17 R350, 19 R358). The 16-byte sector is poisoned. Below 2^46 the number is a
physical address; from 2^46 up it is cluster × 2^22 + byte of its banks; from 2^47, crew slot × 2^20 + byte of its register
space; from 2^48, a context, whose control state is damaged; from 2^49, the data that the next read of a physical address
gets; from 2^50, crew slot × 2^10 + byte of its scalar registers. -/
def execUncorrectableError (pa : Nat) (s : State) : Host.Outcome State Fault Refusal :=
  .next (
    if pa < 2 ^ 46 then { s with memPoison := poisonSector pa s.memPoison }
    else if pa < 2 ^ 47 then
      modCluster ((pa - 2 ^ 46) / 2 ^ 22) (poisonBank ((pa - 2 ^ 46) % 2 ^ 22)) s
    else if pa < 2 ^ 48 then
      modCrew ((pa - 2 ^ 47) / 2 ^ 20) (fun c => { c with spacePoison := sadd c.spacePoison ((pa - 2 ^ 47) % 2 ^ 20 / 16) }) s
    else if pa < 2 ^ 49 then modCtx (pa - 2 ^ 48) (fun x => { x with corrupt := true }) s
    else if pa < 2 ^ 50 then { s with badReads := sadd s.badReads ((pa - 2 ^ 49) / 16) }
    else modCrew ((pa - 2 ^ 50) / 2 ^ 10) (poisonScalars ((pa - 2 ^ 50) % 2 ^ 10)) s)

end Sys2Proof.Machine
end

