-- ==== Sys2Proof/Machine/Atomic.lean ====
section
/-!
DEFINITION. The 32-bit atomics (12 R231 to R238), performed at once or sent to their home.
-/
namespace Sys2Proof.Machine

/-- The sum that AFADD stores: one rounding to nearest even, no flag (12 R235). -/
def homeSum (x y : Word) : Word := BitVec.ofNat 32 (fp32.add 0 x.toNat y.toNat).1

/-- The word that an atomic stores over `old`; none when ACAS finds another value (12 R232). -/
def atomNew (k : AtomKind) (old b b2 : Word) : Option Word :=
  match k with
  | .add => some (old + b)
  | .and => some (old &&& b)
  | .or => some (old ||| b)
  | .xor => some (old ^^^ b)
  | .imin => some (if b.slt old then b else old)
  | .imax => some (if old.slt b then b else old)
  | .umin => some (if b.ult old then b else old)
  | .umax => some (if old.ult b then b else old)
  | .xchg => some b
  | .cas => if old = b then some b2 else none
  | .fadd => some (homeSum old b)

/-- The event of an atomic at a word of memory: the old word, and the state after it (12 R233). D is set before a store
(10 R213). -/
def atomMem (k : AtomKind) (pa : Nat) (l : Leaf) (b b2 : Word) (s : State) : Word × State :=
  let old := seenWord s l pa
  (old, match atomNew k old b b2 with
    | some w => leafStore pa (bytesOf 4 w.toNat) (openLeaf l pa 4 s)
    | none => s)

/-- The event of an atomic at a word of scratchpad. -/
def atomBank (k : AtomKind) (cl key : Nat) (b b2 : Word) (s : State) : Word × State :=
  let old : Word := BitVec.ofNat 32 (ofBytes (bankBytes (clusterAt s cl) key 4))
  (old, match atomNew k old b b2 with
    | some w => bankStore cl key (bytesOf 4 w.toNat) s
    | none => s)

/-- The event of an atomic where it reaches; a register and a port take none. -/
def atomEvent (k : AtomKind) (r : Reach) (b b2 : Word) (s : State) : Word × State :=
  match r with
  | .mem pa l => atomMem k pa l b b2 s
  | .bank cl key => atomBank k cl key b b2 s
  | .reg _ _ => (0, s)
  | .port _ _ _ => (0, s)

/-- Whether the word that an atomic reaches is poisoned (12 R234, order 8). -/
def atomSpoilt (s : State) (r : Reach) : Bool :=
  match r with
  | .mem pa _ => memPoisoned s pa 4
  | .bank cl key => bankPoisoned (clusterAt s cl) key 4
  | .reg _ _ => false
  | .port _ _ _ => false

/-- Whether the word that an atomic returns is corrupted by a link (19 R358): the event has taken place, and its thread takes
0x0B (log entry 70). -/
def atomReturnBad (s : State) (q : Bool) (r : Reach) : Bool :=
  match r with
  | .mem pa _ => !q && spoiltRead s pa 4
  | _ => false

/-- Before an atomic, pending stores of its threads to the same sector become events (11 R223). -/
def settleSector (slot : Nat) (ks : List Nat) (r : Reach) (s : State) : State :=
  match r with
  | .mem pa _ => settleBytes slot ks none (pa / 16 * 16) 16 s
  | .bank cl key => settleBytes slot ks (some cl) (key / 16 * 16) 16 s
  | .reg _ _ => s
  | .port _ _ _ => s

/-- The kind's own first check: AFADD in a deterministic launch (12 R234, order 1). -/
def determTrap (c : Crew) (k : AtomKind) (va : Nat) : Option Trap :=
  if k = .fadd ∧ c.crewctl.getLsbD 1 then some (trapVa 0x0E va) else none

/-- An atomic that finds poison (12 R234, order 8): with Q = 1 an asynchronous record. -/
def atomPoison (q : Bool) (slot k pc va : Nat) (s : State) : Option Trap × State :=
  if q then (none, postAsyncOf (crewAt s slot).ctx slot k (workerGtid s slot k) pc 0x0B va 0 0 s) else (some (trapVa 0x0B va), s)

/-- One worker's atomic, performed at once: its checks in the order of 12 R234, then its event; `acc` gathers what is
written to registers. -/
def atomOne (kind : AtomKind) (d a b : Sel) (q once : Bool) (g : Group) (k : Nat) (p : State × List (Nat × Word)) :
    Option Trap × State × List (Nat × Word) :=
  let s := p.1
  let c := crewAt s g.slot
  let rd := reader s g k
  let va := (pairOf rd a).toNat
  let v := rd b.toNat
  let v2 := if kind = .cas then rd (b.toNat + 1) else 0
  match determTrap c kind va with
  | some t => (some t, p)
  | none =>
    match reach s g.slot va 4 .atomic (runsSystem c) with
    | (.inl t, s) => (some t, s, p.2)
    | (.inr r, s) =>
      let s := settleSector g.slot (receivers once g k) r s
      if atomSpoilt s r then
        let x := atomPoison q g.slot k g.pc va s
        (x.1, x.2, p.2)
      else
        let x := atomEvent kind r v v2 s
        if atomReturnBad s q r then (some (trapVa 0x0B va), takeSpoilt r 4 x.2, p.2)
        else (none, x.2, if q then p.2 else p.2 ++ placed d [x.1] (receivers once g k))

/-- The end of an atomic: with Q = 0 as a load; with Q = 1 the slot's count falls when the home has performed the event
(12 R236). -/
def finishAtom (i : Instr) (q : Bool) (sb : BitVec 3) (ws : List (Nat × Word)) (g : Group) (s : State) : State :=
  if q then finishStore i sb s.uid [] g s else finishLoad i sb s.uid ws g s

/-- One worker's atomic that is sent on its way (12 R231, R236): the checks before the home's, then the message. -/
def sendOne (kind : AtomKind) (d a b : Sel) (q once : Bool) (op : Nat) (g : Group) (k : Nat)
    (p : State × List (Nat × Word)) : Option Trap × State × List (Nat × Word) :=
  let s := p.1
  let c := crewAt s g.slot
  let rd := reader s g k
  let va := (pairOf rd a).toNat
  let v := rd b.toNat
  let v2 := if kind = .cas then rd (b.toNat + 1) else 0
  match determTrap c kind va with
  | some t => (some t, p)
  | none =>
    match reach s g.slot va 4 .atomic (runsSystem c) with
    | (.inl t, s) => (some t, s, p.2)
    | (.inr r, s) =>
      let s := settleSector g.slot (receivers once g k) r s
      (none, { s with
        uid := s.uid + 1
        atoms := s.atoms ++ [{ id := s.uid, ctx := c.ctx, crew := g.slot, who := receivers once g k, op := op,
                               kind := kind, reach := r, va := va, b := v, b2 := v2,
                               dest := if q then [] else destPlaces d 1 (receivers once g k), q := q, pc := g.pc,
                               issued := s.clock, wall := s.wall }] },
        p.2)

/-- Adds a counted operation that has a number already. -/
def putOp (slot : Nat) (o : Op) (s : State) : State := modCrew slot (fun c => { c with ops := c.ops ++ [o] }) s

/-- Whether a thread has not ended (01 R27). -/
def standsIn (c : Crew) (k : Nat) : Bool :=
  match threadAt c k with
  | some t => t.run != .exited
  | none => false

/-- The threads that failed the instruction of an atomic are parked, with their records, and leave its operation (17 R336). -/
def postFails (a : Atom) (s : State) : State :=
  let fs := (((crewAt s a.crew).ops.find? (fun o => o.id == a.op)).map (·.fails)).getD []
  leaveOp a.crew a.op (fs.map (·.1)) (takeFault a.crew a.pc (fs.filter (fun f => standsIn (crewAt s a.crew) f.1)) s)

/-- After an atomic of an operation has been performed: with the last one the failures are posted, and the operation completes,
unless a slot holds the old values until they return. -/
def settleOp (a : Atom) (s : State) : State :=
  let slot := ((crewAt s a.crew).ops.find? (fun o => o.id == a.op)).map (·.slot)
  if opFlying s a.op then s
  else
    let s := postFails a s
    if a.q || slot == some 0 then returnOp a.crew a.op s else s

/-- The threads of an atomic fail it with 0x0B; their records wait for those of the instruction's other lanes (17 R336). -/
def failAtom (a : Atom) (s : State) : State :=
  modCrew a.crew (fun c =>
    { c with ops := c.ops.map (fun o =>
        if o.id = a.op then { o with fails := a.who.foldl (fun l k => addFail (k, trapVa 0x0B a.va) l) o.fails } else o) }) s

/-- The home performs an atomic that has arrived (12 R231, R234, R236). -/
def performAtom (a : Atom) (s : State) : State :=
  let s := { s with atoms := s.atoms.filter (fun x => x.id != a.id) }
  let k := a.who.headD 0
  if atomSpoilt s a.reach then
    if a.q then settleOp a (postAsyncOf a.ctx a.crew k (workerGtid s a.crew k) a.pc 0x0B a.va 0 0 s)
    else settleOp a (failAtom a s)
  else
    let r := atomEvent a.kind a.reach a.b a.b2 s
    if atomReturnBad s a.q a.reach then settleOp a (failAtom a (takeSpoilt a.reach 4 r.2))
    else settleOp a (opWrites a.crew a.op (a.dest.map (fun pl => (pl, r.1))) r.2)

/-- The atomics, of those on their way, that some condition picks are performed, in the order in which they were sent. -/
def performAtoms (sel : Atom → Bool) (s : State) : State := (s.atoms.filter sel).foldl (fun s a => performAtom a s) s

/-- Clocks within which what a thread has issued becomes an event (11 R220): 2 µs at the nominal 1.4 GHz, less the clocks that
one issue may take. -/
def homeClocks : Nat := 2700

/-- The late accesses of operations that meet a condition are performed. -/
def performLateOps (ok : Crew → Op → Bool) (s : State) : State :=
  s.crews.foldl (fun s e => e.2.ops.foldl (fun s o => if ok e.2 o then lateOp e.1 o.id s else s) s) s

/-- What has been on its way for as long as it may be is performed (11 R220): so are the accesses that stand behind no port
access of their instruction any longer (00 R7), and those of a thread that is parked, whose events precede its handler's (17
R338). -/
def performOverdue (s : State) : State :=
  let s := if s.atoms.isEmpty then s
    else performAtoms (fun a => decide (a.issued + homeClocks ≤ s.clock ∨ a.wall + 1 < s.wall)) s
  performLateOps (fun c o => !o.late.isEmpty && (decide (o.issued + homeClocks ≤ s.clock) || o.late.any (·.reach.isNone) ||
    o.members.any (isParkedThread c))) s

/-- The end of an atomic of which some thread's has been sent on its way: the others have failed, and their records wait for it (17
R336). -/
def sentAtom (i : Instr) (q : Bool) (sb : BitVec 3) (id : Nat) (fails : List (Nat × Trap)) (g : Group) (s : State) : State :=
  let fs := g.early.foldl (fun l f => addFail f l) fails
  let ks := g.keys.filter (fun k => !(fails.any (·.1 == k)))
  let o := newOp s g i sb (!q) ks []
  advance i { g with keys := ks } (putOp g.slot { o with id := id, members := ks ++ fs.map (·.1), fails := fs } s)

/-- An atomic instruction (12 R232 to R236): once when A and B are scalar, else lane by lane; performed at once, or sent to
the homes while the machine's schedule lets atomics lag (log entry 1). -/
def atomicOp (i : Instr) (kind : AtomKind) (d a b : Sel) (q : Bool) (sb : BitVec 3) (s : State) :
    Host.Outcome State Fault Refusal :=
  issue i (fun g s =>
    let once := isScalar a && isScalar b
    if slotFull s g sb then wait .slots g s
    else if s.lag then
      let id := s.uid
      let r := eachThread (sendOne kind d a b q once id g) (workers once g) ({ s with uid := id + 1 }, [])
      if opFlying r.2.1 id then sentAtom i q sb id (spread once g r.1) g r.2.1
      else takeFails g (spread once g r.1) r.2.1
    else
      let r := eachThread (atomOne kind d a b q once g) (workers once g) (s, [])
      proceed (finishAtom i q sb r.2.2) (settle g (spread once g r.1) r.2.1)) s

/-! ## Meanings -/

/-- AADD (12 R232, R233). D ← the old word; stores old + B. -/
def execAadd (d a b : Sel) (q : Bool) (sb : BitVec 3) (s : State) : Host.Outcome State Fault Refusal :=
  atomicOp (.aadd d a b q sb) .add d a b q sb s

/-- AAND (12 R232, R233). Stores old AND B. -/
def execAand (d a b : Sel) (q : Bool) (sb : BitVec 3) (s : State) : Host.Outcome State Fault Refusal :=
  atomicOp (.aand d a b q sb) .and d a b q sb s

/-- AOR (12 R232, R233). Stores old OR B. -/
def execAor (d a b : Sel) (q : Bool) (sb : BitVec 3) (s : State) : Host.Outcome State Fault Refusal :=
  atomicOp (.aor d a b q sb) .or d a b q sb s

/-- AXOR (12 R232, R233). Stores old XOR B. -/
def execAxor (d a b : Sel) (q : Bool) (sb : BitVec 3) (s : State) : Host.Outcome State Fault Refusal :=
  atomicOp (.axor d a b q sb) .xor d a b q sb s

/-- AMIN (12 R232, R233). Stores the lesser as signed values. -/
def execAmin (d a b : Sel) (q : Bool) (sb : BitVec 3) (s : State) : Host.Outcome State Fault Refusal :=
  atomicOp (.amin d a b q sb) .imin d a b q sb s

/-- AMAX (12 R232, R233). Stores the greater as signed values. -/
def execAmax (d a b : Sel) (q : Bool) (sb : BitVec 3) (s : State) : Host.Outcome State Fault Refusal :=
  atomicOp (.amax d a b q sb) .imax d a b q sb s

/-- AUMIN (12 R232, R233). Stores the lesser as unsigned values. -/
def execAumin (d a b : Sel) (q : Bool) (sb : BitVec 3) (s : State) : Host.Outcome State Fault Refusal :=
  atomicOp (.aumin d a b q sb) .umin d a b q sb s

/-- AUMAX (12 R232, R233). Stores the greater as unsigned values. -/
def execAumax (d a b : Sel) (q : Bool) (sb : BitVec 3) (s : State) : Host.Outcome State Fault Refusal :=
  atomicOp (.aumax d a b q sb) .umax d a b q sb s

/-- AXCHG (12 R232, R233). Stores B. -/
def execAxchg (d a b : Sel) (q : Bool) (sb : BitVec 3) (s : State) : Host.Outcome State Fault Refusal :=
  atomicOp (.axchg d a b q sb) .xchg d a b q sb s

/-- ACAS (12 R232, R233). Stores B+1 when the old word equals B. -/
def execAcas (d a b : Sel) (q : Bool) (sb : BitVec 3) (s : State) : Host.Outcome State Fault Refusal :=
  atomicOp (.acas d a b q sb) .cas d a b q sb s

/-- AFADD (12 R232, R235). Stores the FP32 sum, rounded to nearest even. -/
def execAfadd (d a b : Sel) (q : Bool) (sb : BitVec 3) (s : State) : Host.Outcome State Fault Refusal :=
  atomicOp (.afadd d a b q sb) .fadd d a b q sb s

/-- ATOMIC_AT_HOME (12 R231, R236, R237). An atomic on its way is performed at its home, after those of the lower lanes of its
instruction (00 R7). -/
def execAtomicAtHome (atom : Nat) (s : State) : Host.Outcome State Fault Refusal :=
  .next (match s.atoms.find? (fun a => a.id == atom) with
    | some a => performAtoms (fun x => x.op == a.op && decide (x.id ≤ a.id)) s
    | none => s)

end Sys2Proof.Machine
end

