-- ==== Sys2Proof/Machine/Trans.lean ====
section
/-!
DEFINITION. Correctly rounded FP32 functions (04 R91): reciprocal, roots, 2^x, log2, sin(πx) and cos(πx). The last four
are computed to 256 binary places from below and rounded once with a sticky rest; the exact cases are taken apart first
(log entry 8).
-/
namespace Sys2Proof.Machine

/-- Binary places of the working precision. -/
def places : Nat := 256

/-- The unit of the working precision. -/
def one : Nat := 2 ^ places

/-- The sum over k from `k` up of x^k / k at most `fuel` terms, with `p` the power so far: the series of −ln(1 − x). -/
def logSeries (x : Nat) : Nat → Nat → Nat → Nat
  | 0, _, _ => 0
  | fuel + 1, k, p => p / k + logSeries x fuel (k + 1) (p * x / one)

/-- ln 2 = −ln(1 − 1/2), in units of the working precision. -/
def ln2 : Nat := logSeries (one / 2) 264 1 (one / 2)

/-- The odd series p/k + p x²/(k + 2) + … with `x2` = x², alternating when `alt`: 2 atanh or arctan. -/
def oddSeries (alt : Bool) (x2 : Nat) : Nat → Nat → Nat → Nat
  | 0, _, _ => 0
  | fuel + 1, k, p =>
    let rest := oddSeries alt x2 fuel (k + 2) (p * x2 / one)
    if alt then p / k - rest else p / k + rest

/-- arctan(1/n). -/
def arctanInv (n fuel : Nat) : Nat := oddSeries true (one / (n * n)) fuel 1 (one / n)

/-- π = 16 arctan(1/5) − 4 arctan(1/239). -/
def piUnits : Nat := 16 * arctanInv 5 60 - 4 * arctanInv 239 20

/-- The exponential series 1 + x + x²/2 + …, `t` the term so far. -/
def expSeries (x : Nat) : Nat → Nat → Nat → Nat
  | 0, _, _ => 0
  | fuel + 1, k, t => t + expSeries x fuel (k + 1) (t * x / one / k)

/-- The sine series x − x³/6 + …, `t` the term so far. -/
def sinSeries (x2 : Nat) : Nat → Nat → Nat → Nat
  | 0, _, _ => 0
  | fuel + 1, k, t => t - sinSeries x2 fuel (k + 2) (t * x2 / one / ((k + 1) * (k + 2)))

/-- A computed value made certainly not more than the true one: less 2^20 units, far above the accumulated loss. -/
def fromBelow (x : Nat) : Nat := x - 2 ^ 20

/-- A finite value in units of 2^−n, exact when its exponent is at least −n. -/
def unitsOf (m : Nat) (e : Int) (n : Nat) : Nat :=
  if 0 ≤ e + (n : Int) then m <<< (e + (n : Int)).toNat else m >>> (-(e + (n : Int))).toNat

/-- Places that hold every FP32 value exactly. -/
def exactPlaces : Nat := 149

/-- FRCP: 1 / A, rounded in RM (04 R91). -/
def recip (mode a : Nat) : Nat × FpFlags :=
  match fp32.value a with
  | .nan s => fp32.nanResult s
  | .inf n => (fp32.signed n 0, .none)
  | .fin n m e =>
    if m = 0 then (fp32.infinity false n, { FpFlags.none with dz := true })
    else fp32.round mode false n (2 ^ 80 / m) (-80 - e) (decide (2 ^ 80 % m ≠ 0))

/-- FRSQ: 1 / √A, nearest even (04 R91). -/
def recipSqrt (a : Nat) : Nat × FpFlags :=
  match fp32.value a with
  | .nan s => fp32.nanResult s
  | .inf n => if n then fp32.nanResult true else (0, .none)
  | .fin n m e =>
    if m = 0 then (fp32.infinity false n, { FpFlags.none with dz := true })
    else if n then fp32.nanResult true
    else
      let m := if e % 2 = 0 then m else 2 * m
      let e := if e % 2 = 0 then e else e - 1
      let x := 2 ^ 160 / m
      let r := isqrt x
      fp32.round 0 false false r (-80 - e / 2) (decide (2 ^ 160 % m ≠ 0 ∨ r * r ≠ x))

/-- FSQRT: √A, rounded in RM (04 R91). -/
def sqrtFp (mode a : Nat) : Nat × FpFlags :=
  match fp32.value a with
  | .nan s => fp32.nanResult s
  | .inf n => if n then fp32.nanResult true else (a, .none)
  | .fin n m e =>
    if m = 0 then (a, .none)
    else if n then fp32.nanResult true
    else
      let m := if e % 2 = 0 then m else 2 * m
      let e := if e % 2 = 0 then e else e - 1
      let x := m * 2 ^ 80
      let r := isqrt x
      fp32.round mode false false r (e / 2 - 40) (decide (r * r ≠ x))

/-- FEXP2: 2^A, nearest even (04 R91). An integer A is exact; beyond ±1,024 the result is far outside the format. -/
def exp2Fp (a : Nat) : Nat × FpFlags :=
  match fp32.value a with
  | .nan s => fp32.nanResult s
  | .inf n => if n then (0, .none) else (a, .none)
  | .fin n m e =>
    if m = 0 then (0x3F800000, .none)
    else if 1024 ≤ unitsOf m e 0 then fp32.round 0 false false 1 (if n then -2000 else 2000) false
    else
      let u := unitsOf m e exactPlaces
      let whole : Int := if n then -(((u + 2 ^ exactPlaces - 1) / 2 ^ exactPlaces : Nat) : Int)
        else ((u / 2 ^ exactPlaces : Nat) : Int)
      let frac := if n then (2 ^ exactPlaces - u % 2 ^ exactPlaces) % 2 ^ exactPlaces else u % 2 ^ exactPlaces
      if frac = 0 then fp32.round 0 false false 1 whole false
      else
        let x := frac * 2 ^ (places - exactPlaces) * ln2 / one
        fp32.round 0 false false (fromBelow (expSeries x 80 1 one)) (whole - (places : Int)) true

/-- log2 of m / 2^k for 2^k ≤ m < 2^(k+1), in working units: 2 atanh((t − 1)/(t + 1)) / ln 2. -/
def log2Frac (m k : Nat) : Nat :=
  let z := (m - 2 ^ k) * one / (m + 2 ^ k)
  2 * oddSeries false (z * z / one) 90 1 z * one / ln2

/-- FLOG2: log2 A, nearest even (04 R91). A power of two is exact. -/
def log2Fp (a : Nat) : Nat × FpFlags :=
  match fp32.value a with
  | .nan s => fp32.nanResult s
  | .inf n => if n then fp32.nanResult true else (a, .none)
  | .fin n m e =>
    if m = 0 then (fp32.infinity false true, { FpFlags.none with dz := true })
    else if n then fp32.nanResult true
    else
      let k := bitLen m - 1
      let w : Int := e + (k : Int)
      if m = 2 ^ k then
        (if w = 0 then (0, .none) else fp32.round 0 false (decide (w < 0)) w.natAbs 0 false)
      else if 0 ≤ w then
        fp32.round 0 false false (fromBelow (w.toNat * one + log2Frac m k)) (-(places : Int)) true
      else
        fp32.round 0 false true (fromBelow (w.natAbs * one - log2Frac m k)) (-(places : Int)) true

/-- sin(π y) for y in units of 2^−149 up to 1/2, as an FP32 rounding with a sign. -/
def sinReduced (neg : Bool) (y : Nat) : Nat × FpFlags :=
  if y = 0 then (0, .none)
  else if y = 2 ^ (exactPlaces - 1) then (fp32.signed neg 0x3F800000, .none)
  else
    let x := y * piUnits / 2 ^ exactPlaces
    fp32.round 0 false neg (fromBelow (sinSeries (x * x / one) 50 1 x)) (-(places : Int)) true

/-- A modulo 2, in units of 2^−149, of a magnitude. -/
def modTwo (m : Nat) (e : Int) : Nat := if 2 ≤ e then 0 else unitsOf m e exactPlaces % 2 ^ (exactPlaces + 1)

/-- FSIN: sin(π × A), nearest even (04 R91). -/
def sinPi (a : Nat) : Nat × FpFlags :=
  match fp32.value a with
  | .nan s => fp32.nanResult s
  | .inf _ => fp32.nanResult true
  | .fin n m e =>
    if m = 0 then (a, .none)
    else
      let h := 2 ^ (exactPlaces - 1)
      let r := modTwo m e
      if r % (2 * h) = 0 then (fp32.signed n 0, .none)
      else if r ≤ h then sinReduced n r
      else if r ≤ 2 * h then sinReduced n (2 * h - r)
      else if r ≤ 3 * h then sinReduced (!n) (r - 2 * h)
      else sinReduced (!n) (4 * h - r)

/-- FCOS: cos(π × A), nearest even (04 R91). -/
def cosPi (a : Nat) : Nat × FpFlags :=
  match fp32.value a with
  | .nan s => fp32.nanResult s
  | .inf _ => fp32.nanResult true
  | .fin _ m e =>
    let h := 2 ^ (exactPlaces - 1)
    let r := modTwo m e
    if r ≤ h then sinReduced false (h - r)
    else if r ≤ 2 * h then sinReduced true (r - h)
    else if r ≤ 3 * h then sinReduced true (3 * h - r)
    else sinReduced false (r - 3 * h)

/-- A rounded to an integral value in a mode, the sign kept and NX never raised (04 R91). -/
def roundIntegral (mode a : Nat) : Nat × FpFlags :=
  match fp32.value a with
  | .nan s => fp32.nanResult s
  | .inf _ => (a, .none)
  | .fin n m e =>
    if 0 ≤ e then (a, .none)
    else
      let r := (toInteger mode n m e).1
      ((if r = 0 then fp32.signed n 0 else (fp32.round 0 false n r 0 false).1), .none)

/-- FCLASS: one bit of ten (04 R91). -/
def classify (a : Nat) : Nat :=
  let neg := decide (2 ^ 31 ≤ a)
  match fp32.value a with
  | .nan s => if s then 256 else 512
  | .inf n => if n then 1 else 128
  | .fin _ m _ =>
    if m = 0 then (if neg then 8 else 16)
    else if m < 2 ^ 23 then (if neg then 4 else 32)
    else (if neg then 2 else 64)

end Sys2Proof.Machine
end

