-- ==== Sys2Proof/Machine/Convert.lean ====
section
/-!
DEFINITION. Conversion between the number formats (04 R75, R76, R81, R93 to R96, R99): format codes, control words, and
one conversion for FCVT, DCVT and the engines.
-/
namespace Sys2Proof.Machine

/-- The class of a format code (04 R75). -/
inductive FmtClass where
  | int (signed : Bool) (width : Nat)
  | float (f : FpFmt) (width : Nat)
  | norm (signed : Bool)
  | raster
  | block
  | reserved
  deriving DecidableEq, Repr, Inhabited

/-- The format codes (04 R75). -/
def fmtClass (code : Nat) : FmtClass :=
  match code with
  | 0x00 => .int false 8
  | 0x01 => .int true 8
  | 0x02 => .int false 16
  | 0x03 => .int true 16
  | 0x04 => .int false 32
  | 0x05 => .int true 32
  | 0x08 => .float fp32 32
  | 0x09 => .float fp16 16
  | 0x0A => .float bf16 16
  | 0x0B => .float e4m3 8
  | 0x0C => .float e5m2 8
  | 0x0D => .block
  | 0x0E => .block
  | 0x0F => .block
  | 0x10 => .block
  | 0x11 => .block
  | 0x12 => .block
  | 0x14 => .norm false
  | 0x15 => .norm true
  | 0x18 => .raster
  | 0x1F => .float fp64 64
  | _ => .reserved

/-- Element width in bits (04 R75); 0 for a reserved code. -/
def fmtWidth (code : Nat) : Nat :=
  match code with
  | 0x0D => 8
  | 0x0E => 8
  | 0x0F => 6
  | 0x10 => 6
  | 0x11 => 4
  | 0x12 => 8
  | _ =>
    match fmtClass code with
    | .int _ w => w
    | .float _ w => w
    | .norm _ => 8
    | .raster => 32
    | .block => 0
    | .reserved => 0

/-- A number of `n` bits as a two's complement value. -/
def toSigned (n x : Nat) : Int := if x < 2 ^ (n - 1) then (x : Int) else (x : Int) - (2 ^ n : Nat)

/-- An integer as a finite value. -/
def finOfInt (z : Int) : FpVal := .fin (decide (z < 0)) z.natAbs 0

/-- An integer in `n` bits of two's complement. -/
def wrapTo (n : Nat) (z : Int) : Nat := (z % (2 ^ n : Nat)).toNat

/-- Least and greatest values of an integer destination. -/
def intRange (signed : Bool) (w : Nat) : Int × Int :=
  if signed then (-((2 ^ (w - 1) : Nat) : Int), (2 ^ (w - 1) : Nat) - 1) else (0, (2 ^ w : Nat) - 1)

/-- A value into an integer of a range, in units of 2^−sh: rounded, then saturated with NV; a NaN gives 0 with NV, and an
infinity saturates with NV alone (04 R95). -/
def toIntRange (mode : Nat) (lo hi : Int) (sh : Nat) (x : FpVal) : Int × FpFlags :=
  match x with
  | .nan _ => (0, { FpFlags.none with nv := true })
  | .inf n => (if n then lo else hi, { FpFlags.none with nv := true })
  | .fin n m e =>
    let r := toInteger mode n m (e + sh)
    let z : Int := if n then -(r.1 : Int) else (r.1 : Int)
    (if z < lo then lo else if hi < z then hi else z,
      { FpFlags.none with nv := decide (z < lo ∨ hi < z), nx := r.2 })

/-- A value into a normalised destination of `k` steps: clamped without a flag, then scaled exactly and rounded
(04 R95). -/
def toNorm (mode k : Nat) (signed : Bool) (x : FpVal) : Int × FpFlags :=
  let top : Int := if signed then -(k : Int) else 0
  match x with
  | .nan _ => (0, { FpFlags.none with nv := true })
  | .inf n => (if n then top else k, .none)
  | .fin n m e =>
    if n && !signed then (0, .none)
    else if compareVal (.fin false m e) (.fin false 1 0) == .gt then (if n then top else k, .none)
    else
      let r := toInteger mode n (m * k) e
      (if n then -(r.1 : Int) else (r.1 : Int), { FpFlags.none with nx := r.2 })

/-- A ratio of two integers rounded to a format; its exact value has a finite quotient and a rest. -/
def FpFmt.ratio (f : FpFmt) (mode : Nat) (neg : Bool) (a b : Nat) : Nat × FpFlags :=
  f.round mode false neg (a * 2 ^ 100 / b) (-100) (decide (a * 2 ^ 100 % b ≠ 0))

/-- The value of an element of a source format that is not normalised (04 R76, R81). -/
def srcValue (c : FmtClass) (x : Nat) : FpVal :=
  match c with
  | .int s w => finOfInt (if s then toSigned w x else (x : Int))
  | .float f _ => f.value x
  | .raster =>
    match finOfInt (toSigned 24 (x % 2 ^ 24)) with
    | .fin n m _ => .fin n m (-8)
    | v => v
  | _ => .nan false

/-- A value delivered in a destination class (04 R95). -/
def deliverTo (c : FmtClass) (mode : Nat) (sat : Bool) (x : FpVal) : Nat × FpFlags :=
  match c with
  | .int s w =>
    let r := toIntRange mode (intRange s w).1 (intRange s w).2 0 x
    (wrapTo w r.1, r.2)
  | .float f _ => f.deliver mode sat x
  | .norm s =>
    let r := toNorm mode (if s then 127 else 255) s x
    (wrapTo 8 r.1, r.2)
  | .raster =>
    let r := toIntRange mode (-8388608) 8388607 8 x
    (wrapTo 32 r.1, r.2)
  | _ => (0, .none)

/-- Converts an element from one format to another (04 R95). -/
def convertElem (src dst mode : Nat) (sat : Bool) (x : Nat) : Nat × FpFlags :=
  match fmtClass src, fmtClass dst with
  | .norm s, .float f _ =>
    let z : Int := if s then max (toSigned 8 x) (-127) else (x : Int)
    if z = 0 then (0, .none) else f.ratio mode (decide (z < 0)) z.natAbs (if s then 127 else 255)
  | c, d => deliverTo d mode sat (srcValue c x)

/-- Whether the pair of formats is legal in FCVT (04 R94). -/
def pairLegal (src dst : Nat) : Bool :=
  src != 0x1F && dst != 0x1F &&
  match fmtClass src, fmtClass dst with
  | .int _ _, .int _ _ => true
  | .int _ _, .float _ _ => true
  | .float _ _, .int _ _ => true
  | .float _ _, .float _ _ => true
  | .float _ _, .norm _ => true
  | .float _ _, .raster => src == 0x08
  | .norm _, .float _ _ => true
  | .raster, .float _ _ => dst == 0x08
  | _, _ => false

/-- The zero fields and RMODE of a control word (04 R93, R94). -/
def controlZeros (c : Nat) : Bool :=
  bits c 31 24 == 0 && bits c 15 13 == 0 && bits c 7 5 == 0 && decide (bits c 19 17 ≤ 4)

/-- Whether an FCVT control word passes (04 R94). -/
def fcvtOk (c : Nat) : Bool :=
  controlZeros c && pairLegal (bits c 4 0) (bits c 12 8) &&
    (!(bitAt c 16) || decide (0x08 ≤ bits c 12 8 ∧ bits c 12 8 ≤ 0x0C)) &&
    decide (bits c 21 20 < 32 / fmtWidth (bits c 4 0)) && decide (bits c 23 22 < 32 / fmtWidth (bits c 12 8))

/-- Whether a DCVT control word passes (04 R99). -/
def dcvtOk (c : Nat) : Bool :=
  let src := bits c 4 0
  let dst := bits c 12 8
  let other := fun (x : Nat) => x == 0x04 || x == 0x05 || x == 0x08
  controlZeros c && ((src == 0x1F && other dst) || (dst == 0x1F && other src)) &&
    bits c 21 20 == 0 && bits c 23 22 == 0 && (!(bitAt c 16) || dst == 0x08)

/-- The mode that a control word selects (04 R96). -/
def controlMode (c rm : Nat) : Nat := if bits c 19 17 = 0 then rm else bits c 19 17 - 1

/-- Bits [hi:lo] of a word replaced. -/
def putBits (x hi lo v : Nat) : Nat :=
  x / 2 ^ (hi + 1) * 2 ^ (hi + 1) + v % 2 ^ (hi + 1 - lo) * 2 ^ lo + x % 2 ^ lo

/-- FCVT of one thread: control word, A and the old D (04 R96). -/
def fcvtWord (c rm a d : Nat) : Nat × FpFlags :=
  let sw := fmtWidth (bits c 4 0)
  let dw := fmtWidth (bits c 12 8)
  let x := if sw = 32 then a else a / 2 ^ (bits c 21 20 * sw) % 2 ^ sw
  let r := convertElem (bits c 4 0) (bits c 12 8) (controlMode c rm) (bitAt c 16) x
  (if dw = 32 then r.1 else putBits d (bits c 23 22 * dw + dw - 1) (bits c 23 22 * dw) r.1, r.2)

end Sys2Proof.Machine
end

