-- ==== Sys2Proof/Machine/Shape.lean ====
section
/-!
DEFINITION. Shape records and slots (13 R259 to R266): SHPSET, SHPFREE, SHPRD, and the geometry of a box.
-/
namespace Sys2Proof.Machine

/-! ## Slots -/

/-- A slot that is not listed is free, with generation 0 (log entry 5). -/
def Shape.fresh : Shape := { gen := 0, record := none }

/-- A shape slot of a context. -/
def shapeAt (s : State) (ctx n : Nat) : Shape := tgetD (tgetD s.contexts ctx default).shapes n Shape.fresh

/-- The state with a shape slot changed. -/
def modShape (ctx n : Nat) (f : Shape → Shape) (s : State) : State :=
  modCtx ctx (fun x => { x with shapes := tset x.shapes n (f (shapeAt s ctx n)) }) s

/-- The record that a handle names, when the handle is valid (13 R259). -/
def shapeNamed (s : State) (ctx : Nat) (h : Word) : Option (List Word) :=
  let n := bits h.toNat 15 0
  if n < 1024 ∧ (shapeAt s ctx n).gen.toNat = bits h.toNat 31 16 then (shapeAt s ctx n).record else none

/-- A stale handle (13 R259): w7 holds it. -/
def trapHandle (h : Word) : Trap := ⟨0x0C, 0, 0, h, false⟩

/-! ## Geometry (13 R260 to R263) -/

/-- A shape record's fields: element width, BASE, dimensions, strides of dimensions 1 to 4, box sizes, landing, out of
bounds mode, rotation, padding. -/
structure Geom where
  fmt : Nat
  e : Nat
  base : Nat
  rank : Nat
  dims : List Nat
  strides : List Nat
  box : List Nat
  land : Nat
  oob : Nat
  rot : Nat
  pad : Nat
  deriving DecidableEq, Repr, Inhabited

/-- Word `n` of a record. -/
def recWord (ws : List Word) (n : Nat) : Nat := (ws.getD n 0).toNat

/-- The geometry of a record. -/
def geomOf (ws : List Word) : Geom :=
  let w := recWord ws
  { fmt := bits (w 2) 7 0, e := fmtWidth (bits (w 2) 7 0), base := w 0 + w 1 * 2 ^ 32, rank := bits (w 2) 11 8,
    dims := [w 4, w 5, w 6, w 7, w 8], strides := [w 9, w 10, w 11, w 12],
    box := [bits (w 13) 7 0 + 1, bits (w 13) 15 8 + 1, bits (w 13) 23 16 + 1, bits (w 13) 31 24 + 1, bits (w 14) 7 0 + 1],
    land := bits (w 2) 13 12, oob := bits (w 14) 15 12, rot := bits (w 14) 11 8, pad := w 3 }

/-- Dimension `k` of a list, with a value beyond its end. -/
def dimAt (l : List Nat) (k : Nat) : Nat := l.getD k 1

/-- Elements in a landed row (13 R263). -/
def Geom.perRow (g : Geom) : Nat := if g.land = 1 then dimAt g.box 1 else dimAt g.box 0

/-- Bytes of data in a landed row. -/
def Geom.rowBytes (g : Geom) : Nat := g.perRow * g.e / 8

/-- The pitch of landed rows. -/
def Geom.pitch (g : Geom) : Nat :=
  let a := if g.rot = 0 then 16 else 128
  (g.rowBytes + a - 1) / a * a

/-- Landed rows. -/
def Geom.rows (g : Geom) : Nat :=
  (if g.land = 1 then dimAt g.box 0 else dimAt g.box 1) * dimAt g.box 2 * dimAt g.box 3 * dimAt g.box 4

/-- The landed size. -/
def Geom.size (g : Geom) : Nat := g.rows * g.pitch

/-- Whether a format is a block format (04 R75). -/
def isBlockFmt (f : Nat) : Bool := decide (0x0D ≤ f ∧ f ≤ 0x12)

/-- Whether a code is assigned (04 R75). -/
def isAssignedFmt (f : Nat) : Bool :=
  [0x00, 0x01, 0x02, 0x03, 0x04, 0x05, 0x08, 0x09, 0x0A, 0x0B, 0x0C, 0x0D, 0x0E, 0x0F, 0x10, 0x11, 0x12, 0x14, 0x15,
    0x18, 0x1F].contains f

/-- Whether a record is valid (13 R261). -/
def recordValid (ws : List Word) : Bool :=
  let w := recWord ws
  let g := geomOf ws
  isAssignedFmt g.fmt && bits (w 2) 31 14 == 0 && decide (g.land ≤ 1) && decide (g.oob ≤ 3) && decide (g.rot ≤ 3) &&
    bits (w 14) 31 16 == 0 && w 15 == 0 && decide (1 ≤ g.rank ∧ g.rank ≤ 5) && g.base % 16 == 0 &&
    decide (g.base < 2 ^ 52) &&
    (List.range 5).all (fun k => if k < g.rank then dimAt g.dims k != 0 else g.dims.getD k 0 == 0 && dimAt g.box k == 1) &&
    (List.range 4).all (fun k => if k + 1 < g.rank then g.strides.getD k 0 % 16 == 0 else g.strides.getD k 0 == 0) &&
    (!isBlockFmt g.fmt || (dimAt g.box 0 % 32 == 0 && dimAt g.dims 0 % 32 == 0 && decide (g.oob ≤ 1))) &&
    (g.land != 1 || (decide (2 ≤ g.rank) && (g.e == 8 || g.e == 16 || g.e == 32))) && decide (g.size ≤ 0x400000)

/-- The box coordinates of position `p` of landed row `j` (13 R263). -/
def Geom.coords (g : Geom) (j p : Nat) : List Nat :=
  let b := dimAt g.box
  if g.land = 1 then [j % b 0, p, j / b 0 % b 2, j / (b 0 * b 2) % b 3, j / (b 0 * b 2 * b 3)]
  else [p, j % b 1, j / b 1 % b 2, j / (b 1 * b 2) % b 3, j / (b 1 * b 2 * b 3)]

/-- A coordinate that out-of-bounds mode 2 or 3 brings inside. -/
def bringIn (oob : Nat) (x : Int) (dim : Nat) : Int :=
  if oob = 2 then min (max x 0) ((dim : Int) - 1) else x % (dim : Int)

/-- Where an element comes from: a bit address in memory, or the filling of modes 0 and 1. -/
inductive Elem where
  | bit (a : Nat)
  | fill
  deriving DecidableEq, Repr, Inhabited

/-- The bit address of in-bounds coordinates (13 R262): BASE + x_0 × e / 8 + Σ x_k × STRIDE_k, modulo 2^64 bytes. -/
def Geom.bitAddr (g : Geom) (xs : List Int) : Nat :=
  let x := fun k => xs.getD k 0
  let outer := ((List.range 4).map (fun k =>
    if k + 1 < g.rank then x (k + 1) * (g.strides.getD k 0 : Nat) else 0)).foldl (· + ·) (0 : Int)
  ((8 * ((g.base : Int) + outer) + x 0 * (g.e : Nat)) % (2 ^ 67 : Nat)).toNat

/-- Position `p` of landed row `j` for a box at an origin (13 R262). A write takes in-bounds elements alone. -/
def Geom.elem (g : Geom) (write : Bool) (org : List Int) (j p : Nat) : Elem :=
  let cs := g.coords j p
  let xs := (List.range 5).map (fun k => org.getD k 0 + (cs.getD k 0 : Nat))
  let inb := (List.range g.rank).all (fun k => decide (0 ≤ xs.getD k 0 ∧ xs.getD k 0 < (dimAt g.dims k : Nat)))
  if inb then .bit (g.bitAddr xs)
  else if write || decide (g.oob < 2) then .fill
  else .bit (g.bitAddr ((List.range 5).map (fun k => if k < g.rank then bringIn g.oob (xs.getD k 0) (dimAt g.dims k) else 0)))

/-- The bits of a filled element (13 R262). -/
def Geom.fillBits (g : Geom) : Nat := if g.oob = 0 then g.pad % 2 ^ g.e else 0

/-- Where byte `y` of the data of row `j` lands, from the location (13 R263). -/
def Geom.landAt (g : Geom) (j y : Nat) : Nat := j * g.pitch + (y ^^^ (j % 2 ^ g.rot * 16))

/-! ## Meanings -/

/-- The bytes of a record, loaded by the group's lowest thread. -/
def recordBytes (s : State) (g : Group) (r : Reach) : List Byte :=
  match r with
  | .mem pa l => loadBytes s g.slot g.lead (.mem pa l) 64
  | .bank cl key => loadBytes s g.slot g.lead (.bank cl key) 64
  | _ => []

/-- The checks of SHPSET after 0x04, in the order of 13 R265, and the record's words; w4–w5 carry the VA. All four loads of the
record have been made when the poison that they return fails the check. -/
def shapeRead (s : State) (g : Group) (va : Nat) : (Trap ⊕ List Word) × State :=
  let c := crewAt s g.slot
  let judge := fun (r : Reach) (s : State) =>
    let s := settleShared g.slot g.keys r 64 s
    if loadPoisoned s g.slot g.lead r 64 then (Sum.inl (trapVa 0x0B va), takeSpoilt r 64 s)
    else
      let ws := wordsOfBytes (recordBytes s g r)
      if recordValid ws then (.inr ws, s) else (.inl (trapVa 0x0D va), s)
  if 2 ^ 52 ≤ va then (.inl (trapVa 0x06 va), s)
  else if inRegion va then
    match windowOf s g.slot va with
    | none => (.inl (trapVa 0x06 va), s)
    | some (cl, o) =>
      if scratchSize (clusterAt s cl) ≤ o then (.inl (trapVa 0x06 va), s)
      else if va % 64 ≠ 0 then (.inl (trapVa 0x05 va), s)
      else judge (.bank cl (scratchKey (clusterAt s cl) o)) s
  else
    match translate s c.ctx va with
    | none => (.inl ⟨0x06, va, 0, 0, true⟩, s)
    | some l =>
      let s := cacheLeaf c.ctx va l s
      if va % 64 ≠ 0 then (.inl (trapVa 0x05 va), s)
      else if l.badForm then (.inl (trapVa 0x0A va), s)
      else if l.type ≠ 0 ∨ !(backed s (l.target va)) then (.inl (trapVa 0x09 va), s)
      else if l.system && !(runsSystem c) then (.inl ⟨0x07, va, 0, 0, l.cow⟩, s)
      else judge (.mem (l.target va) l) s

/-- SHPSET (13 R265). s[a] ← the handle of the lowest free slot, set to a copy of the record; all ones when none is
free. -/
def execShpset (a b : Sel) (s : State) : Host.Outcome State Fault Refusal :=
  let i : Instr := .shpset a b
  issue i (fun g s =>
    match shapeRead s g (pairOf (reader s g g.lead) b).toNat with
    | (.inl t, s) => failAll g t s
    | (.inr ws, s) =>
      let ctx := (crewAt s g.slot).ctx
      match (List.range 1024).find? (fun n => (shapeAt s ctx n).record.isNone) with
      | none => advance i g (writeResult i a (fun _ => [0xFFFFFFFF]) g s)
      | some n =>
        advance i g (writeResult i a (fun _ => [(shapeAt s ctx n).gen ++ BitVec.ofNat 16 n]) g
          (modShape ctx n (fun x => { x with record := some ws }) s))) s

/-- SHPFREE (13 R266). Frees the slot that the handle names; its generation increments. -/
def execShpfree (b : Sel) (s : State) : Host.Outcome State Fault Refusal :=
  let i : Instr := .shpfree b
  issue i (fun g s =>
    let ctx := (crewAt s g.slot).ctx
    let h := reader s g g.lead b.toNat
    match shapeNamed s ctx h with
    | none => failAll g (trapHandle h) s
    | some _ => advance i g (modShape ctx (bits h.toNat 15 0) (fun x => { gen := x.gen + 1, record := none }) s)) s

/-- SHPRD (13 R266). s[a] to s[a+15] ← the words of the record. -/
def execShprd (a b : Sel) (s : State) : Host.Outcome State Fault Refusal :=
  let i : Instr := .shprd a b
  issue i (fun g s =>
    let h := reader s g g.lead b.toNat
    if a.toNat ≠ 96 ∧ a.toNat ≠ 112 then failAll g (trapC 0x04) s
    else
      match shapeNamed s (crewAt s g.slot).ctx h with
      | none => failAll g (trapHandle h) s
      | some ws => advance i g (writeResult i a (fun _ => (List.range 16).map (fun n => ws.getD n 0)) g s)) s

end Sys2Proof.Machine
end

