-- ==== Sys2Proof/Machine/Copy.lean ====
section
/-!
DEFINITION. The copy engine (13 R267 to R277, R284; 19 R362, R367), arrivals at synchronisation words (13 R279) and engine
counters (13 R277).
-/
namespace Sys2Proof.Machine

/-! ## Engine counters (13 R277) -/

/-- A crew's engine counter: CIN 0, COUT 1, MTX 2, NET 3. -/
def engineCount (c : Crew) (cls : Nat) : Nat :=
  if cls = 2 then c.jobs.length else (c.copies.filter (fun x => x.cls == cls)).length

/-- COUNTER_RETIRE (13 R277): complete operations retire in issue order within their class. -/
def retireCopies : List Copy → List Nat → List Copy
  | [], _ => []
  | c :: cs, blocked =>
    if c.done && !blocked.contains c.cls then retireCopies cs blocked else c :: retireCopies cs (c.cls :: blocked)

/-- The state with one copy of a crew changed, and what is complete retired. -/
def modCopy (slot id : Nat) (f : Copy → Copy) (s : State) : State :=
  modCrew slot (fun c => { c with copies := retireCopies (c.copies.map (fun x => if x.id = id then f x else x)) [] }) s

/-- A copy of a crew by its number. -/
def copyAt (s : State) (slot id : Nat) : Option Copy := (crewAt s slot).copies.find? (fun x => x.id == id)

/-! ## References (13 R278) and arrivals (13 R279) -/

/-- A place in a scratchpad: cluster, offset, window address. -/
structure ScratchRef where
  cl : Nat
  off : Nat
  va : Nat
  deriving DecidableEq, Repr, Inhabited

/-- Check 5 of 13 R269: what a reference names. A reference that names no window has no address: w4–w5 are a free
value. -/
def scratchRef (s : State) (slot : Nat) (ref : Word) : Trap ⊕ ScratchRef :=
  let off := bits ref.toNat 21 0
  let win := bits ref.toNat 24 22
  if bits ref.toNat 31 25 ≠ 0 ∨ (1 ≤ win ∧ win ≤ 3) then .inl (trapVa 0x06 (Config.freeWord s.nonce 1).toNat)
  else if win = 0 then .inr ⟨clusterOf slot, off, localBase + off⟩
  else
    let va := seamBase + (win - 4) * 0x400000 + off
    match (seamClusters s (crewAt s slot))[win - 4]? with
    | some cl => .inr ⟨cl, off, va⟩
    | none => .inl (trapVa 0x06 va)

/-- Checks 6 and 7 of 13 R269 for places with their size and alignment: all alignments first, then all limits, at the
reference's address. -/
def placesTrap (s : State) (ps : List (ScratchRef × Nat × Nat)) : Option Trap :=
  match ps.find? (fun p => p.1.off % p.2.2 != 0) with
  | some p => some (trapVa 0x05 p.1.va)
  | none =>
    match ps.find? (fun p => decide (scratchSize (clusterAt s p.1.cl) < p.1.off + p.2.1)) with
    | some p => some (trapVa 0x06 p.1.va)
    | none => none

/-- SYNC_ARRIVAL (13 R279): an arrival of `z` bytes at a sync word, one event. -/
def arrive (cl off z : Nat) (s : State) : State :=
  let c := clusterAt s cl
  let key := scratchKey c off
  let target := (syncField c key 0).toNat
  let sum := ((syncField c key 1).toNat + z) % 2 ^ 32
  let w3 := (syncField c key 3).toNat
  if target = 0 then bankStore cl (key + 4) (bytesOf 4 sum) s
  else
    let gen := (syncField c key 2).toNat + sum / target
    let w3new := if target ≤ sum ∧ sum % target ≠ 0 ∧ bitAt w3 16 = false then w3 + 65536 else w3
    bankStore cl key (bytesOf 4 target ++ bytesOf 4 (sum % target) ++ bytesOf 4 (gen % 2 ^ 32) ++ bytesOf 4 w3new) s

/-! ## Bytes of the register space -/

/-- A byte of the register space. -/
def spaceByte (c : Crew) (a : Nat) : Byte := ((tgetD c.space (a / 4) 0) >>> (a % 4 * 8)).setWidth 8

/-- A write of one byte of the register space. -/
def putSpaceByte (a : Nat) (b : Byte) (c : Crew) : Crew :=
  let w := tgetD c.space (a / 4) 0
  let sh := a % 4 * 8
  setSpace (a / 4) ((w &&& ~~~((0xFF : Word) <<< sh)) ||| (b.setWidth 32 <<< sh)) c

/-- A write of consecutive bytes of the register space. -/
def putSpace (a : Nat) : List Byte → Crew → Crew
  | [], c => c
  | b :: bs, c => putSpace (a + 1) bs (putSpaceByte a b c)

/-- TCOUNT and ACOUNT of a view (10 R193). -/
def viewCount (v : Word) : Nat := bits v.toNat 27 24

/-- The byte address of register `n` of a view (10 R194). -/
def viewAddr (v : Word) (n : Nat) : Nat := (bits v.toNat 19 16 + n) * 65536

/-! ## The memory side of a copy -/

/-- The first and the last byte that an element takes. -/
def elemBytes (e bit : Nat) : List Nat :=
  let a := bit / 8
  let z := ((bit + e - 1) / 8) % 2 ^ 64
  if a = z then [a] else [a, z]

/-- Each 64 KiB page that some elements touch, with the byte address of the first element that does, in order. -/
def pagesOf (e : Nat) (els : List Elem) : List (Nat × Nat) :=
  els.foldl (fun acc el =>
    match el with
    | .fill => acc
    | .bit b => (elemBytes e b).foldl (fun acc a =>
        if acc.any (·.1 == a / 65536) then acc else acc ++ [(a / 65536, b / 8)]) acc) []

/-- The elements of a box at an origin, in landed order. -/
def Geom.elems (g : Geom) (write : Bool) (org : List Int) : List Elem :=
  (List.range g.rows).flatMap (fun j => (List.range g.perRow).map (fun p => g.elem write org j p))

/-- A page that a copy uses: its number, the address that a record names, its leaf. A page of a window has none. -/
structure CopyPage where
  page : Nat
  va : Nat
  leaf : Option Leaf
  deriving DecidableEq, Repr, Inhabited

/-- Whether a page of a window lies in scratchpad that the crew reaches. -/
def windowPageOk (s : State) (slot page : Nat) : Bool :=
  match windowOf s slot (page * 65536) with
  | some (cl, o) => decide (o < scratchSize (clusterAt s cl))
  | none => false

/-- Checks 8 to 11 of 13 R269, each over all pages in order. A window access behaves as one to a normal page (10 R203). -/
def copyPagesTrap (s : State) (slot : Nat) (write sys : Bool) (ps : List CopyPage) : Option Trap :=
  let bad := fun (f : Leaf → CopyPage → Bool) => ps.find? (fun p => match p.leaf with
    | some l => f l p
    | none => false)
  match ps.find? (fun p => p.leaf.isNone && !(inRegion (p.page * 65536) && windowPageOk s slot p.page)) with
  | some p => some ⟨0x06, p.va, 0, 0, decide (p.page < 2 ^ 36) && !(inRegion (p.page * 65536))⟩
  | none =>
    match bad (fun l _ => l.badForm) with
    | some p => some (trapVa 0x0A p.va)
    | none =>
      match bad (fun l p => decide (2 ≤ l.type) || !(backed s (l.target (p.page * 65536)))) with
      | some p => some (trapVa 0x09 p.va)
      | none =>
        match bad (fun l _ => (write && (!l.writable || l.cow)) || (l.system && !sys)) with
        | some p => some ⟨0x07, p.va, 0, 0, (match p.leaf with
          | some l => l.cow
          | none => false)⟩
        | none => none

/-- Translates the pages that a copy uses; what it first caches sets AC (10 R213). -/
def copyPages (ctx : Nat) : List (Nat × Nat) → State → List CopyPage × State
  | [], s => ([], s)
  | p :: ps, s =>
    let va := p.1 * 65536
    let l := if va < 2 ^ 52 ∧ inRegion va = false then translate s ctx va else none
    let s' := match l with
      | some l => cacheLeaf ctx va l s
      | none => s
    let r := copyPages ctx ps s'
    (⟨p.1, p.2, l⟩ :: r.1, r.2)

/-- The leaf through which a copy reaches an address. -/
def copyLeaf (cp : Copy) (va : Nat) : Leaf := tgetD cp.pages (va / 65536) default

/-- The physical address that a copy's translation gives. -/
def copyPa (cp : Copy) (va : Nat) : Nat := (copyLeaf cp va).target va

/-- A byte of the memory side, and whether it is poisoned. -/
def copyByte (s : State) (slot : Nat) (cp : Copy) (va : Nat) : Byte × Bool :=
  if inRegion va then
    match windowOf s slot va with
    | some (cl, o) =>
      let key := scratchKey (clusterAt s cl) o
      (tgetD (clusterAt s cl).banks key 0, (clusterAt s cl).poison.contains key)
    | none => (0, false)
  else (seenByte s (copyLeaf cp va) (copyPa cp va), s.memPoison.contains (copyPa cp va))

/-- Bytes of a sector that is read: where it holds poison, all of them bear it (13 R270). -/
def tainted (bs : List (Byte × Bool)) : List (Byte × Bool) := bs.map (fun b => (b.1, bs.any (·.2)))

/-- A read event of a sector of the memory side; data that a link has corrupted bears poison (19 R358). -/
def sectorCells (s : State) (slot : Nat) (cp : Copy) (v : Nat) : List (Byte × Bool) :=
  let bad := !inRegion (v * 16) && spoiltRead s (copyPa cp (v * 16)) 16
  tainted ((List.range 16).map (fun j => let b := copyByte s slot cp (v * 16 + j); (b.1, b.2 || bad)))

/-- A write event of bytes of one sector of the memory side, by address, each with its poison. -/
def sectorPut (slot : Nat) (cp : Copy) (v : Nat) (cells : List (Nat × Byte × Bool)) (s : State) : State :=
  if inRegion (v * 16) then
    match windowOf s slot (v * 16) with
    | some (cl, o) =>
      let key := scratchKey (clusterAt s cl) o
      bankCells cl (cells.map (fun e => (key + e.1 % 16, e.2))) s
    | none => s
  else
    let lost := disputed s (copyPa cp (v * 16))
    cells.foldl (fun s e =>
      let s := storeUnless lost (copyPa cp e.1) [e.2.1] (packBytes (copyLeaf cp e.1) (copyPa cp e.1) 1 s)
      if e.2.2 then { s with memPoison := sadd s.memPoison (copyPa cp e.1) } else s) s

/-- The bytes that an element's bits lie in. -/
def elemSpan (e bit : Nat) : List Nat :=
  (List.range ((bit % 8 + e + 7) / 8)).map (fun j => (bit / 8 + j) % 2 ^ 64)

/-- The sectors that some elements touch, in order. -/
def sectorsOf (e : Nat) (els : List Elem) : List Nat :=
  (els.foldl (fun acc el =>
    match el with
    | .fill => acc
    | .bit b => (elemSpan e b).foldl (fun acc a => if acc.contains (a / 16) then acc else a / 16 :: acc) acc) []).reverse

/-- An element as it was read: its bits, and whether its source holds poison. -/
def readElem (cp : Copy) (g : Geom) (el : Elem) : Nat × Bool :=
  match el with
  | .fill => (g.fillBits, false)
  | .bit b =>
    let cells := (elemSpan g.e b).map (fun a => (tgetD cp.buf (a / 16) []).getD (a % 16) (0, false))
    (ofBytes (cells.map (·.1)) / 2 ^ (b % 8) % 2 ^ g.e, cells.any (·.2))

/-! ## Units of a copy -/

/-- Units of a landed row: its 16-byte chunks. -/
def Geom.unitsPerRow (g : Geom) : Nat := (g.rowBytes + 15) / 16

/-- Units of a box. -/
def Geom.units (g : Geom) : Nat := g.rows * g.unitsPerRow

/-- A unit of a copy: which box or target, which row, its first byte in the row's data. -/
structure CopyUnit where
  outer : Nat
  row : Nat
  byte : Nat
  deriving DecidableEq, Repr, Inhabited

/-- Unit number `u`. -/
def Geom.unit (g : Geom) (u : Nat) : CopyUnit :=
  { outer := u / g.units, row := u % g.units / g.unitsPerRow, byte := u % g.unitsPerRow * 16 }

/-- Bytes of data in a unit. -/
def CopyUnit.size (w : CopyUnit) (g : Geom) : Nat := min 16 (g.rowBytes - w.byte)

/-- The element of its row in which a unit begins. -/
def CopyUnit.first (w : CopyUnit) (g : Geom) : Nat := 8 * w.byte / g.e

/-- How many elements a unit holds parts of. -/
def CopyUnit.count (w : CopyUnit) (g : Geom) : Nat := (8 * (w.byte + w.size g) + g.e - 1) / g.e - w.first g

/-- Values of `e` bits each, the first lowest (04 R79). -/
def packBits (e : Nat) : List Nat → Nat
  | [] => 0
  | v :: vs => v + 2 ^ e * packBits e vs

/-- Elements of a unit. -/
def unitElems (g : Geom) (org : List Int) (w : CopyUnit) : List Elem :=
  (List.range (w.count g)).map (fun i => g.elem false org w.row (w.first g + i))

/-- The data of a unit, from sectors read: a byte is poisoned where an element that it holds part of is. -/
def unitData (cp : Copy) (g : Geom) (org : List Int) (w : CopyUnit) : List (Byte × Bool) :=
  let rs := (unitElems g org w).map (readElem cp g)
  let low := 8 * w.byte - w.first g * g.e
  let v := packBits g.e (rs.map (·.1)) / 2 ^ low
  (List.range (w.size g)).map (fun y => (BitVec.ofNat 8 (v / 256 ^ y), (rs.zipIdx).any (fun r =>
    r.1.2 && decide (r.2 * g.e < low + 8 * y + 8 ∧ low + 8 * y < (r.2 + 1) * g.e))))

/-- Lands a unit in scratchpad (13 R263): one event. -/
def landUnit (cl base : Nat) (g : Geom) (w : CopyUnit) (d : List (Byte × Bool)) (s : State) : State :=
  bankCells cl ((d.zipIdx).map (fun e => (scratchKey (clusterAt s cl) (base + g.landAt w.row (w.byte + e.2)), e.1))) s

/-- Reads a landed unit: one event. -/
def liftUnit (s : State) (cl base : Nat) (g : Geom) (w : CopyUnit) : List (Byte × Bool) :=
  let c := clusterAt s cl
  let key := fun y => scratchKey c (base + g.landAt w.row (w.byte + y))
  (tainted ((List.range 16).map (fun y => (tgetD c.banks (key y) 0, c.poison.contains (key y))))).take (w.size g)

/-- Writes a unit's data to its tile row, with the zeros after the row's data (13 R271). -/
def tileUnit (slot : Nat) (cp : Copy) (g : Geom) (w : CopyUnit) (d : List (Byte × Bool)) (s : State) : State :=
  modCrew slot (fun c =>
    let row := viewAddr c.viewT (cp.loc % 8) + (cp.loc / 8 % 128 + w.row) * 512
    let bs := d.map (·.1)
    let data := if w.byte + w.size g = g.rowBytes then bs ++ List.replicate (512 - g.rowBytes) 0 else bs
    let c := putSpace (row + w.byte) data { c with cover := [] }
    if d.any (·.2) then { c with spacePoison := sadd c.spacePoison ((row + w.byte) / 16) } else c) s

/-- Arrivals of a copy's bytes at its sync words; `only` picks one target. -/
def arrivals (cp : Copy) (only : Option Nat) (z : Nat) (s : State) : State :=
  match only with
  | some n => (match cp.sync[n]? with
    | some p => arrive p.1 p.2 z s
    | none => s)
  | none => cp.sync.foldl (fun s p => arrive p.1 p.2 z s) s

/-- A copy as it stands after a sector of its boxes has been read. -/
def Copy.take (s : State) (slot : Nat) (cp : Copy) (v : Nat) : Copy :=
  if cp.todo.contains v then
    { cp with buf := tset cp.buf v (sectorCells s slot cp v), todo := cp.todo.filter (fun x => x != v) }
  else cp

/-- A copy's reads of sectors take the errors with which a link returns their data. -/
def takeSectors (cp : Copy) (vs : List Nat) (s : State) : State :=
  if s.badReads.isEmpty then s
  else (vs.filter (fun v => cp.todo.contains v && !inRegion (v * 16))).foldl (fun s v => takeReads (copyPa cp (v * 16)) 16 s) s

/-- Whether a unit stands in ranges. -/
def inRanges (u : Nat) (rs : List (Nat × Nat)) : Bool := rs.any (fun r => decide (r.1 ≤ u ∧ u < r.2))

/-- Takes a unit out of ranges. -/
def cutRange (u : Nat) (rs : List (Nat × Nat)) : List (Nat × Nat) :=
  rs.flatMap (fun r =>
    if r.1 ≤ u ∧ u < r.2 then [(r.1, u), (u + 1, r.2)].filter (fun x => decide (x.1 < x.2)) else [r])

/-- A copy as it stands after a unit of the landed box has been read. -/
def Copy.lift (s : State) (cp : Copy) (u : Nat) : Copy :=
  if inRanges u cp.left then
    let g := geomOf cp.shape
    { cp with net := tset cp.net u (liftUnit s (cp.targets.getD 0 0) cp.loc g (g.unit u)), left := cutRange u cp.left }
  else cp

/-- The state with one copy of a crew as it now stands. -/
def setCopy (slot : Nat) (cp : Copy) (s : State) : State := modCopy slot cp.id (fun _ => cp) s

/-- A unit of a copy: the sectors of it that have not been read yet are read, it is written, and its bytes arrive (13 R268,
R276). A unit that goes elsewhere is only read. The bytes of each landed unit arrive at once, as one of the arrivals that R276
allows (log entry 74). -/
def performUnit (slot : Nat) (cp : Copy) (u : Nat) (s : State) : State :=
  let g := geomOf cp.shape
  let w := g.unit u
  let org := cp.boxes.getD (if cp.kind = .cpgath then w.outer else 0) []
  let vs := sectorsOf g.e (unitElems g org w)
  let full := vs.foldl (Copy.take s slot) cp
  let d := unitData full g org w
  let s' := setCopy slot { full with left := cutRange u cp.left } (takeSectors cp vs s)
  match cp.kind with
  | .cpin => arrivals cp none (w.size g) (landUnit (cp.targets.getD 0 0) cp.loc g w d s')
  | .cpinr => arrivals cp none (w.size g) (tileUnit slot cp g w d s')
  | .cpgath => arrivals cp none (w.size g) (landUnit (cp.targets.getD 0 0) (cp.loc + w.outer * g.size) g w d s')
  | .cpmc => arrivals cp (some w.outer) (w.size g) (landUnit (cp.targets.getD w.outer 0) cp.loc g w d s')
  | .cpout => setCopy slot (cp.lift s u) s
  | .cpnet false => setCopy slot { full with left := cutRange u cp.left, net := tset full.net u d } (takeSectors cp vs s)
  | .cpnet true => s

/-! ## Sectors that a copy writes -/

/-- The elements of a box that lie in a sector: bit address, landed row, place in the row. -/
def sectorElems (cp : Copy) (v : Nat) : List (Nat × Nat × Nat) :=
  let g := geomOf cp.shape
  (List.range g.rows).flatMap (fun j => (List.range g.perRow).filterMap (fun p =>
    match g.elem true (cp.boxes.getD 0 []) j p with
    | .bit b => if (elemSpan g.e b).any (fun a => a / 16 == v) then some (b, j, p) else none
    | .fill => none))

/-- The landed units that hold an element. -/
def elemUnits (g : Geom) (j p : Nat) : List Nat :=
  [j * g.unitsPerRow + p * g.e / 128, j * g.unitsPerRow + (p * g.e + g.e - 1) / 128]

/-- An element of the landed data: its bits, and whether it is poisoned. -/
def landedElem (cp : Copy) (g : Geom) (j p : Nat) : Nat × Bool :=
  let a := p * g.e / 8
  let cells := (List.range ((p * g.e + g.e - 1) / 8 - a + 1)).map (fun y =>
    (tgetD cp.net (j * g.unitsPerRow + (a + y) / 16) []).getD ((a + y) % 16) (0, false))
  (ofBytes (cells.map (·.1)) / 2 ^ (p * g.e % 8) % 2 ^ g.e, cells.any (·.2))

/-- Whether bit `k` of the byte at `a` belongs to the element of `e` bits at bit address `b`. -/
def elemHas (e b a k : Nat) : Bool := decide (b ≤ 8 * a + k ∧ 8 * a + k < b + e)

/-- A byte after the elements that lie in it have been written: the other bits stay, and so does their poison. -/
def writtenByte (e a : Nat) (old : Byte × Bool) (els : List (Nat × Nat × Bool)) : Byte × Bool :=
  let bit := fun k => els.foldl (fun x q => if elemHas e q.1 a k then q.2.1.testBit (8 * a + k - q.1) else x) (old.1.getLsbD k)
  (BitVec.ofNat 8 (((List.range 8).map (fun k => (bit k).toNat * 2 ^ k)).sum),
    els.any (·.2.2) || old.2 && !((List.range 8).all (fun k => els.any (fun q => elemHas e q.1 a k))))

/-- A sector of the element box is written from the landed data: the in-bounds elements in it (13 R262), one event. -/
def spillSector (slot : Nat) (cp : Copy) (v : Nat) (s : State) : State :=
  let g := geomOf cp.shape
  let els := (sectorElems cp v).map (fun q => (q.1, landedElem cp g q.2.1 q.2.2))
  sectorPut slot cp v ((List.range 16).filterMap (fun j =>
    let a := v * 16 + j
    let here := els.filter (fun q => (elemSpan g.e q.1).contains a)
    if here.isEmpty then none else some (a, writtenByte g.e a (copyByte s slot cp a) here))) s

/-- Whether a copy writes memory. -/
def writesMemory (cp : Copy) : Bool :=
  match cp.kind with
  | .cpout => true
  | .cpnet pull => pull
  | _ => false

/-- A sector of a copy's boxes: it is read, or written once what goes there has been read. -/
def performSector (slot : Nat) (cp : Copy) (v : Nat) (s : State) : State :=
  if writesMemory cp then
    let full := if cp.kind = .cpout then
        ((sectorElems cp v).flatMap (fun q => elemUnits (geomOf cp.shape) q.2.1 q.2.2)).foldl (Copy.lift s) cp
      else cp
    if cp.kind = .cpout ∨ cp.net ≠ [] then
      spillSector slot full v (setCopy slot { full with todo := cp.todo.filter (fun x => x != v) } s)
    else s
  else setCopy slot (cp.take s slot v) (takeSectors cp [v] s)

/-- Units of a copy in all. -/
def totalUnits (cp : Copy) : Nat :=
  let g := geomOf cp.shape
  match cp.kind with
  | .cpgath => g.units * cp.boxes.length
  | .cpmc => g.units * cp.targets.length
  | _ => g.units

/-- Bytes that a copy moves for one box. -/
def boxBytes (cp : Copy) : Nat := (geomOf cp.shape).rows * (geomOf cp.shape).rowBytes

/-- One part of a copy: a landed unit by its number, or, from there on, a sector of its boxes. -/
def performPart (slot : Nat) (cp : Copy) (n : Nat) (s : State) : State :=
  if n < totalUnits cp then (if inRanges n cp.left then performUnit slot cp n s else s)
  else if cp.todo.contains (n - totalUnits cp) then performSector slot cp (n - totalUnits cp) s
  else s

/-- The parts of a copy that are still to be done. -/
def partsLeft (cp : Copy) : List Nat :=
  cp.left.flatMap (fun r => (List.range (r.2 - r.1)).map (· + r.1)) ++ cp.todo.map (totalUnits cp + ·)

/-! ## Peers (13 R274, 19 R362, R367) -/

/-- The peer number, byte offset and direction of a peer reference. -/
def peerNo (p : DWord) : Nat := bits p.toNat 59 48
/-- The byte offset in the peer's window. -/
def peerOff (p : DWord) : Nat := bits p.toNat 47 0
/-- DIR: a pull. -/
def peerPull (p : DWord) : Bool := bitAt p.toNat 60

/-- An entry of a context's peer table; zero where nothing has been written. -/
def peerAt (s : State) (ctx p : Nat) : Peer :=
  tgetD (tgetD s.contexts ctx default).peers p { words := [0, 0, 0, 0, 0, 0, 0, 0], sent := 0, expected := 0 }

/-- VALID, RETRY, PORT and WLEN of an entry. -/
def Peer.valid (p : Peer) : Bool := bitAt (recWord p.words 6) 24
/-- Retransmissions after a timeout. -/
def Peer.retry (p : Peer) : Nat := bits (recWord p.words 6) 23 21
/-- The number of the Ethernet port. -/
def Peer.port (p : Peer) : Bool := bitAt (recWord p.words 6) 16
/-- TMO. -/
def Peer.tmo (p : Peer) : Nat := bits (recWord p.words 6) 20 17
/-- The window's length in bytes. -/
def Peer.windowLen (p : Peer) : Nat := recWord p.words 7 * 65536

/-- Whether the port of a peer entry carries traffic: with fewer than two trained lanes it is down (19 R365). -/
def portUp (s : State) (p : Peer) : Bool := decide (2 ≤ if p.port then s.units.lanes1 else s.units.lanes0)

/-- Packets of a message at an MTU of 4,096 bytes. -/
def packetsOf (n : Nat) : Nat := max 1 ((n + 4095) / 4096)

/-- The message of a CPNET: a push with its bytes in landed order, or a pull (19 R367). A push sends the bytes of poisoned sectors
as they stand, and no marker: the model's choice (log entry 73). -/
def netMessage (cp : Copy) (qp : Nat) (p : Peer) (psn : Word) : OutMsg :=
  match cp.kind with
  | .cpnet true => .pull qp p.words psn (peerOff cp.peer) (boxBytes cp)
  | _ => .push qp p.words psn (peerOff cp.peer) (cp.net.flatMap (fun u => u.2.map (·.1)))

/-- Puts a CPNET's message on the wire, unless its port is down. -/
def transmitNet (ctx : Nat) (cp : Copy) (psn : Word) (s : State) : State :=
  let p := peerAt s ctx (peerNo cp.peer)
  if portUp s p then { s with outbox := s.outbox ++ [netMessage cp (ctx * 4096 + peerNo cp.peer) p psn] } else s

/-- Sends a CPNET's message on its queue pair. -/
def sendNet (slot : Nat) (cp : Copy) (s : State) : State :=
  let ctx := (crewAt s slot).ctx
  let n := peerNo cp.peer
  let p := peerAt s ctx n
  let p' := { p with sent := BitVec.ofNat 32 ((p.sent.toNat + packetsOf (boxBytes cp)) % 2 ^ 24) }
  modCopy slot cp.id (fun x => { x with sent := true, psn := p.sent, sentAt := s.wall })
    (modCtx ctx (fun x => { x with peers := tset x.peers n p' }) (transmitNet ctx cp p.sent s))

/-- Whether a CPNET waits for its queue pair: an older one of the context to the same peer has not been sent yet (19 R367), or
it is a pull and 16 reads are outstanding there (19 R365). -/
def netBlocked (s : State) (ctx : Nat) (cp : Copy) : Bool :=
  let mates := s.crews.flatMap (fun e => if e.2.ctx = ctx then e.2.copies.filter (fun x =>
    x.cls == 3 && x.id != cp.id && peerNo x.peer == peerNo cp.peer) else [])
  mates.any (fun x => decide (x.id < cp.id) && !x.sent) ||
    (peerPull cp.peer && decide (16 ≤ (mates.filter (fun x => peerPull x.peer && x.sent && !x.done && x.net.isEmpty)).length))

/-- What follows when a copy has read all that it reads, or written all that it writes: a push's message; CPOUT's arrival, which
falls after the write events of the bytes that it counts (11 R226); the end (13 R276). `reading`: it had not read everything
before. CPOUT and CPNET add their bytes in one arrival, and a copy retires with its last arrival: the model's choices, where 13
R276 and R277 allow more (log entry 74). -/
def afterPart (slot : Nat) (reading : Bool) (cp : Copy) (s : State) : State :=
  let finish := modCopy slot cp.id (fun x => { x with done := true })
  match cp.kind with
  | .cpout =>
    if cp.left.isEmpty && cp.todo.isEmpty then finish (arrivals cp none (boxBytes cp) s) else s
  | .cpnet false => if reading && cp.left.isEmpty then sendNet slot cp s else s
  | .cpnet true => if !cp.net.isEmpty && cp.todo.isEmpty then finish (arrivals cp none (boxBytes cp) s) else s
  | _ => if cp.left.isEmpty then finish s else s

/-- A copy begins: a pull asks for its bytes, and one with nothing to do is complete at once. -/
def startCopy (slot : Nat) (cp : Copy) (s : State) : State :=
  match cp.kind with
  | .cpnet true => if netBlocked s (crewAt s slot).ctx cp then s else sendNet slot cp s
  | _ => afterPart slot true cp s

/-- A pull whose turn has come on its queue pair is asked for. -/
def startPulls (ctx : Nat) (s : State) : State :=
  (s.crews.filter (fun e => e.2.ctx == ctx)).foldl (fun s e =>
    (e.2.copies.filter (fun x => x.kind == .cpnet true && !x.sent)).foldl (fun s x => startCopy e.1 x s) s) s

/-- Whether a part of a copy can take place: a push or a pull waits for its turn on its queue pair. -/
def copyGoes (s : State) (slot : Nat) (cp : Copy) : Bool :=
  !cp.done && !(cp.cls == 3 && !cp.sent && netBlocked s (crewAt s slot).ctx cp)

/-- COPY_ARRIVAL for one part of a copy. -/
def copyStep (slot id n : Nat) (s : State) : State :=
  match copyAt s slot id with
  | none => s
  | some cp =>
    if copyGoes s slot cp then
      let s := performPart slot cp n s
      match copyAt s slot id with
      | some x => startPulls (crewAt s slot).ctx (afterPart slot (!cp.left.isEmpty) x s)
      | none => s
    else s

/-! ## Issue (13 R269) -/

/-- What a member takes besides its block: the destination clusters and offset, sync words, gather list and so on. -/
structure CopyPlan where
  kind : CopyKind
  cls : Nat
  write : Bool
  places : List (ScratchRef × Nat × Nat)
  targets : List Nat
  sync : List (Nat × Nat)
  list : Option (ScratchRef × Nat)
  peer : DWord
  deriving DecidableEq, Repr, Inhabited

/-- Sync word places. -/
def syncPlaces (rs : List ScratchRef) : List (ScratchRef × Nat × Nat) := rs.map (fun r => (r, 16, 16))

/-- Collects references, or the first trap. -/
def refsOf (s : State) (slot : Nat) : List Word → Trap ⊕ List ScratchRef
  | [] => .inr []
  | w :: ws =>
    match scratchRef s slot w with
    | .inl t => .inl t
    | .inr r => (match refsOf s slot ws with
      | .inl t => .inl t
      | .inr rs => .inr (r :: rs))

/-- A reference as a list: none for 0xFFFF_FFFF. -/
def syncWords (w : Word) : List Word := if w = 0xFFFFFFFF then [] else [w]

/-- The seam windows that a CPMC mask names, as references to an offset. -/
def maskRefs (mask off : Word) : List Word :=
  ([0, 1, 2, 3].filter (fun k => mask.getLsbD k)).map (fun k => off ||| BitVec.ofNat 32 ((4 + k) * 0x400000))

/-- The plan of a member with a location and a sync word: check 5, and the places of checks 6 and 7. -/
def landPlan (s : State) (slot : Nat) (kind : CopyKind) (cls : Nat) (write : Bool) (size : Nat) (loc sync : List Word)
    (list : Option (Word × Nat)) : Trap ⊕ CopyPlan :=
  match refsOf s slot loc, refsOf s slot sync with
  | .inl t, _ => .inl t
  | _, .inl t => .inl t
  | .inr ls, .inr ss =>
    let lst := list.map (fun p =>
      ((⟨clusterOf slot, bits p.1.toNat 21 0, localBase + bits p.1.toNat 21 0⟩ : ScratchRef), p.2))
    let lp := match lst with
      | some p => [(p.1, 8 * p.2, 8)]
      | none => []
    .inr { kind := kind, cls := cls, write := write, places := ls.map (fun r => (r, size, 16)) ++ syncPlaces ss ++ lp,
           targets := ls.map (·.cl), sync := ss.map (fun r => (r.cl, r.off)), list := lst, peer := 0 }

/-- The gathered origins: pairs (c_0, c_1) from the list, and c_2 to c_4 of the block (13 R272). An entry whose sector is poisoned
gives what its bytes hold, which the rule leaves open (log entry 73). -/
def gatherOrigins (s : State) (r : ScratchRef) (n : Nat) (org : List Int) : List (List Int) :=
  let c := clusterAt s r.cl
  (List.range n).map (fun i =>
    let w := fun j => (BitVec.ofNat 32 (ofBytes (bankBytes c (scratchKey c (r.off + 8 * i + 4 * j)) 4)) : Word).toInt
    [w 0, w 1, org.getD 2 0, org.getD 3 0, org.getD 4 0])

/-- The origins of a planned copy's boxes. -/
def CopyPlan.boxes (s : State) (org : List Int) (p : CopyPlan) : List (List Int) :=
  match p.list with
  | some l => gatherOrigins s l.1 l.2 org
  | none => [org]

/-- The elements of a planned copy's boxes. -/
def CopyPlan.elems (geo : Geom) (boxes : List (List Int)) (p : CopyPlan) : List Elem :=
  if p.kind = .cpmc ∧ p.targets = [] then [] else boxes.flatMap (fun b => geo.elems p.write b)

/-- What is made of a plan: checks 6, 7, the gathered origins, checks 8 to 12; then the copy, taken at issue
(13 R270). -/
def planCopy (s : State) (g : Group) (geo : Geom) (shape : List Word) (org : List Int) (loc : Nat) (p : CopyPlan) :
    (Trap ⊕ Copy) × State :=
  let c := crewAt s g.slot
  match placesTrap s p.places with
  | some t => (.inl t, s)
  | none =>
    let boxes := p.boxes s org
    if p.list.isSome && isBlockFmt geo.fmt && boxes.any (fun b => b.getD 0 0 % 32 != 0) then (.inl (trapC 0x0D), s)
    else
      let els := p.elems geo boxes
      let r := copyPages c.ctx (pagesOf geo.e els) s
      match copyPagesTrap r.2 g.slot p.write (runsSystem c) r.1 with
      | some t => (.inl t, r.2)
      | none =>
        if p.cls = 3 ∧ (peerAt s c.ctx (peerNo p.peer)).valid = false then
          (.inl (trapVa 0x06 p.peer.toNat), r.2)
        else
          let s' := if p.write then r.1.foldl (fun s q => match q.leaf with
            | some l => markLeaf l 11 s
            | none => s) r.2 else r.2
          let cp : Copy :=
            { id := s.uid, cls := p.cls, kind := p.kind, shape := shape, boxes := boxes, loc := loc, targets := p.targets,
              sync := p.sync, pages := r.1.foldl (fun t q => match q.leaf with
                | some l => tset t q.page l
                | none => t) [], peer := p.peer, buf := [], net := [], left := [], todo := sectorsOf geo.e els,
              sent := false, psn := 0, done := false, pc := g.pc,
              mask := BitVec.ofNat 32 ((g.keys.map (fun k => 2 ^ k)).sum), tries := 0, sentAt := 0, nak := false }
          let n := if p.kind = .cpnet true then 0 else totalUnits cp
          (.inr { cp with left := if n = 0 then [] else [(0, n)] }, { s' with uid := s'.uid + 1 })

/-- Whether a bank switch that waits at one of some clusters holds back new copies and jobs that use their banks (10 R200). -/
def heldBySwitch (s : State) (cls : List Nat) : Bool := s.clusters.any (fun c => !c.2.switches.isEmpty && cls.contains c.1)

/-- The clusters whose windows some addresses lie in. -/
def windowClusters (s : State) (slot : Nat) (vas : List Nat) : List Nat := vas.filterMap (fun va => (windowOf s slot va).map (·.1))

/-- The clusters whose banks a planned copy reads or writes: for its landed boxes, its sync words and its list, and, in a window,
its element boxes. -/
def CopyPlan.banks (s : State) (slot : Nat) (geo : Geom) (org : List Int) (p : CopyPlan) : List Nat :=
  p.places.map (·.1.cl) ++ (if (placesTrap s p.places).isSome then []
    else windowClusters s slot ((pagesOf geo.e (p.elems geo (p.boxes s org))).map (·.1 * 65536)))

/-- The clusters whose banks an outstanding copy has still to read or write. -/
def copyBanks (s : State) (slot : Nat) (cp : Copy) : List Nat :=
  cp.targets ++ cp.sync.map (·.1) ++ windowClusters s slot (cp.todo.map (· * 16))

/-- A counted member of the COPY family: it waits while its counter is at 63, then makes the checks of 13 R269 in order, where
from check 6 on it waits for a switch of the banks that it uses (10 R200). `limits` is check 3 and 4's own part: a trap or the
plan of check 5. -/
def copyOp (i : Instr) (cls : Nat) (a : Sel) (loc : Word → Nat)
    (plan : State → Group → Geom → (Nat → Word) → Trap ⊕ CopyPlan) (s : State) : Host.Outcome State Fault Refusal :=
  issue i (fun g s =>
    let c := crewAt s g.slot
    let fail := fun (t : Trap) (s : State) => failAll g t s
    if 63 ≤ engineCount c cls then wait .engine g s
    else if a.toNat % 8 ≠ 0 then fail (trapC 0x04) s
    else
      let r := fun j => reader s g g.lead (a.toNat + j)
      match shapeNamed s c.ctx (r 0) with
      | none => fail (trapHandle (r 0)) s
      | some ws =>
        match plan s g (geomOf ws) r with
        | .inl t => fail t s
        | .inr p =>
          let org := [(r 1).toInt, (r 2).toInt, (r 3).toInt, (r 4).toInt, (r 5).toInt]
          if heldBySwitch s (p.banks s g.slot (geomOf ws) org) then wait .engine g s
          else match planCopy s g (geomOf ws) ws org (loc (r 6)) p with
          | (.inl t, s) => fail t s
          | (.inr cp, s) =>
            startCopy g.slot cp (advance i g (modCrew g.slot (fun c => { c with copies := c.copies ++ [cp] }) s))) s

/-- Check 4 for a block format: c_0 a multiple of 32 (13 R269). -/
def blockOrigin (geo : Geom) (c0 : Word) : Bool := isBlockFmt geo.fmt && c0.toInt % 32 != 0

/-- The offset of a reference. -/
def refOffset (w : Word) : Nat := bits w.toNat 21 0

/-! ## Meanings -/

/-- Checks 3 to 5 of CPIN. -/
def cpinPlan (s : State) (g : Group) (geo : Geom) (r : Nat → Word) : Trap ⊕ CopyPlan :=
  if blockOrigin geo (r 1) then .inl (trapC 0x0D)
  else landPlan s g.slot .cpin 0 false geo.size [r 6] (syncWords (r 7)) none

/-- CPIN (13 R268). An element box to a landed box in scratchpad. -/
def execCpin (a : Sel) (s : State) : Host.Outcome State Fault Refusal :=
  copyOp (.cpin a) 0 a refOffset cpinPlan s

/-- Checks 3 to 5 of CPINR. -/
def cpinrPlan (s : State) (g : Group) (geo : Geom) (r : Nat → Word) : Trap ⊕ CopyPlan :=
  let w := (r 6).toNat
  if viewCount (crewAt s g.slot).viewT ≤ w % 8 then .inl (trapC 0x01)
  else if bits w 31 10 ≠ 0 ∨ 512 < geo.rowBytes ∨ 128 < w / 8 % 128 + geo.rows ∨ blockOrigin geo (r 1) then
    .inl (trapC 0x0D)
  else landPlan s g.slot .cpinr 0 false 0 [] (syncWords (r 7)) none

/-- CPINR (13 R271). An element box to rows of a tile register. -/
def execCpinr (a : Sel) (s : State) : Host.Outcome State Fault Refusal :=
  copyOp (.cpinr a) 0 a (fun w => w.toNat) cpinrPlan s

/-- Checks 3 to 5 of CPOUT. -/
def cpoutPlan (s : State) (g : Group) (geo : Geom) (r : Nat → Word) : Trap ⊕ CopyPlan :=
  if blockOrigin geo (r 1) then .inl (trapC 0x0D)
  else landPlan s g.slot .cpout 1 true geo.size [r 6] (syncWords (r 7)) none

/-- CPOUT (13 R268). A landed box in scratchpad to the in-bounds elements of a box. -/
def execCpout (a : Sel) (s : State) : Host.Outcome State Fault Refusal :=
  copyOp (.cpout a) 1 a refOffset cpoutPlan s

/-- Checks 3 to 5 of CPGATH, with the list word. -/
def cpgathPlan (w : Word) (s : State) (g : Group) (geo : Geom) (r : Nat → Word) : Trap ⊕ CopyPlan :=
  let n := bits w.toNat 31 22 + 1
  landPlan s g.slot .cpgath 0 false (n * geo.size) [r 6] (syncWords (r 7)) (some (w, n))

/-- CPGATH (13 R272). Element boxes named by a list to consecutive landed boxes. -/
def execCpgath (a b : Sel) (s : State) : Host.Outcome State Fault Refusal :=
  copyOp (.cpgath a b) 0 a refOffset (fun s g => cpgathPlan (reader s g g.lead b.toNat) s g) s

/-- Checks 3 to 5 of CPMC, with the mask. A mask that names none still has its references checked for their form and
alignment. -/
def cpmcPlan (m : Word) (s : State) (g : Group) (geo : Geom) (r : Nat → Word) : Trap ⊕ CopyPlan :=
  let win := fun (w : Word) => bits w.toNat 24 22 != 0
  if bits m.toNat 31 4 ≠ 0 ∨ win (r 6) ∨ ((r 7) ≠ 0xFFFFFFFF ∧ win (r 7)) ∨ blockOrigin geo (r 1) then .inl (trapC 0x0D)
  else if m = 0 then
    (match landPlan s g.slot .cpmc 0 false 0 [r 6] (syncWords (r 7)) none with
      | .inl t => .inl t
      | .inr p => .inr { p with targets := [], sync := [], places := p.places.filter (fun q => q.1.off % q.2.2 != 0) })
  else landPlan s g.slot .cpmc 0 false geo.size (maskRefs m (r 6)) ((syncWords (r 7)).flatMap (maskRefs m)) none

/-- CPMC (13 R273). An element box to a landed box in each named seam cluster. -/
def execCpmc (a b : Sel) (s : State) : Host.Outcome State Fault Refusal :=
  copyOp (.cpmc a b) 0 a refOffset (fun s g => cpmcPlan (reader s g g.lead b.toNat) s g) s

/-- Checks 3 to 5 of CPNET, with the peer reference. That s[a+6] is not zero raises 0x0D at check 4: the model's choice, since
the rule names no cause for it (log entry 57). -/
def cpnetPlan (p : DWord) (s : State) (g : Group) (geo : Geom) (r : Nat → Word) : Trap ⊕ CopyPlan :=
  let e := peerAt s (crewAt s g.slot).ctx (peerNo p)
  if bits p.toNat 63 61 ≠ 0 ∨ r 6 ≠ 0 ∨ blockOrigin geo (r 1) ∨
      (e.valid = true ∧ e.windowLen < peerOff p + geo.rows * geo.rowBytes) then .inl (trapC 0x0D)
  else
    match landPlan s g.slot (.cpnet (peerPull p)) 3 (peerPull p) 0 [] (syncWords (r 7)) none with
    | .inl t => .inl t
    | .inr q => .inr { q with peer := p }

/-- CPNET (13 R274). Pushes an element box to a peer's window, or pulls one from it. -/
def execCpnet (a b : Sel) (s : State) : Host.Outcome State Fault Refusal :=
  copyOp (.cpnet a b) 3 a (fun _ => 0) (fun s g => cpnetPlan (pairOf (reader s g g.lead) b) s g) s

/-- CPPF (13 R275). Brings the lines of a box's in-bounds elements nearer; only checks 1 and 2 of 13 R269 are made, and a
stale handle does nothing. -/
def execCppf (a b : Sel) (s : State) : Host.Outcome State Fault Refusal :=
  let i : Instr := .cppf a b
  issue i (fun g s =>
    let c := crewAt s g.slot
    if a.toNat % 8 ≠ 0 then failAll g (trapC 0x04) s
    else
      let r := fun j => reader s g g.lead (a.toNat + j)
      match shapeNamed s c.ctx (r 0) with
      | none => advance i g s
      | some ws =>
        let geo := geomOf ws
        let els := geo.elems true [(r 1).toInt, (r 2).toInt, (r 3).toInt, (r 4).toInt, (r 5).toInt]
        advance i g (els.foldl (fun s el => match el with
          | .fill => s
          | .bit x => (elemBytes geo.e x).foldl (fun s y => prefetch c.ctx (clusterOf g.slot) y b.toNat s) s) s)) s

/-! ## Steps -/

/-- COPY_ARRIVAL (13 R276, R226). One part of a copy takes place: its reads, its writes, and the arrival of its bytes. -/
def execCopyArrival (crew copy part : Nat) (s : State) : Host.Outcome State Fault Refusal :=
  .next (copyStep crew copy part s)

/-- CPNET_COMPLETE (11 R228, 19 R367). The peer acknowledges a push, or answers a pull with its bytes, which are then written. -/
def execCpnetComplete (crew copy : Nat) (data : List Byte) (s : State) : Host.Outcome State Fault Refusal :=
  match copyAt s crew copy with
  | none => .next s
  | some cp =>
    if cp.sent && !cp.done && portUp s (peerAt s (crewAt s crew).ctx (peerNo cp.peer)) then
      match cp.kind with
      | .cpnet false =>
        .next (startPulls (crewAt s crew).ctx (modCopy crew copy (fun x => { x with done := true }) (arrivals cp none (boxBytes cp) s)))
      | .cpnet true =>
        let g := geomOf cp.shape
        if cp.net = [] ∧ data.length = boxBytes cp then
          let x : Copy := { cp with net := (List.range g.units).foldl (fun t u =>
            let w := g.unit u
            tset t u (((data.drop (w.row * g.rowBytes + w.byte)).take (w.size g)).map (fun b => (b, false)))) [] }
          .next (startPulls (crewAt s crew).ctx (afterPart crew false x (setCopy crew x s)))
        else .next s
      | _ => .next s
    else .next s

/-- Whether a CPNET's message is on the wire: sent, and not answered yet. -/
def netWaits (cp : Copy) : Bool := cp.cls == 3 && cp.sent && !cp.done && cp.net.isEmpty == peerPull cp.peer

/-- Whether the local acknowledgement timeout of its peer entry has passed since a message was last sent: 4.096 µs × 2^(TMO +
4). -/
def netTimedOut (s : State) (p : Peer) (cp : Copy) : Bool := decide (4096 * 2 ^ (p.tmo + 4) ≤ (s.wall - cp.sentAt) * 1000)

/-- Whether a CPNET's message is to be sent again. -/
def resendDue (s : State) (slot : Nat) (cp : Copy) : Bool :=
  let p := peerAt s (crewAt s slot).ctx (peerNo cp.peer)
  netWaits cp && !cp.nak && portUp s p && netTimedOut s p cp && decide (cp.tries < p.retry)

/-- Whether a transport failure is declared: RETRY retransmissions have each timed out, the port is down, or a NAK has arrived
(19 R362). -/
def failureDue (s : State) (slot : Nat) (cp : Copy) : Bool :=
  let p := peerAt s (crewAt s slot).ctx (peerNo cp.peer)
  netWaits cp && (cp.nak || !(portUp s p) || (netTimedOut s p cp && decide (p.retry ≤ cp.tries)))

/-- NET_RETRANSMIT_TIMEOUT (19 R362). A message that has not been answered in time is sent again, at most RETRY times. -/
def execNetRetransmitTimeout (crew copy : Nat) (s : State) : Host.Outcome State Fault Refusal :=
  match copyAt s crew copy with
  | none => .next s
  | some cp =>
    .next (if resendDue s crew cp then
      modCopy crew copy (fun x => { x with tries := x.tries + 1, sentAt := s.wall }) (transmitNet (crewAt s crew).ctx cp cp.psn s)
    else s)

/-- A NAK arrives for an outstanding CPNET (19 R362). -/
def takeNak (crew copy : Nat) (s : State) : State := modCopy crew copy (fun x => { x with nak := x.nak || netWaits x }) s

/-- A pull whose bytes are unspecified (13 R274): free ones, for all that it was to write. -/
def scrambledPull (s : State) (cp : Copy) : Copy :=
  let g := geomOf cp.shape
  { cp with
    net := (List.range g.units).foldl (fun t u => tset t u ((List.range ((g.unit u).size g)).map (fun y =>
      ((Config.freeWord s.nonce (u * 16 + y)).setWidth 8, false)))) []
    todo := sectorsOf g.e (g.elems true (cp.boxes.getD 0 [])) }

/-- A CPNET has failed: an asynchronous 0x0D names its peer reference, and it retires with no arrival (13 R274). -/
def dropNet (slot : Nat) (cp : Copy) (s : State) : State :=
  let s := if peerPull cp.peer then
      let x := scrambledPull s cp
      x.todo.foldl (fun s v => spillSector slot x v s) { s with nonce := s.nonce + 1 }
    else s
  let ctx := (crewAt s slot).ctx
  modCopy slot cp.id (fun x => { x with done := true, sent := true, left := [], todo := [] })
    (postAsync ctx slot cp.pc 0x0D cp.peer.toNat 0 0 0 s)

/-- The transport of a CPNET has failed; pulls that waited for it on its queue pair are asked for. -/
def failNet (slot : Nat) (cp : Copy) (s : State) : State := startPulls (crewAt s slot).ctx (dropNet slot cp s)

/-- NET_TRANSPORT_FAILURE (13 R274, 19 R362). A transport failure is declared for an outstanding CPNET whose transport has
failed. -/
def execNetTransportFailure (crew copy : Nat) (s : State) : Host.Outcome State Fault Refusal :=
  match copyAt s crew copy with
  | some cp => .next (if failureDue s crew cp then failNet crew cp s else s)
  | none => .next s

end Sys2Proof.Machine
end

