-- ==== Sys2Proof/Machine/Sync.lean ====
section
/-!
DEFINITION. The SYNC family (13 R278 to R283): synchronisation words and engine counters.
-/
namespace Sys2Proof.Machine

/-- The checks of a member's sync reference, checks 5 to 7 of 13 R269 (13 R280). -/
def syncRef (s : State) (slot : Nat) (ref : Word) : Trap ⊕ ScratchRef :=
  match scratchRef s slot ref with
  | .inl t => .inl t
  | .inr r => (match placesTrap s [(r, 16, 16)] with
    | some t => .inl t
    | none => .inr r)

/-- A member of the SYNC family that acts on a sync word, once for the group; `first` is a check before the
reference's. On a poisoned sector it raises nothing and uses the stored bytes, and SYINIT, like an arrival, clears the markers of
what it writes, all of which 13 R280 leaves open (log entry 73). -/
def syncOp (i : Instr) (a : Sel) (first : Group → State → Option Trap) (eff : Group → ScratchRef → State → State)
    (s : State) : Host.Outcome State Fault Refusal :=
  issue i (fun g s =>
    let fail := fun (t : Trap) => failAll g t s
    match first g s with
    | some t => fail t
    | none => (match syncRef s g.slot (reader s g g.lead a.toNat) with
      | .inl t => fail t
      | .inr r => eff g r s)) s

/-- SYINIT (13 R281). TARGET ← s[b], ARRIVED ← 0, OVER cleared; GEN and WAITERS stay. -/
def execSyinit (a b : Sel) (s : State) : Host.Outcome State Fault Refusal :=
  syncOp (.syinit a b) a (fun g s =>
    let n := (reader s g g.lead b.toNat).toNat
    if n = 0 ∨ 0x80000000 < n then some (trapC 0x0D) else none)
    (fun g r s =>
      let key := scratchKey (clusterAt s r.cl) r.off
      let w3 := (syncField (clusterAt s r.cl) key 3).toNat
      advance (.syinit a b) g
        (bankStore r.cl (key + 12) (bytesOf 4 (if bitAt w3 16 then w3 - 65536 else w3))
          (bankStore r.cl key (bytesOf 4 (reader s g g.lead b.toNat).toNat ++ bytesOf 4 0) s))) s

/-- SYARR (13 R281). One arrival of s[b] bytes. -/
def execSyarr (a b : Sel) (s : State) : Host.Outcome State Fault Refusal :=
  syncOp (.syarr a b) a (fun g s =>
    if 0x80000000 < (reader s g g.lead b.toNat).toNat then some (trapC 0x0D) else none)
    (fun g r s =>
      let z := (reader s g g.lead b.toNat).toNat
      advance (.syarr a b) g (if z = 0 then s else arrive r.cl r.off z s)) s

/-- SYWAIT (13 R282). Holds the group until the generation has passed s[b]; WAITERS counts the group while it waits. -/
def execSywait (a b : Sel) (s : State) : Host.Outcome State Fault Refusal :=
  syncOp (.sywait a b) a (fun _ _ => none)
    (fun g r s =>
      let c := clusterAt s r.cl
      let key := scratchKey c r.off
      let gen := reader s g g.lead b.toNat
      if genPassed (syncField c key 2) gen then advance (.sywait a b) g s
      else
        let n := (syncField c key 3).toNat % 65536
        wait (.sync r.cl r.off r.va gen s.nonce) g (bankPut r.cl (key + 12) (bytesOf 2 (min (n + 1) 0xFFFF)) s)) s

/-- SYTEST (13 R282). s[b] ← GEN, s[b+1] ← ARRIVED. -/
def execSytest (a b : Sel) (s : State) : Host.Outcome State Fault Refusal :=
  syncOp (.sytest a b) a (fun _ _ => none)
    (fun g r s =>
      let c := clusterAt s r.cl
      let key := scratchKey c r.off
      advance (.sytest a b) g (writeResult (.sytest a b) b (fun _ => [syncField c key 2, syncField c key 1]) g s)) s

/-- WAITC (13 R283). Holds the group until the crew's counter of the class holds at most n. -/
def execWaitc (c n : Sel) (s : State) : Host.Outcome State Fault Refusal :=
  issue (.waitc c n) (fun g s =>
    if engineCount (crewAt s g.slot) c.toNat ≤ n.toNat then advance (.waitc c n) g s else wait .engine g s) s

/-- CNTRD (13 R283). s[a] ← the counter's value. -/
def execCntrd (a c : Sel) (s : State) : Host.Outcome State Fault Refusal :=
  issue (.cntrd a c) (fun g s =>
    advance (.cntrd a c) g
      (writeResult (.cntrd a c) a (fun _ => [BitVec.ofNat 32 (engineCount (crewAt s g.slot) c.toNat)]) g s)) s

end Sys2Proof.Machine
end

