-- ==== Sys2Proof/Machine/Blocks.lean ====
section
/-!
DEFINITION. Job and post blocks of the matrix engine, and the checks of MMA, MMAS, MRAST and MFILT at issue (14 R289 to
R294, R298, R300, R303; 15 R314, R315, R318 to R320, R323).
-/
namespace Sys2Proof.Machine

/-! ## Formats (14 R292) -/

/-- The group of an operand format, by its element count per step: 256, 512 or 1,024; 0 outside every group. -/
def stepElems (fmt : Nat) : Nat :=
  if fmt = 0x09 ∨ fmt = 0x0A then 256
  else if [0x0B, 0x0C, 0x0D, 0x0E, 0x0F, 0x10, 0x12, 0x01, 0x00].contains fmt then 512
  else if fmt = 0x11 then 1024
  else 0

/-- Formats that may be read transposed. -/
def mayTranspose (fmt : Nat) : Bool := [0x09, 0x0A, 0x0B, 0x0C, 0x01, 0x00].contains fmt

/-- Whether a code is an MX block format (04 R75). -/
def isMx (fmt : Nat) : Bool := decide (0x0D ≤ fmt ∧ fmt ≤ 0x12)

/-! ## Operands (14 R291, R293) -/

/-- One side of an MMA: its format, how it is read, its operand words and its scales. -/
structure Side where
  fmt : Nat
  tr : Bool
  inc : Nat
  scratch : Bool
  w0 : Nat
  w1 : Nat
  scl : Nat
  scp : Nat
  deriving DecidableEq, Repr, Inhabited

/-- The A side of a job block. -/
def sideA (j : List Word) : Side :=
  let w := recWord j
  { fmt := bits (w 0) 4 0, tr := bitAt (w 0) 24, inc := bits (w 0) 22 22, scratch := bitAt (w 0) 20, w0 := w 2, w1 := w 3,
    scl := w 6, scp := w 7 }

/-- The B side of a job block. -/
def sideB (j : List Word) : Side :=
  let w := recWord j
  { fmt := bits (w 0) 12 8, tr := bitAt (w 0) 25, inc := bits (w 0) 23 23, scratch := bitAt (w 0) 21, w0 := w 4, w1 := w 5,
    scl := w 8, scp := w 9 }

/-- Row pitch of a scratchpad operand descriptor. -/
def descPitch (w1 : Nat) : Nat := bits w1 15 0
/-- Tile pitch in bytes. -/
def descStep (w1 : Nat) : Nat := bits w1 27 16 * 64
/-- Rotation. -/
def descRot (w1 : Nat) : Nat := bits w1 31 28

/-- Where byte `y` of row `r` of a rotated layout stands (14 R293). -/
def rotated (base pitch rot r y : Nat) : Nat := base + r * pitch + (y ^^^ (r % 2 ^ rot * 16))

/-- Bytes of a row that an operand is read by: a line of its own, or of its transpose. -/
def Side.lineBytes (d : Side) : Nat :=
  if d.tr then 128 * fmtWidth d.fmt / 8 else stepElems d.fmt * fmtWidth d.fmt / 8

/-- Rows that an operand is read by. -/
def Side.lines (d : Side) : Nat := if d.tr then stepElems d.fmt else 128

/-- K steps of a job. -/
def jobCount (j : List Word) : Nat := bits (recWord j 1) 15 0

/-! ## What the checks look at -/

/-- What a block asks for at checks 2 to 5: register numbers out of their counts, a broken field map, and the places that
must be aligned (value, multiple, offset) and end below the scratchpad's size (offset of the last byte). -/
structure BlockCheck where
  badReg : Bool
  badMap : Bool
  aligned : List (Nat × Nat × Nat)
  ends : List Nat
  deriving DecidableEq, Repr, Inhabited

/-- Both of two checks, the first before the second. -/
def BlockCheck.and (a b : BlockCheck) : BlockCheck :=
  ⟨a.badReg || b.badReg, a.badMap || b.badMap, a.aligned ++ b.aligned, a.ends ++ b.ends⟩

/-- The field map of a side. -/
def Side.badMap (d : Side) : Bool :=
  stepElems d.fmt == 0 || (d.tr && !mayTranspose d.fmt) ||
    (if d.scratch then decide (2 ^ 22 ≤ d.w0) || decide (3 < descRot d.w1) else decide (8 ≤ d.w0) || d.w1 != 0) ||
    (if isMx d.fmt then decide (2 ^ 22 ≤ d.scl) else d.scl != 0) || decide (2 ^ 16 ≤ d.scp)

/-- The alignment of a side (14 R291). -/
def Side.places (d : Side) : List (Nat × Nat × Nat) :=
  if d.scratch then [(d.w0, 16, d.w0), (descPitch d.w1, if descRot d.w1 = 0 then 16 else 128, d.w0)] else []

/-- The last byte that a side's footprint can take over `n` steps (14 R293, R294). -/
def Side.ends (d : Side) (n : Nat) : List Nat :=
  (if d.scratch then [d.w0 + (n - 1) * descStep d.w1 + (d.lines - 1) * descPitch d.w1 + d.lineBytes - 1] else []) ++
    (if isMx d.fmt then [d.scl + 127 * d.scp + n * (stepElems d.fmt / 32) - 1] else [])

/-- Whether a tile operand leaves the tile view over `n` steps; a COUNT of 0 takes its number back (14 R290). -/
def Side.badTile (d : Side) (c : Crew) (n : Nat) : Bool :=
  !d.scratch && decide ((viewCount c.viewT : Int) ≤ (d.w0 % 8 : Nat) + ((n : Int) - 1) * (d.inc : Nat))

/-- The checks of an MMA or MMAS job block (14 R290 to R294, R298). -/
def mmaCheck (c : Crew) (sparse : Bool) (j : List Word) : BlockCheck :=
  let w := recWord j
  let a := sideA j
  let b := sideB j
  let n := jobCount j
  let ke := stepElems a.fmt
  let kv := w 12
  let nb := if sparse then 2 * n else n
  { badReg := decide (viewCount c.viewA ≤ bits (w 0) 18 16) || a.badTile c n || b.badTile c nb
    badMap :=
      bits (w 0) 31 26 != 0 || bits (w 0) 15 13 != 0 || bits (w 0) 7 5 != 0 || decide (2 ^ 16 ≤ w 1) || n == 0 ||
        ke != stepElems b.fmt || a.badMap || b.badMap || w 13 != 0 || w 14 != 0 || w 15 != 0 ||
        (if sparse then
          a.tr || !(mayTranspose a.fmt && mayTranspose b.fmt) || decide (2 ^ 22 ≤ w 10) || decide (2 ^ 16 ≤ w 11) ||
            decide (2 ^ 11 ≤ kv) || decide (2 * ke < kv) || kv % 4 != 0
        else w 10 != 0 || w 11 != 0 || decide (2 ^ 11 ≤ kv) || decide (ke < kv))
    aligned := a.places ++ b.places
    ends := a.ends n ++ b.ends nb ++ (if sparse then [w 10 + 127 * w 11 + n * (ke / 4) - 1] else []) }

/-- The checks of an MRAST job block (15 R315). -/
def rastCheck (c : Crew) (j : List Word) : BlockCheck :=
  let w := recWord j
  let z := bits (w 0) 12 11
  { badReg := decide (viewCount c.viewA ≤ bits (w 0) 10 8)
    badMap :=
      bits (w 0) 31 13 != 0 || bitAt (w 0) 7 || decide (2 ^ 22 ≤ w 1) || decide (2 ^ 16 ≤ w 2) || decide (w 2 < 80) ||
        decide (2 ^ 22 ≤ w 3) || (z == 0 && w 3 != 0) || (List.range 12).any (fun k => w (k + 4) != 0)
    aligned := [(w 1, 16, w 1), (w 2, 16, w 1), (w 3, 16, w 3)]
    ends := [w 1 + bits (w 0) 6 0 * w 2 + 79] ++ (if z = 0 then [] else [w 3 + 1023]) }

/-- Bytes of a texel element (15 R323). -/
def texelBytes (fmt : Nat) : Nat := if fmt = 0x09 ∨ fmt = 0x0A then 2 else 1

/-- The checks of an MFILT job block (15 R323). -/
def filtCheck (c : Crew) (j : List Word) : BlockCheck :=
  let w := recWord j
  let mode := bits (w 0) 13 12
  let fmt := bits (w 0) 4 0
  let n := jobCount j
  let ch := bits (w 1) 29 23 + 1
  let trow := bits (w 3) 31 16
  let pp := bits (w 3) 15 0
  let eb := texelBytes fmt
  { badReg := decide (viewCount c.viewA ≤ bits (w 0) 10 8)
    badMap :=
      bits (w 0) 31 14 != 0 || bits (w 0) 7 5 != 0 || decide (2 ≤ mode) || !([0x09, 0x0A, 0x0B, 0x0C, 0x14].contains fmt) ||
        bits (w 1) 31 30 != 0 || n == 0 || decide (2 ^ 22 ≤ w 2) || decide (2 ^ 22 ≤ w 4) || decide (2 ^ 22 ≤ w 5) ||
        (mode == 0 && (trow != 0 || w 5 != 0)) || (List.range 10).any (fun k => w (k + 6) != 0)
    aligned := [(w 2, 16, w 2), (trow, 16, w 2), (pp, 16, w 2), (w 4, 16, w 2), (w 5, 16, w 5)]
    ends :=
      [w 2 + (n - 1) * w 4 + bits (w 1) 22 16 * pp + mode * trow + (mode * ch + ch - 1) * eb + eb - 1] ++
        (if mode = 0 then [] else [w 5 + n * 256 - 1]) }

/-! ## The post block (14 R300, R303; 15 R318 to R320) -/

/-- The fields of P0 and the blend word. -/
structure Post where
  sye : Bool
  cols : Nat
  rows : Nat
  draw : Nat
  act : Nat
  sbe : Bool
  satf : Bool
  ofmt : Nat
  dest : Nat
  w : List Word
  deriving DecidableEq, Repr, Inhabited

/-- A post block's fields. -/
def postOf (p : List Word) : Post :=
  let w := recWord p 0
  { sye := bitAt w 29, cols := bits w 28 22 + 1, rows := bits w 21 15 + 1, draw := bits w 14 13, act := bits w 12 11,
    sbe := bitAt w 10, satf := bitAt w 9, ofmt := bits w 8 4, dest := bits w 1 0, w := p }

/-- PLANAR of a blend (15 R320). -/
def Post.planar (p : Post) : Bool := decide (2 ≤ p.draw) && bitAt (recWord p.w 6) 11

/-- Whether a blend reads visibility. -/
def Post.visible (p : Post) : Bool := decide (2 ≤ p.draw) && !bitAt (recWord p.w 6) 10

/-- Rows of the destination that the stage writes. -/
def Post.outRows (p : Post) : Nat := if p.planar then p.cols else p.rows

/-- Bytes of a destination row that it writes. -/
def Post.rowBytes (p : Post) : Nat := (if p.planar then p.rows else p.cols) * fmtWidth p.ofmt / 8

/-- The drawing modes that a loop form accepts (15 R318). -/
def drawAccepted (kind : JobKind) (draw : Nat) : Bool :=
  draw == 0 || (if kind = .mrast then draw == 1 else decide (2 ≤ draw))

/-- Output formats (14 R300). -/
def outFormat (f : Nat) : Bool := decide (f ≤ 5) || decide (0x08 ≤ f ∧ f ≤ 0x12) || f == 0x14 || f == 0x15

/-- The words P3 to P7 and the limits of a block with a destination, by drawing mode. -/
def Post.badWords (p : Post) : Bool :=
  let w := recWord p.w
  (if p.sbe then decide (2 ^ 22 ≤ w 3) else w 3 != 0) ||
    (if p.act = 3 then decide (2 ^ 22 ≤ w 4) || w 5 != 0 else p.act != 2 && (w 4 != 0 || w 5 != 0)) ||
    (!p.sye && w 7 != 0) ||
    (if p.draw = 0 then (if isMx p.ofmt then decide (2 ^ 22 ≤ w 6) else w 6 != 0)
    else if p.draw = 1 then
      p.dest != 2 || p.ofmt != 0 || p.rows != 1 || p.cols != 128 || p.sbe || p.act != 0 || p.satf || w 3 != 0 ||
        w 4 != 0 || w 5 != 0 || w 6 != 0
    else
      p.dest != 2 || isMx p.ofmt || bits (w 6) 31 25 != 0 || bits (w 6) 15 12 != 0 ||
        (if p.draw = 2 then decide (256 < bits (w 6) 24 16) else bits (w 6) 24 16 != 0) ||
        (bitAt (w 6) 10 && bits (w 6) 9 0 != 0))

/-- Check 3 of a post block. -/
def Post.badMap (p : Post) (kind : JobKind) : Bool :=
  let w := recWord p.w
  if p.dest = 0 then p.w.any (· != 0)
  else
    bits (w 0) 31 30 != 0 || bits (w 0) 3 2 != 0 || p.dest == 3 || !(outFormat p.ofmt) || !(drawAccepted kind p.draw) ||
      (p.satf && !(decide (0x08 ≤ p.ofmt ∧ p.ofmt ≤ 0x0C))) || (isMx p.ofmt && p.cols % 32 != 0) || p.badWords ||
      (if p.dest = 1 then
        bits (w 1) 31 10 != 0 || w 2 != 0 || decide (512 < p.rowBytes) || decide (128 < bits (w 1) 9 3 + p.rows)
      else decide (2 ^ 22 ≤ w 1) || bits (w 2) 27 16 != 0 || decide (3 < descRot (w 2)))

/-- The greatest number of a list, 0 of none. -/
def listMax (l : List Nat) : Nat := l.foldl max 0

/-- The last byte that the destination's rows take in scratchpad. -/
def Post.lastByte (p : Post) : Nat :=
  let w := recWord p.w
  listMax ((List.range p.outRows).map (fun r =>
    listMax ((List.range p.rowBytes).map (fun y => rotated (w 1) (descPitch (w 2)) (descRot (w 2)) r y))))

/-- The window address that a sync reference names, for an alignment record. -/
def syncOffset (ref : Nat) : Nat :=
  if bits ref 24 22 < 4 then bits ref 21 0
  else seamBase - localBase + (bits ref 24 22 - 4) * 0x400000 + bits ref 21 0

/-- The checks of a post block. -/
def postCheck (c : Crew) (kind : JobKind) (pw : List Word) : BlockCheck :=
  let p := postOf pw
  let w := recWord pw
  let used := p.dest != 0
  { badReg :=
      (p.dest == 1 && decide (viewCount c.viewT ≤ w 1 % 8)) ||
        (used && p.visible && drawAccepted kind p.draw && decide (viewCount c.viewA ≤ w 6 % 8))
    badMap := p.badMap kind
    aligned :=
      (if p.dest = 2 then [(w 1, 16, w 1), (descPitch (w 2), if descRot (w 2) = 0 then 16 else 128, w 1)] else []) ++
        (if used && p.sbe then [(w 3, 16, w 3)] else []) ++ (if used && p.act == 3 then [(w 4, 16, w 4)] else []) ++
        (if used && p.sye then [(bits (w 7) 21 0, 16, syncOffset (w 7))] else [])
    ends :=
      (if p.dest = 2 then [p.lastByte] else []) ++ (if used && p.sbe then [w 3 + 1023] else []) ++
        (if used && p.act == 3 then [w 4 + 255] else []) ++
        (if used && isMx p.ofmt then [w 6 + p.rows * p.cols / 32 - 1] else []) }

/-- What the check of a job block of a kind looks at. -/
def jobCheck (c : Crew) (kind : JobKind) (j : List Word) : BlockCheck :=
  match kind with
  | .mma => mmaCheck c false j
  | .mmas => mmaCheck c true j
  | .mrast => rastCheck c j
  | .mfilt => filtCheck c j
  | .mzero _ _ => ⟨false, false, [], []⟩

/-- The clusters whose banks a job reads or writes: its own, where its blocks name a place of the local scratchpad, and that of
its sync word (10 R200). -/
def jobBanks (s : State) (slot : Nat) (kind : JobKind) (j p : List Word) : List Nat :=
  let c := crewAt s slot
  let post := postOf p
  (if ((jobCheck c kind j).and (postCheck c kind p)).ends.isEmpty then [] else [clusterOf slot]) ++
    (if post.dest != 0 && post.sye then (match scratchRef s slot (p.getD 7 0) with
      | .inr r => [r.cl]
      | .inl _ => []) else [])

/-! ## The checks in order (14 R290) -/

/-- Checks 2 to 5 of a loop instruction. -/
def blockTrap (s : State) (slot : Nat) (k : BlockCheck) (pw : List Word) : Option Trap :=
  let size := scratchSize (clusterAt s (clusterOf slot))
  if k.badReg then some (trapC 0x01)
  else if k.badMap then some (trapC 0x0D)
  else match k.aligned.find? (fun e => e.1 % e.2.1 != 0) with
    | some e => some (trapVa 0x05 (localBase + e.2.2))
    | none => (match k.ends.find? (fun x => decide (size ≤ x)) with
      | some x => some (trapVa 0x06 (localBase + x))
      | none =>
        if (postOf pw).dest != 0 && (postOf pw).sye then
          (match syncRef s slot (pw.getD 7 0) with
            | .inl _ => some (trapVa 0x06 (localBase + bits (pw.getD 7 0).toNat 21 0))
            | .inr _ => none)
        else none)

end Sys2Proof.Machine
end

