-- ==== Sys2Proof/Machine/Banks.lean ====
section
/-!
DEFINITION. Bank modes, owners and switches of cluster SRAM (10 R198 to R201, R205).
-/
namespace Sys2Proof.Machine

/-- The mode of bank `b` after a write of BANKMODE: an absent bank and a field of 3 stay (10 R198). -/
def modeAfter (c : Cluster) (v : DWord) (b : Nat) : Nat :=
  let w := bits v.toNat (2 * b + 1) (2 * b)
  if bankModeOf c b = 3 ∨ w = 3 then bankModeOf c b else w

/-- Whether a write of BANKMODE switches at least one bank. -/
def switches (c : Cluster) (v : DWord) : Bool := (List.range 32).any (fun b => modeAfter c v b != bankModeOf c b)

/-- Whether a bank is in scratchpad or FIFO mode. -/
def ownedMode (m : Nat) : Bool := m == 1 || m == 2

/-- Whether a write leaves some bank in scratchpad or FIFO mode, so that the cluster has an owner (10 R199). -/
def makesOwner (c : Cluster) (v : DWord) : Bool := (List.range 32).any (fun b => ownedMode (modeAfter c v b))

/-- Whether the cluster's owner keeps a context from switching its banks (10 R199). -/
def ownedByOther (c : Cluster) (ctx : Nat) : Bool :=
  match c.owner with
  | some o => o != ctx
  | none => false

/-- Whether an engine operation that reads or writes a cluster's banks has not completed (10 R200, step 2). -/
def enginesReach (s : State) (cl : Nat) : Bool :=
  s.crews.any (fun e => e.2.copies.any (fun x => !x.done && (copyBanks s e.1 x).contains cl) ||
    e.2.jobs.any (fun x => (jobBanks s e.1 x.kind x.j x.p).contains cl))

/-- Whether a crew of another context is resident on a cluster. -/
def othersOn (s : State) (cl ctx : Nat) : Bool := s.crews.any (fun e => clusterOf e.1 == cl && e.2.ctx != ctx)

/-- Whether a switch may take place now (10 R200, steps 2 and 3). -/
def switchReady (s : State) (cl ctx : Nat) (v : DWord) : Bool :=
  let c := clusterAt s cl
  !(enginesReach s cl) && !(ownedByOther c ctx) &&
    !(c.owner.isNone && makesOwner c v && othersOn s cl ctx)

/-- BANKMODE with every bank in its mode after a write. -/
def modesAfter (c : Cluster) (v : DWord) : DWord :=
  BitVec.ofNat 64 (((List.range 32).map (fun b => modeAfter c v b * 4 ^ b)).sum)

/-- Lines, oldest first, of a cache of `w` ways, of which at most w − 1 of a set are pinned (10 R206). When a switch leaves fewer
ways than pins, the lines filled latest lose theirs: the model's choice (log entry 75). -/
def capPins (w : Nat) (ls : List CacheLine) : List CacheLine :=
  ls.foldl (fun acc l =>
    acc ++ [if w ≤ (acc.filter (fun e => e.pinned && sameSet e.line l.line)).length + 1 then { l with pins := [] } else l]) []

/-- A cluster after the switch event: modes, contents and owner (10 R199, R200, R201). -/
def switchedCluster (ctx : Nat) (v : DWord) (c : Cluster) : Cluster :=
  let after := modeAfter c v
  let stays := fun (m key : Nat) => bankModeOf c (key / 0x20000) == m && after (key / 0x20000) == m
  { c with
    bankMode := modesAfter c v
    banks := c.banks.filter (fun e => stays 1 e.1)
    poison := c.poison.filter (stays 1)
    fifos := c.fifos.filter (fun e => bankModeOf c e.1 == 2 && after e.1 == 2)
    fifoPoison := c.fifoPoison.filter (fun e => bankModeOf c e.1 == 2 && after e.1 == 2)
    fifoReqs := c.fifoReqs.filter (fun r => after r.bank == 2)
    lines := capPins ((List.range 32).filter (fun b => after b == 0)).length (c.lines.filter (fun e => after e.way == 0))
    owner := if makesOwner c v then (match c.owner with
      | some o => some o
      | none => some ctx) else none }

/-- Parks threads that stand beyond an access with a record of it: the record names the access; a thread whose clause no
longer holds it stays where it is (log entry 21). -/
def faultAt (slot pc : Nat) (fails : List (Nat × Trap)) (s : State) : State :=
  let old := (crewAt s slot).threads
  modCrew slot (fun c =>
    { c with threads := c.threads.map (fun e =>
        match fails.any (·.1 == e.1), tget old e.1 with
        | true, some t => (match t.clause with
          | some cl => if cl.header < pc ∧ pc ≤ cl.header + 4 * cl.words.length then e else (e.1, { e.2 with pc := t.pc })
          | none => e)
        | _, _ => e) }) (takeFault slot pc fails s)

/-- Whether a place lies in a bank of a cluster. -/
def Reach.inBanks (cl : Nat) (r : Reach) : Bool :=
  match r with
  | .bank c _ => c == cl
  | _ => false

/-- What threads have issued to a cluster's scratchpad and is still on its way becomes events: late stores, atomics, with those
of the lower lanes of their instructions (00 R7), and pending stores (10 R200). -/
def settleCluster (cl : Nat) (s : State) : State :=
  let s := s.crews.foldl (fun s e => e.2.ops.foldl (fun s o =>
    if o.late.any (fun l => l.reach.any (Reach.inBanks cl)) then lateOp e.1 o.id s else s) s) s
  let s := performAtoms (fun a => s.atoms.any (fun b => b.reach.inBanks cl && b.op == a.op && decide (a.id ≤ b.id))) s
  s.crews.foldl (fun s e => flushCrew e.1 (fun p => p.cluster == some cl) s) s

/-- Waiting FIFO accesses whose bank leaves FIFO mode raise 0x06 (10 R205). -/
def failFifo (reqs : List FifoReq) (s : State) : State :=
  let groups := (reqs.map (fun r => (r.crew, r.pc))).eraseDups
  groups.foldl (fun s g =>
    let rs := reqs.filter (fun r => r.crew == g.1 && r.pc == g.2)
    let s := faultAt g.1 g.2 (rs.flatMap (fun r => r.who.map (fun k => (k, trapVa 0x06 r.va)))) s
    modCrew g.1 (fun c => { c with ops := c.ops.filter (fun o => !(rs.any (fun r => r.op == o.id))) }) s) s

/-- The threads of a crew that wait at SYWAIT on a cluster's scratchpad, with their PC and window address. -/
def syncWaiters (c : Crew) (cl : Nat) : List (Nat × Nat × Nat) :=
  c.threads.filterMap (fun e => match e.2.run with
    | .waiting (.sync cl' _ va _ _) => if cl' = cl then some (e.1, e.2.pc, va) else none
    | _ => none)

/-- Waits of SYWAIT in a cluster whose scratchpad banks change raise 0x06 (10 R200). -/
def failSync (cl : Nat) (s : State) : State :=
  s.crews.foldl (fun s e =>
    let ws := syncWaiters e.2 cl
    ((ws.map (·.2.1)).eraseDups).foldl (fun s pc =>
      takeFault e.1 pc ((ws.filter (fun w => w.2.1 == pc)).map (fun w => (w.1, trapVa 0x06 w.2.2))) s) s) s

/-- The switch event. -/
def switchBanks (cl ctx : Nat) (v : DWord) (s : State) : State :=
  let s := settleCluster cl s
  let c := clusterAt s cl
  let lost := c.fifoReqs.filter (fun r => modeAfter c v r.bank != 2)
  let s := failFifo lost (modCluster cl (switchedCluster ctx v) s)
  if banksIn (clusterAt s cl) 1 = banksIn c 1 then s else failSync cl s

/-- The threads of a CREGW leave it (10 R200). -/
def leaveSwitch (r : BankReq) (s : State) : State :=
  modCrew r.crew (fun c =>
    { c with threads := c.threads.map (fun e =>
        if r.keys.contains e.1 then
          (e.1, { e.2 with pc := nextPc e.2.pc 1, run := .running, ready := s.clock + 1 }) else e) }) s

/-- The switch that has waited longest at a cluster, when it is ready; 0x07 when another context has come to own the
cluster. -/
def bankStep (cl : Nat) (s : State) : State :=
  match (clusterAt s cl).switches with
  | [] => s
  | r :: rs =>
    let c := clusterAt s cl
    let drop := modCluster cl (fun c => { c with switches := rs })
    if switches c r.value && ownedByOther c r.ctx then
      takeFault r.crew ((threadAt (crewAt s r.crew) (r.keys.headD 0)).elim 0 (·.pc))
        (r.keys.map (fun k => (k, trapC 0x07))) (drop s)
    else if switchReady s cl r.ctx r.value then switchBanks cl r.ctx r.value (leaveSwitch r (drop s))
    else s

/-- BANK_SWITCH (10 R200). The switch that waits longest at a cluster takes place when it is ready. -/
def execBankSwitch (cl : Nat) (s : State) : Host.Outcome State Fault Refusal := .next (bankStep cl s)

end Sys2Proof.Machine
end

