-- ==== Sys2Proof/Machine/Branch.lean ====
section
/-!
DEFINITION. Meanings of the branches, calls, EXIT, WAITSB and NOP (03 R71 to R74), and the splitting of groups (05 R109).
-/
namespace Sys2Proof.Machine

/-- The threads of a crew among some keys whose PC is `pc`. -/
def keysAt (c : Crew) (ks : List Nat) (pc : Nat) : List Nat :=
  ks.filter (fun k => match threadAt c k with
    | some t => t.pc == pc
    | none => false)

/-- The different values of a list, in order of first appearance. -/
def distinct : List Nat → List Nat
  | [] => []
  | x :: xs => x :: (distinct xs).filter (· != x)

/-- Splits a group into one group per address (05 R109); a group that stays together keeps its number. -/
def splitGroup (g : Group) (s : State) : State :=
  let c := crewAt s g.slot
  let pcs := distinct (g.keys.filterMap (fun k => (threadAt c k).map (·.pc)))
  if pcs.length ≤ 1 then s else pcs.foldl (fun s pc => regroup g.slot (keysAt c g.keys pc) s) s

/-- The target of a branch in format B (03 R71). -/
def branchTarget (pc : Nat) (off : BitVec 18) : Nat := (BitVec.ofNat 64 pc + off.signExtend 64 * 4).toNat

/-- Sends each thread to its target, or on to the clause that follows; a taken branch leaves the clause and every old
copy of instructions behind (01 R19). -/
def jump (i : Instr) (target : Nat → Option Nat) (g : Group) (s : State) : State :=
  splitGroup g (modCrew g.slot (fun c =>
    { c with threads := c.threads.map (fun e =>
        if g.keys.contains e.1 then
          (e.1, match target e.1 with
            | some pc => { e.2 with pc := pc, clause := none, stale := [], run := .running, ready := s.clock + 1 + i.stall }
            | none => { e.2 with pc := nextPc g.pc i.words, run := .running, ready := s.clock + 1 + i.stall })
        else e) }) s)

/-- The link that CALL and JMPR.L write: the address of the word after the clause, as a pair. -/
def linkWords (g : Group) (i : Instr) : List Word := splitWords (BitVec.ofNat 64 (nextPc g.pc i.words))

/-- JMPR, JMPR.L and RET: a target with bits [1:0] not zero takes 0x05 (03 R72). `link` writes the link. -/
def jumpReg (i : Instr) (a : Sel) (link : Group → State → State) (s : State) : Host.Outcome State Fault Refusal :=
  issue i (fun g s =>
    let tgt := fun k => (pairOf (reader s g k) a).toNat
    proceed (fun g s' => jump i (fun k => some (tgt k)) g (link g s'))
      (settle g (failures (fun k => if tgt k % 4 = 0 then none else some (trapVa 0x05 (tgt k))) g.keys) s)) s

/-- BRA (03 R71). Threads whose predicate holds go to the target; the others fall through. -/
def execBra (p : BitVec 3) (n : Bool) (off : BitVec 18) (f : BitVec 3) (s : State) : Host.Outcome State Fault Refusal :=
  issue (.bra p n off f) (fun g s =>
    jump (.bra p n off f) (fun k =>
      if readPred s g.slot k p.toNat ^^ n then some (branchTarget g.pc off) else none) g s) s

/-- CALL (03 R71). As BRA; a thread that goes to the target receives the link in v62:v63. -/
def execCall (p : BitVec 3) (n : Bool) (off : BitVec 18) (f : BitVec 3) (s : State) : Host.Outcome State Fault Refusal :=
  issue (.call p n off f) (fun g s =>
    let taken := fun k => readPred s g.slot k p.toNat ^^ n
    let linked := (g.keys.filter taken).foldl
      (fun s k => writeRegs g.slot k 62 1 (linkWords g (.call p n off f)) s) s
    jump (.call p n off f) (fun k => if taken k then some (branchTarget g.pc off) else none) g linked) s

/-- JMPR (03 R72). Each thread goes to the address in its pair A. -/
def execJmpr (a : Sel) (s : State) : Host.Outcome State Fault Refusal := jumpReg (.jmpr a) a (fun _ s => s) s

/-- JMPR.L (03 R72). As JMPR, with the link in pair D. -/
def execJmprL (d a : Sel) (s : State) : Host.Outcome State Fault Refusal :=
  jumpReg (.jmprL d a) a (fun g s => writeResult (.jmprL d a) d (fun _ => linkWords g (.jmprL d a)) g s) s

/-- RET (03 R72). The same effect as JMPR. -/
def execRet (a : Sel) (s : State) : Host.Outcome State Fault Refusal := jumpReg (.ret a) a (fun _ s => s) s

/-- Whether a recruitment of lane `k` still has a helper (07 R157). -/
def hasHelpers (c : Crew) (k : Nat) : Bool :=
  c.threads.any (fun e => match e.2.helper with
    | some h => h.recruiter == k
    | none => false)

/-- One thread's EXIT (03 R73): it waits for the helpers of an open recruitment, and else fences, closes the recruitment
and exits. -/
def exitThread (slot k : Nat) (s : State) : State :=
  if hasHelpers (crewAt s slot) k then modThread slot k (fun t => { t with run := .waiting .release }) s
  else
    modCrew slot (fun c =>
      { c with recruits := tdel c.recruits k,
               threads := tmod c.threads k (fun t => { t with run := .exited, clause := none }) })
      (fenceThreads slot [k] s)

/-- EXIT (03 R73; 17 R331 in a handler crew, where it raises 0x07). -/
def execExit (s : State) : Host.Outcome State Fault Refusal :=
  issue .exit (fun g s =>
    if runsSystem (crewAt s g.slot) then failAll g (trapC 0x07) s
    else g.keys.foldl (fun s k => exitThread g.slot k s) s) s

/-- WAITSB (03 R74). Holds the group until every named slot of each thread has count 0. -/
def execWaitsb (m : BitVec 6) (st : BitVec 3) (s : State) : Host.Outcome State Fault Refusal :=
  issue (.waitsb m st) (fun g s =>
    if g.keys.all (fun k => slotsClear (crewAt s g.slot) k m.toNat) then
      advance (.waitsb m st) g (g.keys.foldl (fun s k => waitedSlots g.slot k m.toNat s) s)
    else wait .slots g s) s

/-- NOP: WAITSB with an empty mask waits for nothing (03 R74). -/
def execNop (st : BitVec 3) (s : State) : Host.Outcome State Fault Refusal :=
  issue (.nop st) (fun g s => advance (.nop st) g s) s

end Sys2Proof.Machine
end

