-- ==== Sys2Proof/Machine/CrossLane.lean ====
section
/-!
DEFINITION. Joins (05 R110 to R113), the mask instructions (06 R123 to R137), BAR (06 R138 to R140) and RAND (06 R141 to
R143).
-/
namespace Sys2Proof.Machine

/-! ## Lanes lent to helpers -/

/-- The helpers, by slot and key, that hold some lanes of a partition, as half × 32 + lane (07 R148, R160). -/
def holdersOf (s : State) (slot : Nat) (p : Nat → Bool) : List (Nat × Nat) :=
  (s.crews.filter (fun e => e.1 / 48 == slot / 48)).flatMap (fun e =>
    e.2.threads.filterMap (fun t => match t.2.helper with
      | some h => if h.held.any p then some (e.1, t.1) else none
      | none => none))

/-- The helpers that hold a lane of a half of a partition. -/
def laneHolders (s : State) (slot half lane : Nat) : List (Nat × Nat) := holdersOf s slot (· == half * 32 + lane)

/-- Helpers fall due for release, from now (07 R160). -/
def callHelpers (es : List (Nat × Nat)) (s : State) : State :=
  es.foldl (fun s e =>
    modCrew e.1 (fun c =>
      { c with
        threads := tmod c.threads e.2 (fun t =>
          { t with helper := t.helper.map (fun h => { h with due := some (h.due.getD (crewClock s c)) }) })
        recruits := match (threadAt c e.2).bind (·.helper) with
          | some h => tmod c.recruits h.recruiter (fun r => { r with forced := true })
          | none => c.recruits }) s) s

/-- The helpers that hold a lane fall due. -/
def callLane (slot half lane : Nat) (s : State) : State := callHelpers (laneHolders s slot half lane) s

/-- The helpers that hold a lane of a half fall due. -/
def callHalf (slot half : Nat) (s : State) : State := callHelpers (holdersOf s slot (fun x => x / 32 == half)) s

/-- Whether helpers that are due for release hold lanes of a half of the partition of a slot. -/
def lanesCalled (s : State) (slot half : Nat) : Bool :=
  (holdersOf s slot (fun x => x / 32 == half)).any (fun e =>
    (((threadAt (crewAt s e.1) e.2).bind (·.helper)).bind (·.due)).isSome)

/-- The lanes of a crew's threads that helpers hold; a helper is pinned to none. -/
def lentLanes (s : State) (slot : Nat) (ks : List Nat) : List Nat :=
  ks.filter (fun k => decide (k < 32) && !(laneHolders s slot (crewAt s slot).half k).isEmpty)

/-! ## Joins -/

/-- The lanes of a crew that are launched and have not exited. -/
def liveLanes (c : Crew) : List Nat :=
  (c.threads.filter (fun e => !isHelperKey e.1 && e.2.run != .exited)).map (·.1)

/-- The participants of a mask: its lanes that are launched and have not exited (06 R123). -/
def named (c : Crew) (m : Word) : List Nat := (liveLanes c).filter (fun k => m.getLsbD k)

/-- Whether a thread waits at an address with a mask. -/
def waitsAt (c : Crew) (pc : Nat) (m : Word) (k : Nat) : Bool :=
  match threadAt c k with
  | some t => decide (t.run = .waiting (.join pc m))
  | none => false

/-- Whether a thread waits at some join. -/
def waitsJoin (c : Crew) (k : Nat) : Bool :=
  match threadAt c k with
  | some t => (match t.run with
    | .waiting (.join _ _) => true
    | _ => false)
  | none => false

/-- Whether a thread waits at some join or BAR. -/
def waitsMeeting (c : Crew) (k : Nat) : Bool :=
  match threadAt c k with
  | some t => (match t.run with
    | .waiting (.join _ _) => true
    | .waiting (.bar _ _) => true
    | _ => false)
  | none => false

/-- A clock that is never reached: a result that was still in flight at an arrival stays so until the release
(06 R123). -/
def heldClock : Nat := 2 ^ 80

/-- The results of counted operations that stand unwaited for thread `k`, at the places that an instruction of it reads: in doubt
against what a place holds, or, once written, held before (01 R23). -/
def heldResults (c : Crew) (i : Instr) (k : Nat) : List Hazard :=
  (c.ops.filter (fun o => o.slot != 0 && openFor k o)).flatMap (fun o =>
    ((readPlaces i k).filter (fun pl => o.dests.contains pl)).map (fun pl =>
      ⟨pl, ((o.olds.find? (·.1 == pl)).map (·.2)).getD (getPlace c pl), heldClock, some k, some o.id, o.watched⟩))

/-- Results that an arriving thread would read too early stay in doubt for it until its release (06 R123). A thread that has
arrived before keeps those of its arrival. -/
def holdHazards (i : Instr) (slot k : Nat) (s : State) : State :=
  if waitsJoin (crewAt s slot) k then s
  else modCrew slot (fun c =>
    { c with hazards :=
        ((c.hazards.filter (fun h => h.only.isNone && (readPlaces i k).contains h.place && decide (s.clock < h.until_))).map
          (fun h => { h with until_ := heldClock, only := some k })) ++ heldResults c i k ++ (dropHeld [k] c).hazards }) s

/-- Releases threads from a meeting as one issue group at the next instruction (05 R113). -/
def releaseThreads (i : Instr) (slot pc : Nat) (ks : List Nat) (s : State) : State :=
  regroup slot ks (advance i ⟨slot, ks, pc, []⟩ s)

/-- The parked threads of a mismatch: each with cause 0x11 and its PC at its own join, those of one group and address in
one record (05 R112, 17 R336). -/
def failMeeting (slot : Nat) (ks : List Nat) (s : State) : State :=
  let c := crewAt s slot
  let tag := fun k => match threadAt c k with
    | some t => t.group * 2 ^ 64 + t.pc % 2 ^ 64
    | none => 0
  (distinct (ks.map tag)).foldl (fun s g =>
    takeFault slot (g % 2 ^ 64) ((ks.filter (fun k => tag k == g)).map (fun k => (k, trapC 0x11))) s) s

/-- Whether a thread's join is complete: it waits for its lanes alone (05 R113, 07 R161). -/
def joinMet (c : Crew) (k : Nat) : Bool :=
  match threadAt c k with
  | some t => (match t.run with
    | .waiting (.join pc m) => (named c m).all (waitsAt c pc m)
    | _ => false)
  | none => false

/-- R112 for one waiting thread: its mask's live threads all wait at joins that are not complete, and not all at its own. -/
def joinMismatch (c : Crew) (k : Nat) : Bool :=
  match threadAt c k with
  | some t => (match t.run with
    | .waiting (.join pc m) =>
      (named c m).all (fun j => waitsJoin c j && !joinMet c j) && !(named c m).all (waitsAt c pc m)
    | _ => false)
  | none => false

/-- The set that R112 fails for a waiting thread. -/
def mismatchSet (c : Crew) (k : Nat) : List Nat :=
  match threadAt c k with
  | some t => (match t.run with
    | .waiting (.join _ m) => named c m
    | _ => [])
  | none => []

/-- JOIN_MISMATCH (05 R112): threads of a crew whose joins can never meet raise 0x11. Those of the group that has just joined are
posted with `lost`, what its other threads have failed of, in ascending order of thread (17 R336). -/
def checkJoins (g : Group) (lost : List (Nat × Trap)) (s : State) : State :=
  let c := crewAt s g.slot
  let ks := ((liveLanes c).find? (joinMismatch c)).elim [] (mismatchSet c)
  failMeeting g.slot (ks.filter (fun k => !g.keys.contains k))
    (takeFault g.slot g.pc ((ks.filter g.keys.contains).foldl (fun l k => addFail (k, trapC 0x11) l) lost) s)

/-- Threads that have failed an instruction are out of its joins, before their records are posted. -/
def hush (slot : Nat) (ks : List Nat) (s : State) : State :=
  ks.foldl (fun s k => modThread slot k (fun t => { t with run := .parked 0 }) s) s

/-- JOIN_RELEASE (05 R111, R113, 06 R123): when every live thread that a mask names waits at the address with it, and no
helper holds a lane of theirs (07 R161), the effect is performed for them and they leave as one group. -/
def tryJoin (i : Instr) (slot pc : Nat) (eff : List Nat → State → State) (m : Word) (s : State) : State :=
  let c := crewAt s slot
  let ks := named c m
  if !ks.isEmpty && ks.all (waitsAt c pc m) then
    match lentLanes s slot ks with
    | [] => releaseThreads i slot pc ks (modCrew slot (dropHeld ks) (eff ks s))
    | ls => ls.foldl (fun s l => callLane slot c.half l s) s
  else s

/-- The mask value that a thread joins with: as it read it at its arrival. -/
def joinMask (s : State) (g : Group) (m : BitVec 4) (k : Nat) : Word :=
  match threadAt (crewAt s g.slot) k with
  | some t => (match t.run with
    | .waiting (.join _ v) => v
    | _ => readReg s g.slot k (80 + m.toNat))
  | none => readReg s g.slot k (80 + m.toNat)

/-- A mask instruction (06 R123, R125): a thread whose own bit is clear takes 0x11; the others arrive, and the join that
is complete is released with its effect; then mismatches are checked, and the failures posted. -/
def maskOp (i : Instr) (m : BitVec 4) (eff : Nat → List Nat → State → State) (s : State) :
    Host.Outcome State Fault Refusal :=
  issue i (fun g s =>
    let mask := joinMask s g m
    let own := failures (fun k => if (mask k).getLsbD k then none else some (trapC 0x11)) g.keys
    let ks := g.keys.filter (fun k => (mask k).getLsbD k)
    let lost := g.early.foldl (fun l f => addFail f l) own
    let arrived := ks.foldl (fun s k =>
      modThread g.slot k (fun t => { t with run := .waiting (.join g.pc (mask k)) }) (holdHazards i g.slot k s))
        (hush g.slot (lost.map (·.1)) s)
    checkJoins { g with keys := ks } lost ((distinct (ks.map (fun k => (mask k).toNat))).foldl
      (fun s v => tryJoin i g.slot g.pc (eff g.slot) (BitVec.ofNat 32 v) s) arrived)) s

/-- The mask of some lanes. -/
def maskOf (ks : List Nat) : Word := BitVec.ofNat 32 ((ks.map (fun k => 2 ^ k)).sum)

/-- A register result for the participants, from values read before any is written; once for a scalar D (06 R127). -/
def laneResult (d : Sel) (val : State → Nat → Word) (slot : Nat) (ks : List Nat) (s : State) : State :=
  if isScalar d then writeRegLat slot (ks.headD 0) d.toNat 1 (val s (ks.headD 0)) s
  else ks.foldl (fun st k => writeRegLat slot k d.toNat 1 (val s k) st) s

/-- A predicate result for the participants. -/
def lanePred (p : PSel) (val : State → Nat → Bool) (slot : Nat) (ks : List Nat) (s : State) : State :=
  ks.foldl (fun st k => writePredLat slot k p.toNat 1 (val s k) st) s

/-- A shuffle: A of the source lane when it is a participant, else the thread's own (06 R124, R132). -/
def shuffleOp (i : Instr) (d a b : Sel) (m : BitVec 4) (src : Nat → Nat → Nat) (s : State) :
    Host.Outcome State Fault Refusal :=
  maskOp i m (fun slot ks s =>
    laneResult d (fun s k =>
      let j := src k (readReg s slot k b.toNat).toNat
      readReg s slot (if ks.contains j then j else k) a.toNat) slot ks s) s

/-- The fold of SCAN and REDUX (06 R135), with its flags. -/
def foldStep (op : Nat) (acc x : Word) : Word × FpFlags :=
  let fp := fun (r : Nat × FpFlags) => ((BitVec.ofNat 32 r.1 : Word), r.2)
  match op with
  | 0 => (acc + x, .none)
  | 1 => (if x.slt acc then x else acc, .none)
  | 2 => (if acc.slt x then x else acc, .none)
  | 3 => (if x.ult acc then x else acc, .none)
  | 4 => (if acc.ult x then x else acc, .none)
  | 5 => (acc &&& x, .none)
  | 6 => (acc ||| x, .none)
  | 7 => (acc ^^^ x, .none)
  | 8 => fp (fp32.add 0 acc.toNat x.toNat)
  | 9 => fp (fp32.minMax false acc.toNat x.toNat)
  | _ => fp (fp32.minMax true acc.toNat x.toNat)

/-- The identity of a fold (06 R135). -/
def foldIdentity (op : Nat) : Word :=
  match op with
  | 1 => 0x7FFFFFFF
  | 2 => 0x80000000
  | 3 => 0xFFFFFFFF
  | 5 => 0xFFFFFFFF
  | 8 => 0x80000000
  | 9 => 0x7F800000
  | 10 => 0xFF800000
  | _ => 0

/-- The first value of a fold: a NaN becomes canonical in the floating-point folds (06 R136). -/
def foldFirst (op : Nat) (x : Word) : Word × FpFlags :=
  if 8 ≤ op then
    match fp32.value x.toNat with
    | .nan sg => (0x7FC00000, { FpFlags.none with nv := sg })
    | _ => (x, .none)
  else (x, .none)

/-- The running values of a fold over a list, in order, with the flags of every step (06 R136). -/
def foldRun (op : Nat) : Option Word → List Word → List Word × FpFlags
  | _, [] => ([], .none)
  | acc, x :: xs =>
    let r := match acc with
      | none => foldFirst op x
      | some a => foldStep op a x
    let q := foldRun op (some r.1) xs
    (r.1 :: q.1, r.2.or q.2)

/-- RAND's key and counter function: Philox-4x32 (06 R142), `n` rounds. -/
def philox : Nat → Word → Word → Word → Word → Word → Word → Word × Word × Word × Word
  | 0, c0, c1, c2, c3, _, _ => (c0, c1, c2, c3)
  | n + 1, c0, c1, c2, c3, k0, k1 =>
    let p0 : DWord := (0xD2511F53 : DWord) * c0.setWidth 64
    let p1 : DWord := (0xCD9E8D57 : DWord) * c2.setWidth 64
    philox n ((p1 >>> 32).setWidth 32 ^^^ c1 ^^^ k0) (p1.setWidth 32) ((p0 >>> 32).setWidth 32 ^^^ c3 ^^^ k1)
      (p0.setWidth 32) (k0 + 0x9E3779B9) (k1 + 0xBB67AE85)

/-- The launch of a crew; none for a handler crew (17 R403). -/
def launchOf (s : State) (c : Crew) : Option Launch :=
  match c.role with
  | .seam id _ _ => tget s.launches (tgetD s.seams id default).launch
  | .handler _ => none

/-- SREG 7, LAUNCH: the launch's ordinal in its graph, or all ones in a handler crew. -/
def launchWord (s : State) (c : Crew) : Word :=
  match launchOf s c with
  | some l => BitVec.ofNat 32 l.ordinal
  | none => 0xFFFFFFFF

/-- The lane whose identity a thread bears: its own, or its recruiter's. -/
def identityLane (t : Thread) (k : Nat) : Nat :=
  match t.helper with
  | some h => h.recruiter
  | none => k

/-- The counter of a thread's next draw, and the thread after it (06 R142). -/
def drawCounter (s : State) (c : Crew) (k : Nat) (t : Thread) : (Word × Word × Word × Word) × Thread :=
  let gtid := gtidOf s c (identityLane t k)
  match t.iter with
  | some (ix, e) =>
    ((launchWord s c, gtid ||| 0x80000000, e, ix), { t with iter := some (ix, e + 1) })
  | none => ((launchWord s c, gtid, t.draws, 0), { t with draws := t.draws + 1 })

/-- RAND: each thread takes one draw; a helper outside an iteration takes 0x10 (06 R142). -/
def randOp (i : Instr) (d : Sel) (out : Word × Word × Word × Word → List Word) (s : State) :
    Host.Outcome State Fault Refusal :=
  eachOp i false (fun g k s =>
    let c := crewAt s g.slot
    match threadAt c k with
    | none => (none, s)
    | some t =>
      if isHelperKey k && t.iter.isNone then (some (trapC 0x10), s)
      else
        let r := drawCounter s c k t
        let w := philox 10 r.1.1 r.1.2.1 r.1.2.2.1 r.1.2.2.2 (c.key.setWidth 32) ((c.key >>> 32).setWidth 32)
        (none, writeRegs g.slot k d.toNat 1 (out w) (modThread g.slot k (fun _ => r.2) s))) s

/-! ## Barriers -/

/-- The slots of the crews of a crew's seam; the crew alone for a handler crew. -/
def seamCrews (s : State) (slot : Nat) : List Nat :=
  match (crewAt s slot).role with
  | .seam id _ _ =>
    (s.crews.filter (fun e => match e.2.role with
      | .seam id' _ _ => id' == id
      | .handler _ => false)).map (·.1)
  | .handler _ => [slot]

/-- Whether every crew of the seam that has not ended has been placed (05 R102). -/
def seamAllPlaced (s : State) (slot : Nat) : Bool :=
  match (crewAt s slot).role with
  | .seam id _ _ =>
    let m := tgetD s.seams id default
    decide (bits (m.words.getD 6 0).toNat 9 0 + 1 ≤ m.placed)
  | .handler _ => true

/-- Every live lane of some crews, with its slot. -/
def liveOf (s : State) (slots : List Nat) : List (Nat × Nat) :=
  slots.flatMap (fun sl => (liveLanes (crewAt s sl)).map (fun k => (sl, k)))

/-- Whether a thread waits at a BAR with an address and scope. -/
def waitsBar (s : State) (pc : Nat) (seam : Bool) (e : Nat × Nat) : Bool :=
  match threadAt (crewAt s e.1) e.2 with
  | some t => decide (t.run = .waiting (.bar pc seam))
  | none => false

/-- Whether a thread waits at any BAR. -/
def waitsAnyBar (s : State) (e : Nat × Nat) : Bool :=
  match threadAt (crewAt s e.1) e.2 with
  | some t => (match t.run with
    | .waiting (.bar _ _) => true
    | _ => false)
  | none => false

/-- The crews whose threads take part in a BAR (06 R139). -/
def barCrews (s : State) (slot : Nat) (seam : Bool) : List Nat := if seam then seamCrews s slot else [slot]

/-- Whether a BAR at an address is complete: every participant waits at it. -/
def barDone (s : State) (slot pc : Nat) (seam : Bool) : Bool :=
  (!seam || seamAllPlaced s slot) && (liveOf s (barCrews s slot seam)).all (waitsBar s pc seam)

/-- Whether what a thread meets others at is complete, so that it waits for its lanes alone (07 R161). -/
def meetingMet (s : State) (slot k : Nat) : Bool :=
  joinMet (crewAt s slot) k || (match threadAt (crewAt s slot) k with
    | some t => (match t.run with
      | .waiting (.bar pc seam) => barDone s slot pc seam
      | _ => false)
    | none => false)

/-- The end of a BAR: complete, it releases each crew's threads as one group; when every participant waits and they can
never meet, those at a BAR raise 0x11 (06 R139). -/
def tryBar (i : Instr) (slot pc : Nat) (seam : Bool) (s : State) : State :=
  let slots := barCrews s slot seam
  let all := liveOf s slots
  if seam && !seamAllPlaced s slot then s
  else if all.all (waitsBar s pc seam) then
    let lent := slots.flatMap (fun sl => (lentLanes s sl (liveLanes (crewAt s sl))).map (fun l => (sl, l)))
    match lent with
    | [] => slots.foldl (fun s sl => releaseThreads i sl pc (liveLanes (crewAt s sl)) s) s
    | ls => ls.foldl (fun s e => callLane e.1 (crewAt s e.1).half e.2 s) s
  else if all.all (fun e => waitsMeeting (crewAt s e.1) e.2 && !meetingMet s e.1 e.2) then
    slots.foldl (fun s sl =>
      failMeeting sl ((liveLanes (crewAt s sl)).filter (fun k => waitsAnyBar s (sl, k))) s) s
  else s

/-- BAR and BAR.SEAM (06 R138 to R140). In a seam of one crew BAR.SEAM is BAR; in a seam of more crews that is not
cooperative it takes 0x11 at once. -/
def barOp (i : Instr) (seam : Bool) (s : State) : Host.Outcome State Fault Refusal :=
  issue i (fun g s =>
    let c := crewAt s g.slot
    let w6 := match c.role with
      | .seam id _ _ => ((tgetD s.seams id default).words.getD 6 0).toNat
      | .handler _ => 0
    let many := decide (0 < bits w6 9 0)
    if seam && many && !bitAt w6 18 then failAll g (trapC 0x11) s
    else
      let sc := seam && many
      tryBar i g.slot g.pc sc (wait (.bar g.pc sc) g s)) s

/-! ## Meanings -/

/-- MSPLIT (06 R130). D ← the mask of the participants on the thread's own side of the predicate. -/
def execMsplit (d : Sel) (p : BitVec 3) (m : BitVec 4) (s : State) : Host.Outcome State Fault Refusal :=
  maskOp (.msplit d p m) m (fun slot ks s =>
    laneResult d (fun s t => maskOf (ks.filter (fun j => readPred s slot j p.toNat == readPred s slot t p.toNat))) slot ks s) s

/-- MJOIN (05 R111, 06 R131). Waits until every named thread waits here with the same mask. -/
def execMjoin (m : BitVec 4) (s : State) : Host.Outcome State Fault Refusal :=
  maskOp (.mjoin m) m (fun _ _ s => s) s

/-- SHFLI (06 R132). The source lane is the control value. -/
def execShfli (d a b : Sel) (m : BitVec 4) (s : State) : Host.Outcome State Fault Refusal :=
  shuffleOp (.shfli d a b m) d a b m (fun _ c => c) s

/-- SHFLU (06 R132). The source lane is the control value below. -/
def execShflu (d a b : Sel) (m : BitVec 4) (s : State) : Host.Outcome State Fault Refusal :=
  shuffleOp (.shflu d a b m) d a b m (fun l c => if l < c then 32 else l - c) s

/-- SHFLD (06 R132). The source lane is the control value above. -/
def execShfld (d a b : Sel) (m : BitVec 4) (s : State) : Host.Outcome State Fault Refusal :=
  shuffleOp (.shfld d a b m) d a b m (fun l c => l + c) s

/-- SHFLX (06 R132). The source lane is the lane XOR the control value. -/
def execShflx (d a b : Sel) (m : BitVec 4) (s : State) : Host.Outcome State Fault Refusal :=
  shuffleOp (.shflx d a b m) d a b m (fun l c => if 32 ≤ c then 32 else l ^^^ c) s

/-- VOTE (06 R133). P ← whether all, any, or all alike of the participants hold the predicate. -/
def execVote (p q : BitVec 3) (n : Bool) (off : BitVec 2) (m : BitVec 4) (s : State) : Host.Outcome State Fault Refusal :=
  maskOp (.vote p q n off m) m (fun slot ks s =>
    let h := fun j => readPred s slot j q.toNat ^^ n
    let v := match off.toNat with
      | 0 => ks.all h
      | 1 => ks.any h
      | _ => ks.all h || !ks.any h
    lanePred p (fun _ _ => v) slot ks s) s

/-- BALLOT (06 R134). D ← the mask of the participants that hold the predicate. -/
def execBallot (d : Sel) (p : BitVec 3) (n : Bool) (m : BitVec 4) (s : State) : Host.Outcome State Fault Refusal :=
  maskOp (.ballot d p n m) m (fun slot ks s =>
    laneResult d (fun s _ => maskOf (ks.filter (fun j => readPred s slot j p.toNat ^^ n))) slot ks s) s

/-- SCAN (06 R136). The running fold in ascending lane order; with EX, of the lanes below. -/
def execScan (d a : Sel) (ex : Bool) (off : BitVec 5) (m : BitVec 4) (s : State) : Host.Outcome State Fault Refusal :=
  maskOp (.scan d a ex off m) m (fun slot ks s =>
    let r := foldRun off.toNat none (ks.map (fun j => readReg s slot j a.toNat))
    let vs := if ex then foldIdentity off.toNat :: r.1 else r.1
    raiseFlags slot r.2 (laneResult d (fun _ t => vs.getD (ks.idxOf t) 0) slot ks s)) s

/-- REDUX (06 R136). The fold of every participant in ascending lane order. -/
def execRedux (d a : Sel) (off : BitVec 5) (m : BitVec 4) (s : State) : Host.Outcome State Fault Refusal :=
  maskOp (.redux d a off m) m (fun slot ks s =>
    let r := foldRun off.toNat none (ks.map (fun j => readReg s slot j a.toNat))
    raiseFlags slot r.2 (laneResult d (fun _ _ => r.1.getLastD 0) slot ks s)) s

/-- ELECT (06 R134). P ← true in the lowest participant, false in the others. -/
def execElect (p : BitVec 3) (m : BitVec 4) (s : State) : Host.Outcome State Fault Refusal :=
  maskOp (.elect p m) m (fun slot ks s => lanePred p (fun _ t => t == ks.headD 0) slot ks s) s

/-- MATCH (06 R137). D ← the mask of the participants whose word equals the thread's. -/
def execMatchW (d a : Sel) (m : BitVec 4) (s : State) : Host.Outcome State Fault Refusal :=
  maskOp (.matchW d a m) m (fun slot ks s =>
    laneResult d (fun s t => maskOf (ks.filter (fun j => readReg s slot j a.toNat == readReg s slot t a.toNat))) slot ks s) s

/-- MATCH_D (06 R137). As MATCH, over pairs. -/
def execMatchD (d a : Sel) (m : BitVec 4) (s : State) : Host.Outcome State Fault Refusal :=
  maskOp (.matchD d a m) m (fun slot ks s =>
    laneResult d (fun s t =>
      maskOf (ks.filter (fun j => readPair s slot j a.toNat == readPair s slot t a.toNat))) slot ks s) s

/-- BAR (06 R139). Waits for every live thread of the crew at this address. -/
def execBar (s : State) : Host.Outcome State Fault Refusal :=
  barOp (.bar) false s

/-- BAR_SEAM (06 R139, R140). Waits for every live thread of the seam. -/
def execBarSeam (s : State) : Host.Outcome State Fault Refusal :=
  barOp (.barSeam) true s

/-- RAND (06 R142). D ← w0 of the draw. -/
def execRand (d : Sel) (s : State) : Host.Outcome State Fault Refusal :=
  randOp (.rand d) d (fun w => [w.1]) s

/-- RAND_Q (06 R142). The quad ← the four words of the draw. -/
def execRandQ (d : Sel) (s : State) : Host.Outcome State Fault Refusal :=
  randOp (.randQ d) d (fun w => [w.1, w.2.1, w.2.2.1, w.2.2.2]) s

/-- RAND_F (06 R142). D ← (w0 >> 8) × 2^−24 as FP32, exact. -/
def execRandF (d : Sel) (s : State) : Host.Outcome State Fault Refusal :=
  randOp (.randF d) d (fun w => [BitVec.ofNat 32 (fp32.round 0 false false (w.1.toNat / 256) (-24) false).1]) s

end Sys2Proof.Machine
end

