-- ==== Sys2Proof/Machine/Ticket.lean ====
section
/-!
DEFINITION. Ticket streams (12 R239 to R258): opening, binding, updates, closes, the watermark, draining.
-/
namespace Sys2Proof.Machine

/-! ## Streams and handles -/

/-- The slot of a stream; a slot that is not listed is free with generation 0 (log entry 5). -/
def Stream.fresh : Stream :=
  { gen := 0, state := .free, ctx := 0, b := 0, m := 0, c := 0, w := 0, closes := [], spill := 0, frames := [],
    dispatch := false, stall := 0, renewed := false, buffered := [] }

/-- The stream slot with a number. -/
def streamAt (s : State) (n : Nat) : Stream := tgetD s.streams n Stream.fresh

/-- The state with a stream slot changed. -/
def modStream (n : Nat) (f : Stream → Stream) (s : State) : State :=
  { s with streams := tset s.streams n (f (streamAt s n)) }

/-- The handle of a slot (12 R239). -/
def handleOf (s : State) (n : Nat) : Word := (streamAt s n).gen ++ BitVec.ofNat 16 n

/-- The slot that a handle names for a context, when it is valid (12 R239). -/
def streamNamed (s : State) (ctx : Nat) (h : Word) : Option Nat :=
  let n := bits h.toNat 15 0
  let x := streamAt s n
  if n < 256 ∧ x.state ≠ .free ∧ x.ctx = ctx ∧ x.gen.toNat = bits h.toNat 31 16 then some n else none

/-- The handle that the updates and closes of a crew use; all ones when there is none (12 R244). -/
def boundHandle (s : State) (c : Crew) : Word :=
  if c.tstream ≠ 0xFFFFFFFF then c.tstream
  else match (launchOf s c).bind (·.stream) with
    | some h => h
    | none => 0xFFFFFFFF

/-- The dispatch ticket of a crew's seam. -/
def ticketOf (s : State) (c : Crew) : Word :=
  match c.role with
  | .seam id _ _ => (tgetD s.seams id default).ticket
  | .handler _ => 0xFFFFFFFF

/-- A trap of cause 0x0F (12 R257). -/
def trapT (sub va : Nat) (h : Word) : Trap := ⟨0x0F, va, sub, h, false⟩

/-- A slot becomes free: its generation increments (12 R239, R240). -/
def freeStream (n : Nat) (s : State) : State :=
  modStream n (fun x => { Stream.fresh with gen := x.gen + 1 }) s

/-! ## Draining (12 R240, R253) -/

/-- The threads that wait at TDRAIN on a handle go on; answers whether one of them asked for the slot to be freed. -/
def releaseDrains (ctx : Nat) (h : Word) (s : State) : Bool × State :=
  let waits := fun (t : Thread) => match t.run with
    | .waiting (.drain x _) => x == h
    | _ => false
  let frees := fun (t : Thread) => match t.run with
    | .waiting (.drain x f) => x == h && f
    | _ => false
  (s.crews.any (fun e => e.2.ctx == ctx && e.2.threads.any (fun t => frees t.2)),
    { s with crews := s.crews.map (fun e =>
        if e.2.ctx = ctx then
          (e.1, { e.2 with threads := e.2.threads.map (fun t =>
            if waits t.2 then (t.1, { t.2 with pc := nextPc t.2.pc 1, run := .running, ready := s.clock + 1 }) else t) })
        else e) })

/-- STREAM_DRAINED (12 R240): an open stream whose W reached b + m with nothing buffered is drained; the TDRAINs that wait
on it are released, and then the slot is freed if one of them frees it. -/
def drainStream (n : Nat) (s : State) : State :=
  let x := streamAt s n
  if x.state = .opened ∧ x.w = x.b + x.m ∧ x.buffered = [] then
    let r := releaseDrains x.ctx (handleOf s n) (modStream n (fun x => { x with state := .drained }) s)
    if r.1 then freeStream n r.2 else r.2
  else s

/-! ## Updates (12 R245 to R248) -/

/-- Applies an update: one event that adds its term; poison drops the term (12 R246), with a record that names the slot in which its
crew issued it, also where the crew has ended or come back in another one since, which R246 leaves open (log entry 77). -/
def applyUpdate (u : Update) (s : State) : State :=
  if memPoisoned s u.pa 4 then postAsyncOf u.ctx u.crew (u.who.headD 0) u.gtid u.pc 0x0B u.va 0 0 s
  else (atomMem .fadd u.pa u.leaf u.value 0 s).2

/-- Buffered updates at a home slice, of every stream. -/
def bufferLoad (s : State) (home : Nat) : Nat :=
  ((s.streams.map (fun e => (e.2.buffered.filter (fun u => u.home == home)).length))).sum

/-- Whether an update can be buffered (12 R247). -/
def bufferRoom (s : State) (n home : Nat) : Bool :=
  decide (bufferLoad s home < 256) &&
    decide (((streamAt s n).buffered.filter (fun u => u.home == home)).length < 128)

/-- The update has been accepted: it is no longer on its way (12 R245). -/
def acceptUpdate (u : Update) (s : State) : State := { s with updates := s.updates.filter (fun x => x.id != u.id) }

/-- A frame is added to the stream's frame set (12 R239). -/
def noteFrame (n pa : Nat) (s : State) : State := modStream n (fun x => { x with frames := sadd x.frames (pa / 65536) }) s

/-- The record of a late update (12 R247, R257). -/
def postLate (u : Update) (s : State) : State :=
  postAsyncOf u.ctx u.crew (u.who.headD 0) u.gtid u.pc 0x0F u.va 6 u.handle s

/-- An update arrives at its home slice (12 R247). One that another update of its crew to the slice holds back waits, and
so does one that is refused. An update of a stream that is gone comes late. -/
def arriveUpdate (u : Update) (s : State) : State :=
  let ahead := s.updates.takeWhile (fun x => x.id != u.id)
  if ahead.any (fun x => x.crew == u.crew && x.home == u.home) then s
  else
    match streamNamed s u.ctx u.handle with
    | none => acceptUpdate u (postLate u s)
    | some n =>
      let x := streamAt s n
      if u.ticket < x.w then acceptUpdate u (postLate u s)
      else if u.ticket = x.w then acceptUpdate u (applyUpdate u (noteFrame n u.pa s))
      else if bufferRoom s n u.home then
        acceptUpdate u (modStream n (fun x =>
          { x with buffered := x.buffered ++ [u], stall := if x.renewed then x.stall else 0, renewed := true }) (noteFrame n u.pa s))
      else
        { s with updates := s.updates.map (fun x => if x.id = u.id then { x with tries := x.tries + 1 } else x) }

/-- The update on its way with a number arrives; its operation completes with the last one that is accepted (12 R245). -/
def arriveById (id : Nat) (s : State) : State :=
  match s.updates.find? (fun u => u.id == id) with
  | some u =>
    let t := arriveUpdate u s
    if t.updates.any (fun x => x.op == u.op) then t else returnOp u.crew u.op t
  | none => s

/-! ## Closes (12 R248, R249) -/

/-- The lowest ticket from `w` that has not its closes, below `stop`. -/
def lowestOpen (closes : Table Nat) (c stop : Nat) : Nat → Nat → Nat
  | 0, w => w
  | fuel + 1, w => if w < stop ∧ c ≤ tgetD closes w 0 then lowestOpen closes c stop fuel (w + 1) else w

/-- Inserts an update by ticket, after those of its ticket. -/
def insertUpdate (u : Update) : List Update → List Update
  | [] => [u]
  | x :: xs => if u.ticket < x.ticket then u :: x :: xs else x :: insertUpdate u xs

/-- Updates in ascending ticket order, and within one ticket in order of arrival. -/
def byTicket : List Update → List Update
  | us => us.foldl (fun acc u => insertUpdate u acc) []

/-- WATERMARK_ADVANCE (12 R248): W moves to the lowest ticket not closed; the buffered updates up to the new W are applied
in ticket order. W does not move while the context is off the device (12 R254). The stall count begins anew at the move, and again
when an update is first buffered after it; until then it counts the older updates that stay buffered, which R252 leaves open (log
entry 54). -/
def moveWatermark (n : Nat) (s : State) : State :=
  let x := streamAt s n
  let w := lowestOpen x.closes x.c (x.b + x.m) (x.closes.length + 1) x.w
  if w = x.w || (tgetD s.contexts x.ctx default).saved.isSome then s
  else
    let go := byTicket (x.buffered.filter (fun u => decide (u.ticket ≤ w)))
    drainStream n (go.foldl (fun s u => applyUpdate u s)
      (modStream n (fun x =>
        { x with w := w, stall := 0, renewed := false, closes := x.closes.filter (fun e => decide (w ≤ e.1)),
                 buffered := x.buffered.filter (fun u => !decide (u.ticket ≤ w)) }) s))

/-- One close of a ticket that is within the table's reach; over-closes are reported and ignored (12 R249). `pc`, `slot` and
the thread `t` are for the record. -/
def closeOne (n slot t pc j : Nat) (h : Word) (s : State) : State :=
  let x := streamAt s n
  if j < x.w ∨ x.c ≤ tgetD x.closes j 0 then
    postAsyncOf (crewAt s slot).ctx slot t (workerGtid s slot t) pc 0x0F 0 7 h s
  else moveWatermark n (modStream n (fun x => { x with closes := tset x.closes j (tgetD x.closes j 0 + 1) }) s)

/-- Closes a range ticket by ticket, up to the reach of the close table; answers what is left. -/
def closeRange (n slot t pc : Nat) (h : Word) : Nat → Nat → State → (Nat × Nat) × State
  | j, 0, s => ((j, 0), s)
  | j, k + 1, s =>
    if (streamAt s n).w + 1024 ≤ j then ((j, k + 1), s)
    else closeRange n slot t pc h (j + 1) k (closeOne n slot t pc j h s)

/-- Whether every update that some threads issued has been accepted. -/
def allAccepted (s : State) (slot : Nat) (ks : List Nat) : Bool :=
  !(s.updates.any (fun u => u.crew == slot && u.who.any (fun k => ks.contains k)))

/-- Closes ranges in order until one has to wait: for the updates of its threads, or for the table's reach. -/
def closeRanges (n slot pc : Nat) (h : Word) : List CloseRange → State → List CloseRange × State
  | [], s => ([], s)
  | r :: rs, s =>
    if !(allAccepted s slot r.who) then (r :: rs, s)
    else
      let q := closeRange n slot (r.who.headD 0) pc h r.first r.num s
      if q.1.2 = 0 then closeRanges n slot pc h rs q.2 else ({ r with first := q.1.1, num := q.1.2 } :: rs, q.2)

/-- Whether a TCLOSE that waits can go on: for its updates, and, where it has a ticket to close, for the table's reach. -/
def closeGoes (s : State) (ctx slot : Nat) (h : Word) (rest : List CloseRange) : Bool :=
  match streamNamed s ctx h, rest with
  | some n, r :: _ => allAccepted s slot r.who && decide (r.num = 0 ∨ r.first < (streamAt s n).w + 1024)
  | _, _ => true

/-- The device closes a ticket as far as it lacks closes (12 R250), one beyond the close table's reach too, at once (log entry
53). -/
def closeFully (n t : Nat) (s : State) : State :=
  let x := streamAt s n
  if x.state = .opened ∧ x.w ≤ t ∧ t < x.b + x.m ∧ tgetD x.closes t 0 < x.c then
    moveWatermark n (modStream n (fun x => { x with closes := tset x.closes t x.c }) s)
  else s

/-! ## TSOPEN (12 R241) -/

/-- Writable, not copy-on-write shared, and pinned. -/
def firmLeaf (l : Leaf) : Bool := l.writable && !l.cow && l.pinned

/-- The check of a spill area: 0x06, 0x09 and 0x07 in this order, each at its lowest address (12 R241). A page whose frame is backed
in part is judged by its first byte in the area (log entry 66). -/
def spillTrap (s : State) (ctx va : Nat) : Option Trap :=
  let ps := pageStarts va 0x40840
  match ps.find? (fun a => !inRegion a && (leafAt s ctx a).isNone) with
  | some a => some ⟨0x06, a, 0, 0, decide (a < 2 ^ 52)⟩
  | none =>
    match ps.find? (fun a => inRegion a || (match leafAt s ctx a with
      | some l => !normalLeaf s a l
      | none => false)) with
    | some a => some (trapVa 0x09 a)
    | none =>
      match ps.find? (fun a => match leafAt s ctx a with
        | some l => !firmLeaf l
        | none => false) with
      | some a => some ⟨0x07, a, 0, 0, (match leafAt s ctx a with
        | some l => l.cow
        | none => false)⟩
      | none => none

/-- The limits of a stream's block (12 R241). -/
def streamLimits (b m c o : Nat) : Bool :=
  decide (b + m ≤ 0xFFFFFFFF ∧ 1 ≤ m ∧ 1 ≤ c ∧ c ≤ 768 ∧ o % 64 = 0)

/-- Opens the lowest free slot; the handle, or all ones when none is free. -/
def openStream (ctx b m c spill : Nat) (s : State) : Word × State :=
  match (List.range 256).find? (fun n => decide ((streamAt s n).state = .free)) with
  | none => (0xFFFFFFFF, s)
  | some n =>
    (handleOf s n, modStream n (fun x =>
      { Stream.fresh with gen := x.gen, state := .opened, ctx := ctx, b := b, m := m, c := c, w := b, spill := spill }) s)

/-- TSOPEN (12 R241). Opens a stream; D ← its handle, or all ones when no slot is free. The record of a block outside its
limits names no handle: w7 is a free value. -/
def execTsopen (d a : Sel) (s : State) : Host.Outcome State Fault Refusal :=
  let i : Instr := .tsopen d a
  issue i (fun g s =>
    let c := crewAt s g.slot
    let rd := reader s g g.lead
    let r := fun j => (rd (a.toNat + j)).toNat
    let spill := c.spill.toNat + r 3
    let trap := if !streamLimits (r 0) (r 1) (r 2) (r 3) then some (trapT 2 0 (Config.freeWord s.nonce 0))
      else spillTrap s c.ctx spill
    match trap with
    | some t => failAll g t s
    | none =>
      let q := openStream c.ctx (r 0) (r 1) (r 2) spill s
      advance i g (writeResult i d (fun _ => [q.1]) g q.2)) s

/-- TSBIND's check and effect, shared with CREGW of TSTREAM (12 R243, 17 R343). -/
def bindStream (i : Instr) (g : Group) (h : Word) (s : State) : State :=
  let c := crewAt s g.slot
  if h = 0xFFFFFFFF ∨ (streamNamed s c.ctx h).isSome then
    advance i g (modCrew g.slot (fun c => { c with tstream := h }) s)
  else failAll g (trapT 1 0 h) s

/-- TSBIND (12 R243). TSTREAM ← A. -/
def execTsbind (a : Sel) (s : State) : Host.Outcome State Fault Refusal :=
  issue (.tsbind a) (fun g s => bindStream (.tsbind a) g (reader s g g.lead a.toNat) s) s

/-! ## AFADDT (12 R245, R246) -/

/-- Checks 1 and 2 of 12 R246: the slot of the stream in use. -/
def streamTrap (s : State) (c : Crew) (h : Word) (va : Nat) : Trap ⊕ Nat :=
  if h = 0xFFFFFFFF then .inl (trapT 3 va h)
  else
    match streamNamed s c.ctx h with
    | none => .inl (trapT 1 0 h)
    | some n => .inr n

/-- Whether a ticket is not the seam's own in a dispatch-ticketed stream (12 R246, order 4). -/
def notOwnTicket (s : State) (c : Crew) (n t : Nat) : Bool :=
  (streamAt s n).dispatch && t != (ticketOf s c).toNat

/-- Checks 1 to 4 of an update with a ticket (12 R246). -/
def updateTrap (s : State) (c : Crew) (h : Word) (t va : Nat) : Option Trap :=
  match streamTrap s c h va with
  | .inl e => some e
  | .inr n =>
    let x := streamAt s n
    if t < x.b ∨ x.b + x.m ≤ t then some (trapT 2 va h)
    else if notOwnTicket s c n t then some (trapT 4 va h)
    else none

/-- The checks of a close of `num` tickets from `t` (12 R249). -/
def closeTrap (s : State) (c : Crew) (h : Word) (t num : Nat) : Option Trap :=
  match streamTrap s c h 0 with
  | .inl e => some e
  | .inr n =>
    let x := streamAt s n
    if notOwnTicket s c n t then some (trapT 4 0 h)
    else if (0 < num ∧ x.b + x.m < t + num) ∨ t < x.b then some (trapT 2 0 h)
    else none

/-- Checks 2 to 5 and 7 of 12 R234, then the page type (12 R246, orders 5 and 6). -/
def reachTicket (s : State) (slot va : Nat) (sys : Bool) : (Trap ⊕ (Nat × Leaf)) × State :=
  let ctx := (crewAt s slot).ctx
  if 2 ^ 52 ≤ va then (.inl (trapVa 0x06 va), s)
  else if va % 4 ≠ 0 then (.inl (trapVa 0x05 va), s)
  else if inRegion va then
    (match reachWindow s slot va 4 true true false with
      | .inl t => (.inl t, s)
      | .inr _ => (.inl (trapVa 0x09 va), s))
  else
    match translate s ctx va with
    | none => (.inl ⟨0x06, va, 0, 0, true⟩, s)
    | some l =>
      let s := cacheLeaf ctx va l s
      if l.badForm then (.inl (trapVa 0x0A va), s)
      else if protects l sys .atomic then (.inl ⟨0x07, va, 0, 0, l.cow⟩, s)
      else if !normalLeaf s va l then (.inl (trapVa 0x09 va), s)
      else (.inr (l.target va, l), s)

/-- One worker's AFADDT: its checks, then its update on its way, which arrives at once unless the schedule lets updates
lag. -/
def afaddtOne (d a b : Sel) (once : Bool) (op : Nat) (g : Group) (k : Nat) (s : State) : Option Trap × State :=
  let c := crewAt s g.slot
  let rd := reader s g k
  let va := (pairOf rd a).toNat
  let t := (rd d.toNat).toNat
  let h := boundHandle s c
  match updateTrap s c h t va with
  | some e => (some e, s)
  | none =>
    match reachTicket s g.slot va (runsSystem c) with
    | (.inl e, s) => (some e, s)
    | (.inr (pa, l), s) =>
      let s := settleBytes g.slot (receivers once g k) none (pa / 16 * 16) 16 s
      let u : Update :=
        { id := s.uid, ctx := c.ctx, crew := g.slot, who := receivers once g k, op := op, handle := h, ticket := t,
          value := rd b.toNat, pa := pa, va := va, leaf := l, home := homeOf s pa l.isLocal, pc := g.pc,
          gtid := workerGtid s g.slot k, tries := 0 }
      let s := { s with uid := s.uid + 1, updates := s.updates ++ [u] }
      (none, if s.lag then s else arriveUpdate u s)

/-- AFADDT (12 R245). Sends one update per thread, or one per group when A, B and the ticket are scalar; its slot, or with
SB = 0 its issue, is held until all have been accepted. -/
def execAfaddt (d a b : Sel) (sb : BitVec 3) (s : State) : Host.Outcome State Fault Refusal :=
  let i : Instr := .afaddt d a b sb
  issue i (fun g s =>
    let once := isScalar a && isScalar b && isScalar d
    if slotFull s g sb then wait .slots g s
    else
      let id := s.uid
      let r := eachThread (afaddtOne d a b once id g) (workers once g) { s with uid := id + 1 }
      proceed (fun g s =>
        if s.updates.any (fun u => u.op == id) then
          advance i g (putOp g.slot { newOp s g i sb false g.keys [] with id := id } s)
        else finishStore i sb s.uid [] g s)
        (settle g (spread once g r.1) r.2)) s

/-! ## TCLOSE (12 R249) -/

/-- The closes of a group go on as far as they can; it leaves when none is left, and when its stream's slot has been freed
meanwhile: the closes left are then dropped without a record, which 12 R249 leaves open (log entry 77). -/
def closeStep (i : Instr) (g : Group) (h : Word) (rest : List CloseRange) (s : State) : State :=
  match streamNamed s (crewAt s g.slot).ctx h with
  | none => advance i g s
  | some n =>
    let r := closeRanges n g.slot g.pc h rest s
    match r.1 with
    | [] => advance i g r.2
    | rest => wait (.close h rest) g r.2

/-- The closes that a waiting thread still has to make. -/
def closeWait (t : Thread) : Option (Word × List CloseRange) :=
  match t.run with
  | .waiting (.close h rest) => some (h, rest)
  | _ => none

/-- The closes that a waiting group still has to make, with its lowest thread. -/
def closesLeft (s : State) (g : Group) : Option (Word × List CloseRange) := (threadAt (crewAt s g.slot) g.lead).bind closeWait

/-- The threads of a group that a halt has formed out of several at one TCLOSE (17 R353) make the closes that each has begun;
the group leaves when none is left (05 R105). -/
def closeApart (i : Instr) (g : Group) (s : State) : State :=
  let waits := fun (s : State) => g.keys.filterMap (fun k => (threadAt (crewAt s g.slot) k).bind closeWait)
  let s := ((waits s).eraseDups).foldl (fun s w =>
    let r := match streamNamed s (crewAt s g.slot).ctx w.1 with
      | none => ([], s)
      | some n => closeRanges n g.slot g.pc w.1 w.2 s
    modGroup g (fun t => if closeWait t == some w then { t with run := .waiting (.close w.1 r.1) } else t) r.2) s
  if (waits s).all (·.2.isEmpty) then advance i g s else s

/-- TCLOSE (12 R249). Closes a range of tickets for each thread, or one for the group when A and B are scalar. -/
def execTclose (a b : Sel) (s : State) : Host.Outcome State Fault Refusal :=
  let i : Instr := .tclose a b
  issue i (fun g s =>
    match closesLeft s g with
    | some r =>
      if g.keys.all (fun k => (threadAt (crewAt s g.slot) k).bind closeWait == some r) then closeStep i g r.1 r.2 s
      else closeApart i g s
    | none =>
      let c := crewAt s g.slot
      let once := isScalar a && isScalar b
      let h := boundHandle s c
      let first := fun k => (readReg s g.slot k a.toNat).toNat
      let num := fun k => (readReg s g.slot k b.toNat).toNat
      let chk := fun k => closeTrap s c h (first k) (num k)
      proceed (fun g s =>
        closeStep i g h ((workers once g).map (fun k => ⟨receivers once g k, first k, num k⟩)) s)
        (settle g (spread once g (failures chk (workers once g))) s)) s

/-! ## TDRAIN (12 R253) -/

/-- TDRAIN and TDRAIN.F: waits until the stream is drained; `free` frees its slot. -/
def drainOp (i : Instr) (a : Sel) (free : Bool) (s : State) : Host.Outcome State Fault Refusal :=
  issue i (fun g s =>
    let h := reader s g g.lead a.toNat
    match streamNamed s (crewAt s g.slot).ctx h with
    | none => failAll g (trapT 1 0 h) s
    | some n =>
      if (streamAt s n).state = .drained then advance i g (if free then freeStream n s else s)
      else wait (.drain h free) g s) s

/-- TDRAIN (12 R253). Waits until the stream is drained. -/
def execTdrain (a : Sel) (s : State) : Host.Outcome State Fault Refusal := drainOp (.tdrain a) a false s

/-- TDRAIN.F (12 R253). Waits until the stream is drained, then frees its slot. -/
def execTdrainF (a : Sel) (s : State) : Host.Outcome State Fault Refusal := drainOp (.tdrainF a) a true s

/-! ## Steps of the homes -/

/-- TICKET_UPDATE_ARRIVAL (12 R247). An update on its way arrives at its home slice. -/
def execTicketUpdateArrival (upd : Nat) (s : State) : Host.Outcome State Fault Refusal := .next (arriveById upd s)

/-- TICKET_UPDATE_RETRY (12 R247). A refused update is sent again. -/
def execTicketUpdateRetry (upd : Nat) (s : State) : Host.Outcome State Fault Refusal := .next (arriveById upd s)

/-- Whether a stream's stall is counted (12 R252); while the limit is 0 it is not, and keeps its value (log entry 55). -/
def stallCounts (s : State) (x : Stream) : Bool :=
  let c := tgetD s.contexts x.ctx default
  x.state == .opened && !x.buffered.isEmpty && c.counts && c.stallLimit != 0

/-- TICKET_STALL_EXPIRY (12 R252). A stall that has reached the context's limit is reported, and counts again from 0. -/
def execTicketStallExpiry (slot : Nat) (s : State) : Host.Outcome State Fault Refusal :=
  let x := streamAt s slot
  .next (if stallCounts s x && decide ((tgetD s.contexts x.ctx default).stallLimit ≤ x.stall) then
    postAsync x.ctx 0xFFFF 0 0x0F x.w 8 0 (handleOf s slot) (modStream slot (fun x => { x with stall := 0 }) s)
  else s)

end Sys2Proof.Machine
end

