-- ==== Sys2Proof/Machine/Report.lean ====
section
/-!
DEFINITION. What the device itself reads and writes through a context's tables, events for the owner (20 R389, R390, R392),
and the posting of fault records (17 R337).
-/
namespace Sys2Proof.Machine

/-! ## The device's own accesses through a context's tables -/

/-- Parts of a range of addresses, one per 64 KiB page: address and bytes. -/
def pageParts (va n : Nat) : List (Nat × Nat) :=
  (pageStarts va n).map (fun a => (a, min (va + n) ((a / 65536 + 1) * 65536) - a))

/-- Bytes read through a context's tables; none where a page has no valid translation to memory. -/
def loadCtx (s : State) (ctx va n : Nat) : Option (List Byte) :=
  (pageParts va n).foldl (fun acc p =>
    match acc, leafAt s ctx p.1 with
    | some bs, some l => if backed s (l.target p.1) then some (bs ++ seenBytes s l (l.target p.1) p.2) else none
    | _, _ => none) (some [])

/-- Whether any byte that is read of a context's range is poisoned, or comes back so (19 R358). -/
def ctxPoisoned (s : State) (ctx va n : Nat) : Bool :=
  (pageParts va n).any (fun p => match leafAt s ctx p.1 with
    | some l => memPoisoned s (l.target p.1) p.2 || spoiltRead s (l.target p.1) p.2
    | none => false)

/-- A read of a context's range takes the errors with which a link returns it. -/
def takeCtxReads (ctx va n : Nat) (s : State) : State :=
  (pageParts va n).foldl (fun st p => match leafAt s ctx p.1 with
    | some l => takeReads (l.target p.1) p.2 st
    | none => st) s

/-- The pages that begin at some addresses enter the translation caches. -/
def cacheStarts (ctx : Nat) (starts : List Nat) (s : State) : State :=
  starts.foldl (fun st a => match leafAt s ctx a with
    | some l => cacheLeaf ctx a l st
    | none => st) s

/-- The device has read a context's range: its leaves enter the translation caches (10 R213), and the read has taken the errors with
which a link returned it. -/
def afterRead (ctx va n : Nat) (s : State) : State := takeCtxReads ctx va n (cacheStarts ctx (pageStarts va n) s)

/-- Whether every page of a range is valid and meets a condition. -/
def pagesMeet (s : State) (ctx va n : Nat) (ok : Nat → Leaf → Bool) : Bool :=
  (pageStarts va n).all (fun a => match leafAt s ctx a with
    | some l => ok a l
    | none => false)

/-- Valid, normal, writable and pinned, as fault queues, sumps and save areas must be; not copy-on-write shared, which
no store may reach (10 R216). -/
def firmPage (s : State) (a : Nat) (l : Leaf) : Bool := normalLeaf s a l && firmLeaf l

/-- A page that a store can reach. -/
def storePage (s : State) (a : Nat) (l : Leaf) : Bool := backed s (l.target a) && l.writable && !l.cow

/-- A store through a context's tables, one event; none where a page cannot be stored to. AC and D are set (10 R213). -/
def storeCtx (ctx va : Nat) (bs : List Byte) (s : State) : Option State :=
  if pagesMeet s ctx va bs.length (storePage s) then
    some ((pageParts va bs.length).foldl (fun st p =>
      match leafAt s ctx p.1 with
      | some l => leafStore (l.target p.1) ((bs.drop (p.1 - va)).take p.2) (openLeaf l (l.target p.1) p.2 (cacheLeaf ctx p.1 l st))
      | none => st) s)
  else none

/-- Words that the device reads through a context's tables; none where a page cannot be used, or, by the model's choice, where what
comes back is poisoned (log entry 76). -/
def loadWords (s : State) (ctx va n : Nat) : Option (List Word) :=
  if ctxPoisoned s ctx va (4 * n) then none else (loadCtx s ctx va (4 * n)).map wordsOfBytes

/-- The bytes of words. -/
def bytesOfWords (ws : List Word) : List Byte := ws.flatMap (fun w => bytesOf 4 w.toNat)

/-! ## Posting records (17 R337) -/

/-- Delivers a record to the host, as an event of kind 3. -/
def deliver (ctx : Nat) (r : FaultRec) (s : State) : State :=
  raiseEvent (eventWords 3 (r.words ++ [BitVec.ofNat 32 r.seq]) ctx 0 0 0)
    (modCtx ctx (fun x => { x with host := x.host ++ [r] }) s)

/-- A handler crew's wake flag is set. -/
def wakeCrew (c : Crew) : Crew := if runsSystem c then { c with wake := true } else c

/-- Every handler crew's wake flag is set, on the device or saved (17 R337, R348). -/
def wakeHandlers (ctx : Nat) (s : State) : State :=
  modCtx ctx (fun x =>
    { x with saved := x.saved.map (fun v => { v with crews := v.crews.map (fun e => (e.1, wakeCrew e.2)) }) })
    { s with crews := s.crews.map (fun e => if e.2.ctx = ctx then (e.1, wakeCrew e.2) else e) }

/-- The VA of the `k`-th record of a ring. -/
def ringSlot (q : FaultQueue) (k : Nat) : Nat := q.base + k % q.size * 32

/-- Writes a record to the ring, or delivers it to the host when its page has failed. -/
def writeRecord (ctx : Nat) (r : FaultRec) (s : State) : State :=
  let q := (tgetD s.contexts ctx default).fq
  let va := ringSlot q q.count
  if pagesMeet s ctx va 32 (firmPage s) then
    match storeCtx ctx va (bytesOfWords r.words) s with
    | some s' => wakeHandlers ctx (modCtx ctx (fun x =>
        { x with fq := { x.fq with count := x.fq.count + 1, ring := x.fq.ring ++ [r] } }) s')
    | none => deliver ctx r s
  else deliver ctx r s

/-- Whether the ring is full, or a synchronous record waits for room. -/
def ringFull (q : FaultQueue) : Bool := decide (q.size ≤ q.ring.length) || !q.held.isEmpty

/-- Posts one record: to the host or the debugger, to the ring, held when it is full, or dropped when it is asynchronous
and the ring is full. -/
def postRecord (ctx : Nat) (r : FaultRec) (s : State) : State :=
  let q := (tgetD s.contexts ctx default).fq
  if r.toHost || r.debug then deliver ctx r s
  else if ringFull q then
    modCtx ctx (fun x => { x with fq :=
      if r.async then { x.fq with dropped := x.fq.dropped + 1 } else { x.fq with held := x.fq.held ++ [r] } }) s
  else writeRecord ctx r s

/-- Held records are posted while there is room. -/
def postHeld (ctx : Nat) : Nat → State → State
  | 0, s => s
  | n + 1, s =>
    let q := (tgetD s.contexts ctx default).fq
    match q.held with
    | [] => s
    | r :: rs =>
      if q.ring.length < q.size then
        postHeld ctx n (writeRecord ctx r (modCtx ctx (fun x => { x with fq := { x.fq with held := rs } }) s))
      else s

/-- Posts the oldest record that a context has produced. -/
def postOldest (ctx : Nat) (s : State) : State :=
  match (tgetD s.contexts ctx default).fq.produced with
  | [] => s
  | r :: rs => postRecord ctx r (modCtx ctx (fun x => { x with fq := { x.fq with produced := rs } }) s)

/-- FAULT_RECORD_POST (17 R337). The oldest record that the context has produced is posted. -/
def execFaultRecordPost (ctx : Nat) (s : State) : Host.Outcome State Fault Refusal := .next (postOldest ctx s)

end Sys2Proof.Machine
end

