-- ==== Sys2Proof/Machine/Level.lean ====
section
/-!
DEFINITION. Levels of work (08 R166 to R168, R181), the end of packets (20 R376, R381, R383), and what the completion of an
instance brings about: its fences, its waits, its parent's counter, the next phase.
-/
namespace Sys2Proof.Machine

/-! ## Instances -/

/-- The level code of a kind (08 R166). -/
def LevelKind.code : LevelKind → Nat
  | .graph => 1
  | .phase => 2
  | .job => 3

/-- The instance of a level that an identifier names in a context: the one that has not completed, else the latest. -/
def levelNamed (s : State) (ctx code ident : Nat) : Option Nat :=
  let ids := if code = 0 then
      (s.launches.filter (fun e => e.2.ctx == ctx && e.2.ident == ident)).map (fun e => (e.1, e.2.done))
    else (s.levels.filter (fun e => e.2.ctx == ctx && e.2.kind.code == code && e.2.ident == ident)).map
      (fun e => (e.1, e.2.done))
  match ids.find? (fun e => !e.2) with
  | some e => some e.1
  | none => (ids.getLast?).map (·.1)

/-- Whether an instance has completed. -/
def levelDone (s : State) (code id : Nat) : Bool :=
  if code = 0 then (match tget s.launches id with
    | some l => l.done
    | none => true)
  else (match tget s.levels id with
    | some l => l.done
    | none => true)

/-- Whether a level is cancelled, by its own flag or by one above it (08 R181); `n` levels are looked at. -/
def levelCancelled (s : State) : Nat → Nat → Bool
  | 0, _ => false
  | n + 1, id =>
    match tget s.levels id with
    | some l => l.cancel || levelCancelled s n l.parent
    | none => false

/-- Whether a launch is cancelled. -/
def launchCancelled (s : State) (l : Launch) : Bool := l.cancel || levelCancelled s 3 l.graph

/-- The identifiers of a crew's own instances, by level code (08 R187). -/
def ownLevel (s : State) (l : Launch) (id code : Nat) : Nat :=
  let up := fun x => (tgetD s.levels x default).parent
  match code with
  | 0 => id
  | 1 => l.graph
  | 2 => up l.graph
  | _ => up (up l.graph)

/-! ## Rings (20 R372 to R376) -/

/-- The VA of ring word `x`. -/
def Qcb.va (q : Qcb) (x : Nat) : Nat := (q.ring.toNat + 4 * (x % q.size)) % 2 ^ 64

/-- Ring word `x`, read through the tables of the queue's context, if there is such a context (20 R376). -/
def ringWord (s : State) (q : Qcb) (x : Nat) : Option Word :=
  if (tget s.contexts q.ctx).isSome then (loadWords s q.ctx (q.va x) 1).bind (·.head?) else none

/-- The state after `n` ring words from `x` on have been read. -/
def readsRing (q : Qcb) (x : Nat) : Nat → State → State
  | 0, s => s
  | n + 1, s => readsRing q (x + 1) n (if (tget s.contexts q.ctx).isSome then afterRead q.ctx (q.va x) 4 s else s)

/-- Stores all ones into a ring word through the tables of the queue's context, if there is such a context, as a store event (20
R374). -/
def clearWord (q : Qcb) (x : Nat) (s : State) : State :=
  if (tget s.contexts q.ctx).isSome then (storeCtx q.ctx (q.va x) (bytesOfWords [0xFFFFFFFF]) s).getD s else s

/-- Stores all ones into the words of a packet. -/
def clearRing (q : Qcb) (x : Nat) : Nat → State → State
  | 0, s => s
  | n + 1, s => clearRing q (x + 1) n (clearWord q x s)

/-- A packet of a queue has been performed with a status: it is recorded, the words that its header counts are cleared, and RIDX
passes them (20 R376). -/
def finishQueue (n st : Nat) (s : State) : State :=
  let q := qcbAt s n
  let len := bits (q.header.getD 0).toNat 31 16
  let next := q.ridx + BitVec.ofNat 32 len
  let idle := q.err || q.kidx == next
  modSlot n (fun x => { x with idle := if idle then some s.wall else none })
    (modQcb n (fun q =>
      { q with
        lastIdx := if st = 0 then q.lastIdx else q.ridx
        lastStat := if st = 0 then q.lastStat else st
        ridx := next
        done := q.done + 1
        state := if idle then 0 else 1
        header := none
        held := none }) (clearRing q q.ridx.toNat len s))

/-- The end of a packet with a status (20 R371, R376). -/
def finishPacket (src : PktSrc) (st : Nat) (s : State) : State :=
  match src with
  | .direct => { s with fabric := { s.fabric with direct := none, pktStatus := st } }
  | .queue n => finishQueue n st s

/-- STATE while a packet holds its parser (20 R372): 3 in WAIT and PHASEOPEN, 4 in LAUNCH, and 5 in any other. -/
def Held.code : Held → Nat
  | .level _ _ _ => 3
  | .phase _ _ _ => 3
  | .seed _ _ _ => 4
  | _ => 5

/-- A packet holds its parser. -/
def holdPacket (src : PktSrc) (h : Held) (s : State) : State :=
  match src with
  | .direct => { s with fabric := { s.fabric with direct := some h } }
  | .queue n => modQcb n (fun q => { q with held := some h, state := h.code }) s

/-- What a source holds. -/
def heldBy (s : State) (src : PktSrc) : Option Held :=
  match src with
  | .direct => s.fabric.direct
  | .queue n => (qcbAt s n).held

/-- The sources whose parsers run: direct packets, and the queues that are mapped (20 R386). -/
def runningSources (s : State) : List PktSrc := .direct :: s.fabric.slots.map (fun e => .queue e.2.queue)

/-! ## Eviction schedules (10 R207, R208) -/

/-- Intervals without another interval. -/
def cutPins (a n : Nat) (ps : List (Nat × Nat)) : List (Nat × Nat) :=
  ps.flatMap (fun p =>
    [(p.1, min (p.1 + p.2) a - p.1), (max p.1 (a + n), p.1 + p.2 - max p.1 (a + n))].filter (fun x => decide (0 < x.2)))

/-- The state with every cluster's lines changed. -/
def modLines (f : CacheLine → Option CacheLine) (s : State) : State :=
  { s with clusters := s.clusters.map (fun e => (e.1, { e.2 with lines := e.2.lines.filterMap f })) }

/-- The lines that every cluster holds of a range of a context are pinned, as far as their sets admit it (10 R206). -/
def pinHeld (ctx a n : Nat) (s : State) : State :=
  { s with clusters := s.clusters.map (fun e => (e.1, e.2.lines.foldl (fun c l =>
      match lineVas s ctx a n l.line with
      | [] => c
      | vs => pinLine l.line (vs.map (fun v => (ctx, v))) c) e.2)) }

/-- Pins that meet a condition end. -/
def dropPins (gone : Nat × Nat → Bool) (l : CacheLine) : CacheLine := { l with pins := l.pins.filter (fun p => !gone p) }

/-- The clusters of the device. -/
def allClusters (s : State) : List Nat := List.range (s.units.clusters0 + s.units.clusters1)

/-- Brings lines into every cluster's cache, ascending, as PREF level 1. -/
def prefetchRange (ctx : Nat) (va : Nat) : Nat → State → State
  | 0, s => s
  | n + 1, s => prefetchRange ctx (va + 128) n ((allClusters s).foldl (fun s cl => prefetch ctx cl va 1 s) s)

/-- One entry of a schedule. -/
def applyEvict (ctx : Nat) (e : Evict) (s : State) : State :=
  let w := recWord e.words
  let a := w 2 + w 3 * 2 ^ 32
  let n := w 4 + w 5 * 2 ^ 32
  if a % 128 ≠ 0 ∨ n % 128 ≠ 0 ∨ 2 ^ 40 < n then s
  else
    match w 1 % 4 with
    | 0 => pinHeld ctx a n (modCtx ctx (fun x => { x with pins := x.pins ++ [(a, n)] }) s)
    | 1 => modLines (fun l => some (dropPins (fun p => p.1 == ctx && decide (a ≤ p.2 ∧ p.2 < a + n)) l))
        (modCtx ctx (fun x => { x with pins := cutPins a n x.pins }) s)
    | 2 => modLines (fun l => if (lineVas s ctx a n l.line).isEmpty then some l else none) s
    | _ => prefetchRange ctx a (n / 128) s

/-- The entries of a phase are applied in table order (10 R208). -/
def applySchedule (ctx ordinal : Nat) (s : State) : State :=
  ((tgetD s.contexts ctx default).evicts.filter (fun e => recWord e.words 0 == ordinal)).foldl
    (fun s e => applyEvict ctx e s) s

/-! ## Completion (08 R166, R167, R181; 20 R381, R383) -/

/-- The open job of a context. -/
def openJob (s : State) (ctx : Nat) : Option Nat :=
  (s.levels.find? (fun e => e.2.ctx == ctx && e.2.kind == .job && !e.2.closed && !e.2.done)).map (·.1)

/-- The open phase of a job. -/
def openPhase (s : State) (job : Nat) : Option Nat :=
  (s.levels.find? (fun e => e.2.kind == .phase && e.2.parent == job && !e.2.closed && !e.2.done)).map (·.1)

/-- Whether a job has a phase that has not completed. -/
def phaseRunning (s : State) (job : Nat) : Bool :=
  s.levels.any (fun e => e.2.kind == .phase && e.2.parent == job && !e.2.done)

/-- Makes a level: a child of its parent, whose counter and ordinals count it (08 R166). -/
def newLevel (kind : LevelKind) (ctx ident parent : Nat) (s : State) : State :=
  let ord := (tgetD s.levels parent default).made
  let l : Level := { kind := kind, ctx := ctx, ident := ident, parent := parent, counter := 0, cancel := false,
                     closed := false, made := 0, ordinal := ord, done := false, reported := false }
  { s with uid := s.uid + 1
           levels := tset (tmod s.levels parent (fun p => { p with counter := p.counter + 1, made := p.made + 1 })) s.uid l }

/-- Whether an identifier names an instance of a level that has not completed (20 R381). -/
def identTaken (s : State) (ctx code ident : Nat) : Bool :=
  match levelNamed s ctx code ident with
  | some id => !levelDone s code id
  | none => false

/-- Whether a job is open (20 R381). -/
def jobStands (s : State) (job : Nat) : Bool :=
  match tget s.levels job with
  | some l => !l.closed && !l.done
  | none => false

/-- PHASE_BEGIN (20 R381): the phase begins in its job with the next ordinal and applies the eviction schedule; when the identifier
repeats, the packet is refused. -/
def beginPhase (ctx ident job : Nat) (s : State) : Nat × State :=
  if identTaken s ctx 2 ident then (4, s)
  else (0, applySchedule ctx (tgetD s.levels job default).made (newLevel .phase ctx ident job s))

/-- Ends what a source holds when it has come about: a WAIT whose instance has completed, a PHASEOPEN whose job has no
running phase, or is open no longer (log entry 24), anything whose context has been killed (20 R377). -/
def endHeld (src : PktSrc) (s : State) : State :=
  match heldBy s src with
  | some (.level _ code id) => if levelDone s code id then finishPacket src 0 s else s
  | some (.phase ctx ident job) =>
    if !jobStands s job then finishPacket src 4 s
    else if phaseRunning s job then s
    else
      let r := beginPhase ctx ident job s
      finishPacket src r.1 r.2
  | some (.preempt ctx) => if (tgetD s.contexts ctx default).status = .saved then finishPacket src 0 s else s
  | some (.move mig) => if (tget s.migrations mig).isNone then finishPacket src 0 s else s
  | some (.ended st) => finishPacket src st s
  | _ => s

/-- Ends what every running parser holds, as far as it has come about. -/
def endWaits (s : State) : State := (runningSources s).foldl (fun s src => endHeld src s) s

/-- A fence is made: its store, one event, and the owner's event of kind 1 (20 R383). -/
def fireFence (f : Fence) (s : State) : State :=
  match storeCtx f.ctx f.va (bytesOf 8 f.value.toNat) s with
  | some s' => raiseEvent (eventWords 1 [] f.ctx f.level f.ident 0) s'
  | none => raiseEvent (eventWords 1 [] f.ctx f.level f.ident 4) s

/-- The fences on an instance are made, in order. -/
def fireFences (code id : Nat) (s : State) : State :=
  (s.fences.filter (fun f => f.level == code && f.target == id)).foldl (fun s f => fireFence f s)
    { s with fences := s.fences.filter (fun f => !(f.level == code && f.target == id)) }

/-- The cancel-complete event of an instance whose own flag was set (08 R181). -/
def reportCancel (ctx code ident : Nat) (flag : Bool) (s : State) : State :=
  if flag then raiseEvent (eventWords 2 [] ctx code ident 0) s else s

/-- LEVEL_COMPLETE (08 R166): a closed level whose counter is 0 completes; then its parent is looked at. -/
def completeLevels : Nat → Nat → State → State
  | 0, _, s => s
  | n + 1, id, s =>
    match tget s.levels id with
    | some l =>
      if l.closed && !l.done && l.counter == 0 then
        let s := { s with levels := tset s.levels id { l with done := true, reported := l.cancel } }
        let s := reportCancel l.ctx l.kind.code l.ident l.cancel (fireFences l.kind.code id s)
        completeLevels n l.parent
          { s with levels := tmod s.levels l.parent (fun p => { p with counter := p.counter - 1 }) }
      else s
    | none => s

/-- LAUNCH_COMPLETE (08 R167): a launch whose counter is 0 completes; tickets that no seam was given are closed (12
R250); its graph is counted down. -/
def completeLaunch (id : Nat) (s : State) : State :=
  match tget s.launches id with
  | some l =>
    if l.counter = 0 ∧ l.done = false then
      let s := match l.stream.bind (streamNamed s l.ctx) with
        | some n =>
          let x := streamAt s n
          (List.range (x.m - l.seams)).foldl (fun s j => closeFully n (x.b + l.seams + j) s) s
        | none => s
      let s := { s with launches := tset s.launches id { l with done := true } }
      let s := reportCancel l.ctx 0 l.ident l.cancel (fireFences 0 id s)
      endWaits (completeLevels 3 l.graph
        { s with levels := tmod s.levels l.graph (fun g => { g with counter := g.counter - 1 }) })
    else s
  | none => s

/-- A record of a launch completes: 1 is subtracted from the launch's counter (08 R167). -/
def countDown (id : Nat) (s : State) : State :=
  completeLaunch id { s with launches := tmod s.launches id (fun l => { l with counter := l.counter - 1 }) }

/-- Sets the cancel flag of an instance that has not completed (08 R181). -/
def setCancel (code id : Nat) (s : State) : State :=
  if code = 0 then { s with launches := tmod s.launches id (fun l => { l with cancel := true }) }
  else { s with levels := tmod s.levels id (fun l => { l with cancel := true }) }

end Sys2Proof.Machine
end

