-- ==== Sys2Proof/Machine/Special.lean ====
section
/-!
DEFINITION. SREG (03 R57 to R60, 17 R403).
-/
namespace Sys2Proof.Machine

/-! ## What is present (03 R59, 19 R368) -/

/-- Whether a half of a partition has every slice. -/
def halfUsable (s : State) (cl part half : Nat) : Bool :=
  !(s.units.deadSlices.any (fun d => d.1 == cl && d.2.1 == part && d.2.2 / 8 == half))

/-- Usable halves of a partition. -/
def halvesOf (s : State) (cl part : Nat) : List Nat := [0, 1].filter (halfUsable s cl part)

/-- The partitions of a cluster with a usable half. -/
def partsOf (s : State) (cl : Nat) : List Nat := [0, 1, 2, 3].filter (fun p => !(halvesOf s cl p).isEmpty)

/-- The seam of a crew. -/
def seamOf (s : State) (c : Crew) : Option Seam :=
  match c.role with
  | .seam id _ _ => tget s.seams id
  | .handler _ => none

/-- NCREW + 1 of a seam. -/
def Seam.crewCount (m : Seam) : Nat := bits (m.words.getD 6 0).toNat 9 0 + 1

/-- Lanes launched in the last crew of a seam (08 R169). -/
def Seam.tail (m : Seam) : Nat :=
  let n := bits (m.words.getD 6 0).toNat 23 19
  if n = 0 then 32 else n

/-- SEAMCLUSTER of a crew. -/
def seamClusterOf (c : Crew) : Nat :=
  match c.role with
  | .seam _ _ k => k
  | .handler _ => 0

/-- SREG 0 to 15 but the clocks, for a thread of the crew in `slot` (03 R58, 17 R403). -/
def sregOwn (s : State) (slot k n : Nat) : Word :=
  let c := crewAt s slot
  let lane := match threadAt c k with
    | some t => identityLane t k
    | none => k
  match n with
  | 0 => BitVec.ofNat 32 lane
  | 1 => BitVec.ofNat 32 (crewixOf c)
  | 2 => BitVec.ofNat 32 (seamixOf s c)
  | 3 => match seamOf s c with
    | some m => BitVec.ofNat 32 m.crewCount
    | none => 1
  | 4 => BitVec.ofNat 32 (seamClusterOf c)
  | 5 => BitVec.ofNat 32 (clusterOf slot)
  | 6 => BitVec.ofNat 32 (dieOf s (clusterOf slot))
  | 7 => launchWord s c
  | 10 => gtidOf s c lane
  | 11 => match seamOf s c with
    | some m => BitVec.ofNat 32 (32 * (m.crewCount - 1) + m.tail)
    | none => 32
  | 12 => Config.devid
  | 13 => BitVec.ofNat 32 c.ctx
  | 14 => match seamOf s c with
    | some m => m.ticket
    | none => 0xFFFFFFFF
  | _ => match tidOf k with
    | .lane _ => 0xFFFFFFFF
    | .helper r w => BitVec.ofNat 32 (w + r * 32)

/-- SREG 16 to 31 (03 R59). -/
def sregCount (s : State) (slot n : Nat) : Nat :=
  let u := s.units
  let cl := clusterOf slot
  match n with
  | 16 => u.clusters0 + u.clusters1
  | 17 => u.clusters0
  | 18 => u.clusters1
  | 19 => (partsOf s cl).length
  | 20 => 8 * (halvesOf s cl (partitionOf slot)).length
  | 21 => 32 - ((u.deadBanks.filter (fun d => d.1 == cl && decide (d.2 < 32))).eraseDups).length
  | 22 => u.homes0 + u.homes1
  | 23 => u.hbmStacks.length
  | 24 => (u.hbmStacks.map (fun k => u.channels.getD k 0)).sum
  | 25 => u.lanes0
  | 26 => u.lanes1
  | 27 => 64
  | 28 => 64
  | 29 => 256
  | 30 => 48
  | _ => 32

/-- What thread `k` reads (03 R58 to R60). -/
def sregValue (s : State) (slot k n : Nat) : Word :=
  if n = 8 then BitVec.ofNat 32 s.clock
  else if n = 9 then
    match (threadAt (crewAt s slot) k).bind (·.latch) with
    | some w => w
    | none => BitVec.ofNat 32 (s.clock / 2 ^ 32)
  else if 16 ≤ n then BitVec.ofNat 32 (sregCount s slot n)
  else sregOwn s slot k n

/-- A read of CLOCKLO latches the high word for every thread of the group (03 R60). -/
def latchClock (n : Nat) (g : Group) (s : State) : State :=
  if n = 8 then modGroup g (fun t => { t with latch := some (BitVec.ofNat 32 (s.clock / 2 ^ 32)) }) s else s

/-- SREG (03 R57). D ← the special register's value. CLOCKHI with a scalar D is the word that the lowest thread has latched: the
rule does not say whose where they differ (log entry 59). -/
def execSreg (d : Sel) (imm : BitVec 8) (st : BitVec 3) (s : State) : Host.Outcome State Fault Refusal :=
  issue (.sreg d imm st) (fun g s =>
    advance (.sreg d imm st) g (latchClock imm.toNat g
      (writeResult (.sreg d imm st) d (fun k => [sregValue s g.slot k imm.toNat]) g s))) s

end Sys2Proof.Machine
end

