-- ==== Sys2Proof/Machine/Placement.lean ====
section
/-!
DEFINITION. Room for crews and their placement (05 R100 to R103, R119; 08 R171; 10 R195, R199; 17 R331, R403), and the
active set of a partition (05 R114, R115).
-/
namespace Sys2Proof.Machine

/-! ## Regions (05 R119, 10 R195) -/

/-- Bytes of the near region that a vector view takes. -/
def nearBytes (v : Word) : Nat :=
  let b := bits v.toNat 19 7 * 128
  let e := min (b + bits v.toNat 26 20 * 128) 0x40000
  if b < e then (e + 4095) / 4096 * 4096 - b / 4096 * 4096 else 0

/-- Whether a vector view covers a byte of a 64 KiB granule. -/
def vectorCovers (v : Word) (n : Nat) : Bool :=
  let b := bits v.toNat 19 7 * 128
  let e := b + bits v.toNat 26 20 * 128
  decide (b < (n + 1) * 65536 ∧ n * 65536 < e)

/-- Whether a tile or accumulator view covers a granule. -/
def tileCovers (v : Word) (n : Nat) : Bool :=
  decide (bits v.toNat 19 16 ≤ n ∧ n < bits v.toNat 19 16 + viewCount v)

/-- The far granules that three views take. -/
def farGranules (v t a : Word) : Nat :=
  ((List.range 12).filter (fun n => vectorCovers v (n + 4) || tileCovers t (n + 4) || tileCovers a (n + 4))).length

/-- The near bytes of a resident crew. -/
def Crew.near (c : Crew) : Nat := nearBytes c.viewV

/-- The far granules of a resident crew. -/
def Crew.far (c : Crew) : Nat := farGranules c.viewV c.viewT c.viewA

/-! ## Room -/

/-- The crews of a partition of a cluster. -/
def crewsIn (s : State) (cl p : Nat) : List (Nat × Crew) := s.crews.filter (fun e => e.1 / 48 == cl * 4 + p)

/-- How many crews more a partition holds, by slots (05 R101) and near bytes (05 R119). -/
def partitionRoom (s : State) (cl p near : Nat) : Nat :=
  if (halvesOf s cl p).isEmpty then 0
  else
    let cs := crewsIn s cl p
    let n := 48 - cs.length
    if near = 0 then n else min n ((0x40000 - (cs.map (fun e => e.2.near)).sum) / near)

/-- Far granules in use in a cluster. -/
def farUsed (s : State) (cl : Nat) : Nat :=
  ((s.crews.filter (fun e => clusterOf e.1 == cl)).map (fun e => e.2.far)).sum

/-- How many crews more a cluster holds. -/
def clusterRoom (s : State) (cl near far : Nat) : Nat :=
  let n := ([0, 1, 2, 3].map (fun p => partitionRoom s cl p near)).sum
  if far = 0 then n else min n ((32 - farUsed s cl) / far)

/-- How many crews an empty cluster holds. -/
def emptyRoom (s : State) (cl near far : Nat) : Nat := clusterRoom { s with crews := [] } cl near far

/-- The clusters of a die (03 R58). -/
def dieClusters (s : State) (die : Nat) : List Nat :=
  if die = 0 then List.range s.units.clusters0
  else (List.range s.units.clusters1).map (· + s.units.clusters0)

/-! ## Task records and queues, as far as placement asks (08 R169, R172) -/

/-- A queue that is not bound. -/
def TaskQueue.fresh : TaskQueue :=
  { ctx := none, chip := [], sump := 0, size := 4096, h := 0, t := 0, held := false, stuck := false, age := 0,
    since := none }

/-- The task queue with a number. -/
def queueAt (s : State) (q : Nat) : TaskQueue := tgetD s.queues q TaskQueue.fresh

/-- Crews in the seam. -/
def taskCrews (ws : List Word) : Nat := bits (recWord ws 6) 9 0 + 1

/-- Clusters in the seam. -/
def taskClusters (ws : List Word) : Nat := bits (recWord ws 6) 11 10 + 1

/-- COOP. -/
def taskCoop (ws : List Word) : Bool := bitAt (recWord ws 6) 18

/-- Picks a cluster for each need in turn, the greatest needs first: `rooms` are clusters with their room. -/
def assignTo (rooms : List (Nat × Nat)) : List (Nat × Nat) → List (Nat × Nat) → Option (List (Nat × Nat))
  | [], acc => some acc
  | (k, n) :: ks, acc =>
    match rooms.find? (fun r => decide (n ≤ r.2) && !(acc.any (fun a => a.2 == r.1))) with
    | some r => assignTo rooms ks ((k, r.1) :: acc)
    | none => none

/-- Crews on each cluster of a seam (05 R103). -/
def shares (n c : Nat) : List (Nat × Nat) := (List.range c).map (fun k => (k, (k + 1) * n / c - k * n / c))

/-- The needs of a seam, the greatest first. -/
def needs (n c : Nat) : List (Nat × Nat) :=
  let m := (n + c - 1) / c
  (shares n c).filter (fun e => e.2 == m) ++ (shares n c).filter (fun e => e.2 != m)

/-- Clusters for a seam, one per seam cluster: for all its crews when it is placed whole, else one with room for a
crew. -/
def pickClusters (rooms : List (Nat × Nat)) (n c : Nat) (whole : Bool) : Option (List Nat) :=
  (assignTo rooms (if whole then needs n c else [(0, 1)]) []).map (fun l =>
    (List.range l.length).map (fun k => ((l.find? (fun e => e.1 == k)).map (·.2)).getD 0))

/-- The ticket that the launch's next dispatch is given (08 R177). -/
def nextTicket (s : State) (l : Launch) : Word :=
  match l.stream.bind (streamNamed s l.ctx) with
  | some n => if l.seams < (streamAt s n).m then BitVec.ofNat 32 ((streamAt s n).b + l.seams) else 0xFFFFFFFF
  | none => 0xFFFFFFFF

/-! ## Bank owners (10 R199) -/

/-- Whether a context is resident (08 R175, 17 R331): one that is being pre-empted is so until its state has been saved (17 R347,
step 7). -/
def ctxResident (s : State) (ctx : Nat) : Bool :=
  match tget s.contexts ctx with
  | some x => x.status == .resident || x.status == .preempting
  | none => false

/-- Whether the bank owner of a cluster, and a CREGW that waits to make one, admit a context's crews (10 R199). -/
def ownerFree (s : State) (cl ctx : Nat) : Bool :=
  let c := clusterAt s cl
  !(ownedByOther c ctx) && !(c.owner.isNone && c.switches.any (fun r => r.ctx != ctx && makesOwner c r.value))

/-- The head that a die's hoist has chosen, while it waits to be placed (08 R176). -/
def waitingHead (s : State) (die : Nat) : Option Task :=
  match (tget s.chosen die).map (queueAt s) with
  | some x => if (x.ctx.any (ctxResident s)) && !x.stuck then x.chip.head? else none
  | none => none

/-- The clusters on which a chosen head waits to set its launch's bank modes, so that they get an owner: those that it would take,
were no crew of another context there; with its context (10 R199, 20 R382; log entry 78). -/
def claims (s : State) (die : Nat) : Nat × List Nat :=
  match waitingHead s die with
  | none => (0, [])
  | some t =>
    let l := tgetD s.launches t.launch default
    match l.banks with
    | none => (0, [])
    | some v =>
      let near := nearBytes l.viewV
      let far := farGranules l.viewV l.viewT l.viewA
      let alone := { s with crews := s.crews.filter (fun e => e.2.ctx == l.ctx) }
      let rooms := (dieClusters s die).filterMap (fun cl =>
        if ownerFree s cl l.ctx then some (cl, clusterRoom alone cl near far) else none)
      let whole := taskCoop t.words || nextTicket s l != 0xFFFFFFFF
      let cls := (pickClusters rooms (taskCrews t.words) (taskClusters t.words) whole).getD []
      (l.ctx, cls.filter (fun cl =>
        let c := clusterAt s cl
        !(l.visited.contains cl) && c.owner.isNone && switches c v && makesOwner c v))

/-- Whether the bank owner of a cluster, and what waits to make one, a CREGW or a chosen head, admit a context's crews (10 R199). -/
def ownerAdmits (s : State) (cl ctx : Nat) : Bool :=
  ownerFree s cl ctx && [0, 1].all (fun die =>
    let r := claims s die
    r.1 == ctx || !(r.2.contains cl))

/-- Whether a launch's initial bank modes can be in force on a cluster (10 R198, 20 R382). -/
def banksAdmit (s : State) (cl : Nat) (l : Launch) : Bool :=
  match l.banks with
  | none => true
  | some v => l.visited.contains cl || !(switches (clusterAt s cl) v) || switchReady s cl l.ctx v

/-- Sets a launch's initial bank modes on a cluster before its first crew there (20 R382). -/
def setBanks (cl id : Nat) (s : State) : State :=
  let l := tgetD s.launches id default
  match l.banks with
  | none => s
  | some v =>
    if l.visited.contains cl then s
    else
      let s := { s with launches := tmod s.launches id (fun l => { l with visited := sadd l.visited cl }) }
      if switches (clusterAt s cl) v then switchBanks cl l.ctx v s else s

/-! ## Placement -/

/-- What a crew is placed with (08 R171, 17 R403). -/
structure CrewPlan where
  ctx : Nat
  role : CrewRole
  viewV : Word
  viewT : Word
  viewA : Word
  entry : Nat
  frame : DWord
  arg : Word
  w6 : Word
  det : Bool
  key : DWord
  lanes : Nat
  deriving DecidableEq, Repr, Inhabited

/-- A launched thread. -/
def newThread (entry ready : Nat) : Thread :=
  { pc := entry, run := .running, preds := 0, draws := 0, iter := none, latch := none, clause := none, group := 0,
    ready := ready, stale := [], farAt := none, helper := none }

/-- The scalar registers of a placed crew: FRAME, ARG, w6, and zeros. -/
def startRegs (p : CrewPlan) : Table Word :=
  tput (tput (tput (tput [] 0 (p.frame.setWidth 32) 0) 1 ((p.frame >>> 32).setWidth 32) 0) 2 p.arg 0) 3 p.w6 0

/-- A crew as it is placed (08 R171). -/
def newCrew (p : CrewPlan) (half clock : Nat) (act : Bool) : Crew :=
  { ctx := p.ctx, role := p.role, half := half, viewV := p.viewV, viewT := p.viewT, viewA := p.viewA, sregs := startRegs p,
    space := [], spacePoison := [], sregPoison := [], cover := [], inUse := 0, dirty := 0, fpctl := 0,
    crewctl := if p.det then 0x10002 else 0x10000,
    tstream := 0xFFFFFFFF, spill := 0, mstatus := 0, key := p.key,
    threads := (List.range p.lanes).map (fun l => (l, newThread p.entry clock)),
    recruits := [], ops := [], hazards := [], pend := [], floatUntil := 0, last := (0, 0), lastOn := [], nextGroup := 1,
    copies := [], jobs := [], wake := false,
    active := act, entering := false, since := clock, readyAt := if act then none else some clock }

/-- Active crews of a partition, by slot. -/
def activeIn (s : State) (cl p : Nat) : List (Nat × Crew) := (crewsIn s cl p).filter (fun e => e.2.active)

/-- The usable half of a partition with fewer crews. -/
def pickHalf (s : State) (cl p : Nat) : Nat :=
  let n := fun h => ((crewsIn s cl p).filter (fun e => e.2.half == h)).length
  match halvesOf s cl p with
  | [h] => h
  | _ => if n 1 < n 0 then 1 else 0

/-- The lowest free slot of a partition. -/
def freeSlot (s : State) (cl p : Nat) : Option Nat := tfree s.crews (cl * 192 + p * 48) 48

/-- The first partition of a cluster with room. -/
def pickPartition (s : State) (cl near : Nat) : Option Nat :=
  [0, 1, 2, 3].find? (fun p => decide (0 < partitionRoom s cl p near))

/-- A crew takes a slot, and waits for the lanes of its half that helpers hold (07 R160). -/
def enterCrew (slot : Nat) (c : Crew) (s : State) : State :=
  let s := callHalf slot c.half s
  { s with crews := tset s.crews slot { c with entering := lanesCalled s slot c.half } }

/-- Puts a crew record into a partition that has room for it; `mk` makes it from its half, and whether it is active: at once when
fewer than 8 crews are, whatever other crews wait, which 05 R115 leaves open (log entry 49). Helpers that hold lanes of the half
are called back, and the placement waits for the lanes (07 R160): the crew has its place, and issues nothing until it has them. -/
def seatCrew (cl near : Nat) (mk : Nat → Bool → Crew) (s : State) : State :=
  match pickPartition s cl near with
  | none => s
  | some p => (match freeSlot s cl p with
    | none => s
    | some slot =>
      let half := pickHalf s cl p
      enterCrew slot (mk half (decide ((activeIn s cl p).length < 8))) s)

/-- Places a crew on a cluster that has room for it. -/
def placeCrew (cl : Nat) (p : CrewPlan) (s : State) : State :=
  seatCrew cl (nearBytes p.viewV) (fun half act => newCrew p half s.clock act) s

/-- Crew `ix` of a seam, on seam cluster `k` (08 R171). -/
def seamPlan (l : Launch) (m : Seam) (id ix k : Nat) : CrewPlan :=
  let w := fun n => m.words.getD n 0
  { ctx := l.ctx, role := .seam id ix k, viewV := l.viewV, viewT := l.viewT, viewA := l.viewA,
    entry := recWord m.words 0 + recWord m.words 1 * 2 ^ 32, frame := w 3 ++ w 2, arg := w 7, w6 := w 6, det := l.det,
    key := l.key, lanes := if ix + 1 = m.crewCount then m.tail else 32 }

/-- Places the next crew of a seam on its cluster. -/
def placeNext (id : Nat) (s : State) : State :=
  let m := tgetD s.seams id default
  let c := m.clusters.length
  let n := m.crewCount
  let k := ((List.range c).find? (fun k => decide (m.placed < (k + 1) * n / c))).getD 0
  let cl := m.clusters.getD k 0
  let s := setBanks cl m.launch s
  placeCrew cl (seamPlan (tgetD s.launches m.launch default) m id m.placed k)
    { s with seams := tset s.seams id { m with placed := m.placed + 1 } }

/-- Places the crews of a seam one after another. -/
def placeMany (id : Nat) : Nat → State → State
  | 0, s => s
  | n + 1, s => placeMany id n (placeNext id s)

/-- Whether the next crew of a seam that is not placed whole has room in its cluster (05 R102). -/
def nextHasRoom (s : State) (id : Nat) : Bool :=
  let m := tgetD s.seams id default
  let l := tgetD s.launches m.launch default
  let cl := m.clusters.headD 0
  decide (m.placed < m.crewCount) && ownerAdmits s cl l.ctx && banksAdmit s cl l &&
    decide (0 < clusterRoom s cl (nearBytes l.viewV) (farGranules l.viewV l.viewT l.viewA))

/-- Whether a context is on the device with its handler crews placed (17 R331). -/
def ctxReady (s : State) (ctx : Nat) : Bool :=
  ctxResident s ctx && (match tget s.contexts ctx with
    | some x => x.toPlace.isEmpty && x.saved.isNone
    | none => false)

/-- CREW_PLACEMENT (05 R102). The next crew of a seam is placed, when its cluster has room for it: also while the hoist's chosen
head waits, which then places nothing else (08 R176, which does not say whether the crews of seams dispatched before are meant;
log entry 65). -/
def execCrewPlacement (seam : Nat) (s : State) : Host.Outcome State Fault Refusal :=
  .next (match tget s.seams seam with
    | some m =>
      if ctxReady s (tgetD s.launches m.launch default).ctx && nextHasRoom s seam then placeNext seam s else s
    | none => s)

/-! ## Handler crews (17 R331, R403) -/

/-- Handler crew `k` of a context. -/
def handlerPlan (ctx : Nat) (x : Context) (k : Nat) : CrewPlan :=
  { ctx := ctx, role := .handler k, viewV := 0x06000000, viewT := 0, viewA := 0, entry := x.hEntry, frame := x.hFrame,
    arg := BitVec.ofNat 32 k, w6 := 0, det := false, key := x.seeds.headD 0, lanes := 32 }

/-- A cluster of either die with room for a handler crew, that no other context's banks own. -/
def handlerCluster (s : State) (ctx : Nat) : Option Nat :=
  (allClusters s).find? (fun cl => ownerAdmits s cl ctx && decide (0 < clusterRoom s cl (nearBytes 0x06000000) 0))

/-- The next handler crew of a context takes a place, when there is one. -/
def placeHandler (ctx : Nat) (s : State) : State :=
  match tget s.contexts ctx with
  | none => s
  | some x =>
    match x.status, x.saved, x.toPlace, handlerCluster s ctx with
    | .resident, none, k :: ks, some cl =>
      placeCrew cl (handlerPlan ctx x k) (modCtx ctx (fun x => { x with toPlace := ks }) s)
    | _, _, _, _ => s

/-! ## Active and pending crews (05 R114, R115) -/

/-- Whether every thread that BAR or BAR.SEAM waits for stands at a meeting. -/
def barMet (s : State) (slot : Nat) (seam : Bool) : Bool :=
  (barCrews s slot seam).all (fun x => (liveLanes (crewAt s x)).all (waitsMeeting (crewAt s x)))

/-- The instruction that a thread is to issue next makes events. -/
def nextMakesEvents (t : Thread) : Bool := (liveClause t).isSome && (match instrAt t with
  | some i => makesEvents i
  | none => false)

/-- Whether an operation holds the issue of a thread: it is interlocked and has not completed, an atomic of it is on its way, it
waits at a FIFO port or behind one (01 R27), or the thread would make an event before those that the operation still owes (11
R218). -/
def opHoldsNow (s : State) (k : Nat) (t : Thread) (o : Op) : Bool :=
  !o.done && o.members.contains k && (o.slot == 0 || opFlying s o.id || portWaits s o.id || o.late.any (·.reach.isNone) ||
    (nextMakesEvents t && !o.late.isEmpty))

/-- Whether some operation holds the issue of a thread. -/
def opHolds (s : State) (c : Crew) (k : Nat) (t : Thread) : Bool := c.ops.any (opHoldsNow s k t)

/-- Whether an instruction names a slot of thread `k` that stands at 15 (01 R22). -/
def slotHeld (c : Crew) (k : Nat) (i : Instr) : Bool :=
  let m := encodeWord i / 2 ^ 25
  decide (0x3C ≤ m ∧ m < 0x5C) && encodeWord i % 8 != 0 && decide (15 ≤ slotCount c k (encodeWord i % 8))

/-- Whether a thread could issue, as far as waits go (05 R115). -/
def couldGo (s : State) (slot : Nat) (c : Crew) (k : Nat) (t : Thread) : Bool :=
  canIssue t && !(opHolds s c k t) &&
  (match t.run with
  | .running => (match t.clause with
    | some cl => cl.waited || slotsClear c k cl.wait
    | none => true)
  | .waiting w => (match w with
    | .slots => (match instrAt t with
      | some (.waitsb m _) => slotsClear c k m.toNat
      | some i => !(slotHeld c k i)
      | none => true)
    | .join pc m => (named c m).all (waitsAt c pc m) || joinMismatch c k
    | .bar _ seam => barMet s slot seam
    | .engine => (match instrAt t with
      | some (.waitc cls n) => decide (engineCount c cls.toNat ≤ n.toNat)
      | _ => true)
    | .sync _ _ _ _ _ => false
    | .release => !(hasHelpers c k)
    | .drain _ _ => false
    | .close h rest => closeGoes s c.ctx slot h rest
    | .sleep until_ _ => decide (until_ ≤ crewClock s c) || (runsSystem c && c.wake)
    | .yields until_ => decide (until_ ≤ s.clock)
    | .bank => false)
  | .parked _ => false
  | .exited => false)

/-- Whether a thread waits for slot `n` to fall: at its clause's wait mask, at WAITSB, or at an instruction that names a full
slot. -/
def awaitsSlot (c : Crew) (k : Nat) (t : Thread) (n : Nat) : Bool :=
  decide (1 ≤ n) && (match t.run with
    | .running => (match t.clause with
      | some cl => !cl.waited && bitAt cl.wait (n - 1)
      | none => false)
    | .waiting .slots => (match instrAt t with
      | some (.waitsb m _) => bitAt m.toNat (n - 1)
      | some i => slotHeld c k i && encodeWord i % 8 == n
      | none => false)
    | _ => false)

/-- Whether a thread waits on an operation: it holds its issue, or stands on a slot that the thread waits for. -/
def waitsOn (s : State) (c : Crew) (k : Nat) (t : Thread) (o : Op) : Bool :=
  opHoldsNow s k t o || (!o.done && o.members.contains k && awaitsSlot c k t o.slot)

/-- Whether an operation is a load or returning atomic outstanding for more than 200 clocks, or a refused update. -/
def longOp (s : State) (o : Op) : Bool :=
  (o.load && decide (o.issued + 200 < s.clock)) || s.updates.any (fun u => u.op == o.id && decide (0 < u.tries))

/-- Whether a thread waits on one of the waits of 05 R114. -/
def waitsLong (s : State) (c : Crew) (k : Nat) (t : Thread) : Bool :=
  c.ops.any (fun o => longOp s o && waitsOn s c k t o) ||
  (match t.run with
  | .waiting w => (match w with
    | .join _ _ => true
    | .engine => true
    | .sync _ _ _ _ _ => true
    | .release => true
    | .drain _ _ => true
    | .close _ _ => true
    | .sleep _ long => long
    | _ => false)
  | _ => false)

/-- Whether a thread is parked or has exited. -/
def outOfRun (t : Thread) : Bool :=
  match t.run with
  | .parked _ => true
  | .exited => true
  | _ => false

/-- Whether a thread waits at BAR. -/
def atBar (t : Thread) : Bool :=
  match t.run with
  | .waiting (.bar _ _) => true
  | _ => false

/-- Whether an active crew leaves the active set (05 R114). Its helpers count among its threads here, so that one that waits for a
lane, on none of these waits, keeps the crew active: the rule does not name them (log entry 62). Threads that are parked or have
exited count neither for 'all parked' nor against 'all at BAR', where the rule does not say so: a crew moves whose remaining
threads stand at BAR (log entry 71). -/
def idleCrew (s : State) (slot : Nat) (c : Crew) : Bool :=
  c.threads.all (fun e => !(couldGo s slot c e.1 e.2)) &&
    (c.threads.all (fun e => outOfRun e.2 || waitsLong s c e.1 e.2) ||
      c.threads.all (fun e => outOfRun e.2 || atBar e.2))

/-- CREW_TO_PENDING (05 R114). -/
def execCrewToPending (crew : Nat) (s : State) : Host.Outcome State Fault Refusal :=
  .next (if (crewAt s crew).active && idleCrew s crew (crewAt s crew) then
      modCrew crew (fun c => { c with active := false, since := s.clock, readyAt := none }) s
    else s)

/-- The ready pending crew of a partition that has been ready longest; of those ready since the same clock the lowest slot,
which 05 R115 leaves open (log entry 62). -/
def longestReady (s : State) (cl p : Nat) : Option (Nat × Nat) :=
  (crewsIn s cl p).foldl (fun best e =>
    match e.2.active, e.2.readyAt, best with
    | false, some t, none => some (e.1, t)
    | false, some t, some b => if t < b.2 then some (e.1, t) else some b
    | _, _, b => b) none

/-- The active crew of a partition that has been active longest; of those active since the same clock the lowest slot, which 05
R115 leaves open (log entry 62). -/
def longestActive (s : State) (cl p : Nat) : Option (Nat × Nat) :=
  (activeIn s cl p).foldl (fun best e =>
    match best with
    | none => some (e.1, e.2.since)
    | some b => if e.2.since < b.2 then some (e.1, e.2.since) else some b) none

/-- Pending crews that could issue are noted as ready, since this clock, until they enter the active set or can issue no more (05
R115). -/
def noteReady (cl p : Nat) (s : State) : State :=
  { s with crews := s.crews.map (fun e =>
      if e.1 / 48 = cl * 4 + p ∧ e.2.active = false then
        (e.1, { e.2 with readyAt :=
          if e.2.threads.any (fun t => couldGo s e.1 e.2 t.1 t.2) then some (e.2.readyAt.getD s.clock) else none })
      else e) }

/-- A crew enters the active set. -/
def activate (slot : Nat) (s : State) : State :=
  modCrew slot (fun c => { c with active := true, since := s.clock, readyAt := none }) s

/-- PENDING_CREW_ENTRY (05 R115). The longest-ready pending crew enters a free place of the active set. -/
def execPendingCrewEntry (cl part : Nat) (s : State) : Host.Outcome State Fault Refusal :=
  let s := noteReady cl part s
  .next (if (activeIn s cl part).length < 8 then (match longestReady s cl part with
      | some r => activate r.1 s
      | none => s) else s)

/-- ACTIVE_CREW_ROTATION (05 R115). When a pending crew has been ready for 1,024 clocks and no place is free, the crew that
has been active longest moves to the pending set and is ready at once. -/
def execActiveCrewRotation (cl part : Nat) (s : State) : Host.Outcome State Fault Refusal :=
  let s := noteReady cl part s
  .next (match longestReady s cl part, longestActive s cl part with
    | some r, some a =>
      if r.2 + 1024 ≤ s.clock ∧ 8 ≤ (activeIn s cl part).length then
        activate r.1 (modCrew a.1 (fun c => { c with active := false, since := s.clock, readyAt := some s.clock }) s)
      else s
    | _, _ => s)

end Sys2Proof.Machine
end

