-- ==== Sys2Proof/Machine/Loader.lean ====
section
/-!
DEFINITION. A device on which one instruction is next (log entry 37): the start done, one context with one page, one launch,
and one crew of one thread inside a clause that holds the instruction. Nothing of the machine uses it.
-/
namespace Sys2Proof.Machine

/-- The words of an instruction given as a number: as many as the instruction takes. -/
def programWords (w : Nat) : List Word :=
  let a : Word := BitVec.ofNat 32 w
  let b : Word := BitVec.ofNat 32 (w / 2 ^ 32)
  match decodeWord a b with
  | some i => if i.words = 2 then [a, b] else [a]
  | none => [a]

/-- A clause class that admits an instruction (02 R30). -/
def programClass (w : Nat) : Nat := ([0, 1, 2, 3].find? (fun c => admits c (bits w 31 25))).getD 0

/-- The header of the clause. -/
def programHeader (w : Nat) : Word :=
  BitVec.ofNat 32 (0xE0000000 + programClass w * 16 + (programWords w).length)

/-- An entry of a page table: a table, or a page that is writable, executable, accessed, written and pinned. -/
def tableBytes (pa : Nat) (leaf : Bool) : List Byte := bytesOf 8 (pa + if leaf then 0x1C07 else 1)

/-- Page tables that map addresses 0 to 0xFFFF, and the clause at address 0x1000. -/
def placeMemory (w : Nat) (m : List Host.Cell) : List Host.Cell :=
  setBytes 0x10000 (tableBytes 0x20000 false)
    (setBytes 0x20000 (tableBytes 0x30000 false)
      (setBytes 0x30000 (tableBytes 0x40000 true)
        (setBytes 0x41000 ((programHeader w :: programWords w).flatMap (fun x => bytesOf 4 x.toNat)) m)))

/-- The context of the loaded program. -/
def programContext : Context :=
  { status := .resident, root := 0x10000, hEntry := 0, hFrame := 0, hCount := 0, toPlace := [], save := 0,
    fq := { base := 0, size := 64, count := 0, ring := [], held := [], produced := [], taken := [], dropped := 0, nextSeq := 0 },
    host := [], wdLimit := 0, wdCount := 0, stallLimit := 10000, seeds := [0], shapes := [], peers := [],
    window := List.replicate 8 0, rxBase := 0, rxSize := 0, rxCount := 0, evicts := [], pins := [], halted := false, haltDue := false, haltClock := 0,
    attached := false, corrupt := false, saved := none }

/-- The views of the launch: v0 to v95, t0 to t3, a0 to a3. -/
def programLaunch (graph : Nat) : Launch :=
  { ctx := 0, ident := 0, graph := graph, counter := 1, cancel := false, viewV := 0x06000000, viewT := 0x04040000,
    viewA := 0x04080000, det := false, key := 0, ordinal := 0, stream := none, banks := none, bankPerm := false,
    visited := [], seams := 1, lateDie := 0, done := false }

/-- The seam: one crew of one thread. -/
def programSeam (launch : Nat) : Seam :=
  { launch := launch, words := [0x1000, 0, 0, 0, 0, 0, 0x00080000, 0], seamix := 0, ticket := 0xFFFFFFFF, clusters := [0],
    placed := 1, ended := 0, whole := false }

/-- A level that is open. -/
def programLevel (kind : LevelKind) (parent children : Nat) : Level :=
  { kind := kind, ctx := 0, ident := 0, parent := parent, counter := children, cancel := false, closed := false,
    made := children, ordinal := 0, done := false, reported := false }

/-- The thread inside its clause, at the instruction. -/
def programThread (w clock : Nat) : Thread :=
  { newThread 0x1004 clock with
    clause := some { header := 0x1000, words := programWords w, wait := 0, waited := true } }

/-- The crew of the seam. -/
def programCrew (w seam launch clock : Nat) : Crew :=
  let c := newCrew (seamPlan (programLaunch launch) (programSeam launch) seam 0 0) 0 clock true
  { c with threads := [(0, programThread w clock)] }

/-- The state with the program in place. The graph, phase and job have numbers from `s.uid` on. -/
def placeProgram (s : State) (nbits w0 : Nat) : State :=
  let w := w0 % 2 ^ nbits
  let n := s.uid
  { s with
    turns := []
    focus := ⟨0, .lane 0⟩
    lag := false
    uid := n + 5
    mem := placeMemory w s.mem
    boot := { s.boot with begun := true, recovery := false, steps := 6 }
    fabric := { s.fabric with loaded := true }
    contexts := tset s.contexts 0 programContext
    levels := tset (tset (tset s.levels n (programLevel .job 0 1)) (n + 1) (programLevel .phase n 1)) (n + 2)
      (programLevel .graph (n + 1) 1)
    launches := tset s.launches (n + 3) (programLaunch (n + 2))
    seams := tset s.seams (n + 4) (programSeam (n + 3))
    crews := [(0, programCrew w (n + 4) (n + 3) s.clock)] }

end Sys2Proof.Machine
end

