-- ==== Sys2Proof/Machine/Crypto.lean ====
section
/-!
DEFINITION. The functions that chapter 21 of the spec names by their standards: SHA3-512 (FIPS 202), and the ML-DSA-87 key pair,
signature and verification (FIPS 204). ML-DSA is taken in its pure form with an empty context string (log entry 7).
-/
namespace Sys2Proof.Machine

/-! ## Keccak (FIPS 202) -/

/-- The rotation of each lane, by index x + 5 × y. -/
def laneTurns : List Nat :=
  [0, 1, 62, 28, 27, 36, 44, 6, 55, 20, 3, 10, 43, 25, 39, 41, 45, 15, 21, 8, 18, 2, 61, 56, 14]

/-- The constants of the 24 rounds. -/
def roundConstants : List (BitVec 64) :=
  [0x0000000000000001, 0x0000000000008082, 0x800000000000808A, 0x8000000080008000, 0x000000000000808B, 0x0000000080000001,
    0x8000000080008081, 0x8000000000008009, 0x000000000000008A, 0x0000000000000088, 0x0000000080008009, 0x000000008000000A] ++
  [0x000000008000808B, 0x800000000000008B, 0x8000000000008089, 0x8000000000008003, 0x8000000000008002, 0x8000000000000080,
    0x000000000000800A, 0x800000008000000A, 0x8000000080008081, 0x8000000000008080, 0x0000000080000001, 0x8000000080008008]

/-- A lane of a state. -/
def laneAt (a : List (BitVec 64)) (x y : Nat) : BitVec 64 := a.getD (x % 5 + 5 * (y % 5)) 0

/-- The step θ. -/
def mixColumns (a : List (BitVec 64)) : List (BitVec 64) :=
  let col := (List.range 5).map (fun x => (List.range 5).foldl (fun v y => v ^^^ laneAt a x y) 0)
  (List.range 25).map (fun i => a.getD i 0 ^^^ col.getD ((i + 4) % 5) 0 ^^^ (col.getD ((i + 1) % 5) 0).rotateLeft 1)

/-- The steps ρ and π: lane (x, y), turned, goes to (y, 2x + 3y). -/
def turnLanes (a : List (BitVec 64)) : List (BitVec 64) :=
  (List.range 25).map (fun i =>
    let src := (i % 5 + 3 * (i / 5)) % 5 + 5 * (i % 5)
    (a.getD src 0).rotateLeft (laneTurns.getD src 0))

/-- The step χ. -/
def mixRows (a : List (BitVec 64)) : List (BitVec 64) :=
  (List.range 25).map (fun i => laneAt a i (i / 5) ^^^ (~~~(laneAt a (i % 5 + 1) (i / 5)) &&& laneAt a (i % 5 + 2) (i / 5)))

/-- One round, with its constant (the step ι). -/
def keccakRound (a : List (BitVec 64)) (rc : BitVec 64) : List (BitVec 64) :=
  match mixRows (turnLanes (mixColumns a)) with
  | l :: ls => (l ^^^ rc) :: ls
  | [] => []

/-- The permutation of 24 rounds. -/
def keccakF (a : List (BitVec 64)) : List (BitVec 64) := roundConstants.foldl keccakRound a

/-- A block of the message enters the state. -/
def absorbBlock (a : List (BitVec 64)) (block : List Byte) : List (BitVec 64) :=
  keccakF ((a.zipIdx).map (fun e => e.1 ^^^ BitVec.ofNat 64 (ofBytes ((block.drop (8 * e.2)).take 8))))

/-- The padded message: `suffix` holds the domain bits and the first bit of the padding. -/
def padMessage (rate suffix : Nat) (m : List Byte) : List Byte :=
  let z := rate - m.length % rate
  if z = 1 then m ++ [BitVec.ofNat 8 (suffix + 0x80)]
  else m ++ [BitVec.ofNat 8 suffix] ++ List.replicate (z - 2) 0 ++ [0x80]

/-- `k` blocks of `rate` bytes out of a state. -/
def squeezeBlocks (rate : Nat) : Nat → List (BitVec 64) → List Byte
  | 0, _ => []
  | k + 1, a => (a.flatMap (fun l => bytesOf 8 l.toNat)).take rate ++ squeezeBlocks rate k (keccakF a)

/-- The sponge: `n` bytes. -/
def sponge (rate suffix : Nat) (m : List Byte) (n : Nat) : List Byte :=
  let p := padMessage rate suffix m
  let a := (List.range (p.length / rate)).foldl (fun a i => absorbBlock a ((p.drop (i * rate)).take rate)) (List.replicate 25 0)
  (squeezeBlocks rate ((n + rate - 1) / rate) a).take n

/-- SHA3-512. -/
@[irreducible] def sha3 (m : List Byte) : List Byte := sponge 72 0x06 m 64

/-- SHAKE128. -/
def shake128 (m : List Byte) (n : Nat) : List Byte := sponge 168 0x1F m n

/-- SHAKE256. -/
def shake256 (m : List Byte) (n : Nat) : List Byte := sponge 136 0x1F m n

/-! ## The ring of ML-DSA (FIPS 204): 256 coefficients below q -/

/-- The modulus q. -/
def dsaQ : Nat := 8380417

/-- A polynomial, or its NTT: 256 coefficients, the constant one first. -/
abbrev Poly := List Nat

/-- The powers of the 512th root of unity 1753. -/
def zetaPowers : Array Nat := ((List.range 511).foldl (fun l _ => (l.headD 1 * 1753 % dsaQ) :: l) [1]).reverse.toArray

/-- The eight bits of a number, reversed. -/
def reversed8 (i : Nat) : Nat := ((List.range 8).map (fun k => (bitAt i k).toNat * 2 ^ (7 - k))).sum

/-- The root at which entry `i` of an NTT evaluates, as a power of 1753. -/
def rootPower (i : Nat) : Nat := 2 * reversed8 i + 1

/-- The NTT: the polynomial's values at the 256 roots. -/
def ntt (p : Poly) : Poly :=
  (List.range 256).map (fun i =>
    let x := zetaPowers.getD (rootPower i) 0
    p.foldr (fun c v => (c + x * v) % dsaQ) 0)

/-- The polynomial of an NTT; 8347681 is the inverse of 256. -/
def inverseNtt (p : Poly) : Poly :=
  (List.range 256).map (fun j =>
    (p.zipIdx).foldl (fun v e => (v + e.1 * zetaPowers.getD ((512 - rootPower e.2 * j % 512) % 512) 0) % dsaQ) 0 * 8347681 % dsaQ)

/-- Sums, differences and products, entry by entry. -/
def addPoly (a b : Poly) : Poly := List.zipWith (fun x y => (x + y) % dsaQ) a b
/-- The difference. -/
def subPoly (a b : Poly) : Poly := List.zipWith (fun x y => (x + dsaQ - y) % dsaQ) a b
/-- The product of two NTTs. -/
def mulPoly (a b : Poly) : Poly := List.zipWith (fun x y => x * y % dsaQ) a b
/-- The zero polynomial. -/
def zeroPoly : Poly := List.replicate 256 0

/-- A row of a matrix times a vector, of NTTs. -/
def dotPoly (row v : List Poly) : Poly := (List.zipWith mulPoly row v).foldl addPoly zeroPoly

/-- A coefficient as a number between −(q − 1)/2 and (q − 1)/2. -/
def centred (c : Nat) : Int := if dsaQ / 2 < c then (c : Int) - (dsaQ : Nat) else c

/-- A number as a coefficient. -/
def coefOf (x : Int) : Nat := (x % (dsaQ : Nat)).toNat

/-- Whether every coefficient of some polynomials is below a bound in absolute value. -/
def below (b : Nat) (ps : List Poly) : Bool := ps.all (fun p => p.all (fun c => decide ((centred c).natAbs < b)))

/-! ## Packing and sampling -/

/-- Field `i` of `w` bits of a byte string. -/
def fieldAt (bs : Nat) (w i : Nat) : Nat := bs / 2 ^ (w * i) % 2 ^ w

/-- 256 fields of `w` bits. -/
def unpackFields (w : Nat) (bs : List Byte) : List Nat := let n := ofBytes bs; (List.range 256).map (fieldAt n w)

/-- Fields of `w` bits as bytes. -/
def packFields (w : Nat) (fs : List Nat) : List Byte :=
  bytesOf (w * fs.length / 8) ((fs.zipIdx).foldl (fun n e => n + e.1 * 2 ^ (w * e.2)) 0)

/-- The first 256 numbers below q among three-byte numbers of 23 bits. -/
def rejectUniform : List Byte → Poly
  | a :: b :: c :: bs =>
    let z := a.toNat + 256 * b.toNat + 65536 * (c.toNat % 128)
    if z < dsaQ then z :: rejectUniform bs else rejectUniform bs
  | _ => []

/-- Entry (r, s) of the matrix A, as an NTT. 448 candidates are taken, of which fewer than 256 being below q is out of the
question. -/
def matrixEntry (rho : List Byte) (r s : Nat) : Poly :=
  (rejectUniform (shake128 (rho ++ [BitVec.ofNat 8 s, BitVec.ofNat 8 r]) 1344)).take 256

/-- The matrix A of 8 rows and 7 columns. -/
def expandA (rho : List Byte) : List (List Poly) := (List.range 8).map (fun r => (List.range 7).map (fun s => matrixEntry rho r s))

/-- The positions of the 60 entries of a challenge: each the first byte that is at most `i`. -/
def ballPlaces (bs : List Byte) (signs i : Nat) : Nat → Poly → Poly
  | 0, c => c
  | n + 1, c =>
    match bs.dropWhile (fun b => decide (i < b.toNat)) with
    | [] => c
    | j :: rest =>
      let c := c.set i (c.getD j.toNat 0)
      ballPlaces rest signs (i + 1) n (c.set j.toNat (if bitAt signs (i + 60 - 256) then dsaQ - 1 else 1))

/-- The challenge polynomial of a hash. -/
def sampleInBall (seed : List Byte) : Poly :=
  let bs := shake256 seed 1088
  ballPlaces (bs.drop 8) (ofBytes (bs.take 8)) 196 60 zeroPoly

/-! ## Rounding and hints -/

/-- r0 of a number modulo an even number. -/
def centredMod (c m : Nat) : Int := if m / 2 < c % m then (c % m : Nat) - (m : Int) else (c % m : Nat)

/-- The high and low parts of a coefficient, for γ2 = 261,888. -/
def decompose (c : Nat) : Nat × Int :=
  let r0 := centredMod c 523776
  let d := ((c : Int) - r0).toNat
  if d = dsaQ - 1 then (0, r0 - 1) else (d / 523776, r0)

/-- The high part that a hint corrects. -/
def useHint (h : Bool) (c : Nat) : Nat :=
  let r := decompose c
  if !h then r.1 else if 0 < r.2 then (r.1 + 1) % 16 else (r.1 + 15) % 16

/-- One polynomial's hints, from its ascending positions. -/
def hintRow (y : List Nat) : Option (List Bool) :=
  if (y.zip (y.drop 1)).all (fun e => decide (e.1 < e.2)) then some ((List.range 256).map (fun j => y.contains j)) else none

/-- The hints of a signature, or none where their packing is malformed. -/
def unpackHints (y : List Nat) : Nat → Nat → Option (List (List Bool))
  | _, 0 => none
  | first, n + 1 =>
    let i := 7 - n
    let last := y.getD (75 + i) 0
    if last < first ∨ 75 < last then none
    else
      match hintRow ((y.drop first).take (last - first)) with
      | none => none
      | some h =>
        if n = 0 then (if ((y.take 75).drop last).all (· == 0) then some [h] else none)
        else (unpackHints y last n).map (h :: ·)

/-- Hints as they are packed. -/
def packHints (hs : List (List Bool)) : List Nat :=
  let places := hs.map (fun h => (List.range 256).filter (fun j => h.getD j false))
  let all := places.flatten
  all ++ List.replicate (75 - all.length) 0 ++ (List.range 8).map (fun i => ((places.take (i + 1)).map List.length).sum)

/-- The high parts of a vector, packed. -/
def packHigh (w : List (List Nat)) : List Byte := w.flatMap (packFields 4)

/-! ## ML-DSA-87 -/

/-- The message representative: the hash of the public key, and the message with an empty context. -/
def messageHash (pk m : List Byte) : List Byte := shake256 (shake256 pk 64 ++ [0, 0] ++ m) 64

/-- Verification (Algorithms 3 and 8 of FIPS 204). -/
def verifies (pk m sig : List Byte) : Bool :=
  let t1 := (List.range 8).map (fun i => unpackFields 10 ((pk.drop (32 + 320 * i)).take 320))
  let z := (List.range 7).map (fun i =>
    (unpackFields 20 ((sig.drop (64 + 640 * i)).take 640)).map (fun (v : Nat) => coefOf (524288 - (v : Int))))
  match unpackHints ((sig.drop 4544).map (·.toNat)) 0 8 with
  | none => false
  | some hints =>
    let mu := messageHash pk m
    let c := ntt (sampleInBall (sig.take 64))
    let zh := z.map ntt
    let w := List.zipWith (fun row t => inverseNtt (subPoly (dotPoly row zh) (mulPoly c (ntt (t.map (fun v => v * 8192))))))
      (expandA (pk.take 32)) t1
    let w1 := List.zipWith (fun h p => List.zipWith useHint h p) hints w
    pk.length == 2592 && sig.length == 4627 && below (524288 - 120) z && sig.take 64 == shake256 (mu ++ packHigh w1) 64

/-- A private key: ρ, K, the hash of the public key, s1, s2 and t0; and the public key. -/
structure KeyPair where
  rho : List Byte
  k : List Byte
  s1 : List Poly
  s2 : List Poly
  t0 : List Poly
  pk : List Byte
  deriving DecidableEq, Repr, Inhabited

/-- The first 256 numbers between −2 and 2 that half bytes give. -/
def rejectSmall (bs : List Byte) : Poly :=
  ((bs.flatMap (fun b => [b.toNat % 16, b.toNat / 16])).filter (fun x => decide (x < 15))).map (fun x => coefOf (2 - ((x % 5 : Nat) : Int)))
    |>.take 256

/-- Key generation from a 32-byte seed (Algorithm 6 of FIPS 204). -/
def keyPair (seed : List Byte) : KeyPair :=
  let h := shake256 (seed ++ [8, 7]) 128
  let rho := h.take 32
  let small := fun (r : Nat) => rejectSmall (shake256 ((h.drop 32).take 64 ++ bytesOf 2 r) 544)
  let s1 := (List.range 7).map small
  let s2 := (List.range 8).map (fun r => small (r + 7))
  let s1h := s1.map ntt
  let t := List.zipWith (fun row s => addPoly (inverseNtt (dotPoly row s1h)) s) (expandA rho) s2
  let low := fun (c : Nat) => centredMod c 8192
  { rho := rho, k := h.drop 96, s1 := s1, s2 := s2, t0 := t.map (fun p => p.map (fun (c : Nat) => coefOf (low c))),
    pk := rho ++ t.flatMap (fun p => packFields 10 (p.map (fun (c : Nat) => (((c : Int) - low c) / 8192).toNat))) }

/-- One round of signing (Algorithm 7 of FIPS 204), with the counter κ: a signature, unless the round is rejected. -/
def signRound (kp : KeyPair) (a : List (List Poly)) (mu rho2 : List Byte) (kappa : Nat) : Option (List Byte) :=
  let y := (List.range 7).map (fun r =>
    (unpackFields 20 (shake256 (rho2 ++ bytesOf 2 (kappa + r)) 640)).map (fun (v : Nat) => coefOf (524288 - (v : Int))))
  let yh := y.map ntt
  let w := a.map (fun row => inverseNtt (dotPoly row yh))
  let ct := shake256 (mu ++ packHigh (w.map (fun p => p.map (fun c => (decompose c).1)))) 64
  let c := ntt (sampleInBall ct)
  let times := fun (p : Poly) => inverseNtt (mulPoly c (ntt p))
  let z := List.zipWith (fun y s => addPoly y (times s)) y kp.s1
  let r := List.zipWith (fun w s => subPoly w (times s)) w kp.s2
  let ct0 := kp.t0.map times
  let hints := List.zipWith (fun r t => List.zipWith (fun x v => decide ((decompose x).1 ≠ (decompose ((x + v) % dsaQ)).1)) r t) r ct0
  let lowOk := r.all (fun p => p.all (fun c => decide ((decompose c).2.natAbs < 261888 - 120)))
  if below (524288 - 120) z && lowOk && below 261888 ct0 && decide ((hints.map (fun h => h.count true)).sum ≤ 75) then
    some (ct ++ z.flatMap (fun p => packFields 20 (p.map (fun c => (524288 - centred c).toNat))) ++
      (packHints hints).map (BitVec.ofNat 8))
  else none

/-- Rounds of signing until one is not rejected. -/
def signFrom (kp : KeyPair) (a : List (List Poly)) (mu rho2 : List Byte) (kappa : Nat) : Nat → List Byte
  | 0 => []
  | n + 1 =>
    match signRound kp a mu rho2 kappa with
    | some sig => sig
    | none => signFrom kp a mu rho2 (kappa + 7) n

/-- A signature of a message, with the 32 random bytes that FIPS 204 lets a signer take. -/
def signMessage (kp : KeyPair) (m rnd : List Byte) : List Byte :=
  let mu := messageHash kp.pk m
  signFrom kp (expandA kp.rho) mu (shake256 (kp.k ++ rnd ++ mu) 64) 0 814

/-! ## The keys of the device -/

/-- Whether a signature over a message verifies under the vendor key in boot ROM (21 R395). -/
@[irreducible] def vendorVerifies (m sig : List Byte) : Bool := verifies Config.vendorKey m sig

/-- The public half of the device identity key (21 R399). -/
@[irreducible] def deviceKey : List Byte := (keyPair Config.deviceSeed).pk

/-- The signature of the device key over a message (21 R399); `n` names the random bytes taken. -/
@[irreducible] def deviceSign (n : Nat) (m : List Byte) : List Byte := signMessage (keyPair Config.deviceSeed) m (Config.signRandom n)

end Sys2Proof.Machine
end

