-- ==== Sys2Proof/Machine/Fabric.lean ====
section
/-!
DEFINITION. The command fabric (20 R370 to R376, R385 to R387, 21 R402): register writes, user queues, the mapping engine,
and the reading of packets.
-/
namespace Sys2Proof.Machine

/-- A step of the fabric: nothing while it is not loaded (20 R370). -/
def whenLoaded (f : State → State) (s : State) : Host.Outcome State Fault Refusal :=
  .next (if s.fabric.loaded then f s else s)

/-- The state with the fabric's record changed. -/
def modFabric (f : Fabric → Fabric) (s : State) : State := { s with fabric := f s.fabric }

/-! ## Enabling and disabling (20 R372, R373) -/

/-- The fields of w2 that software writes. -/
def Qcb.withControl (q : Qcb) (w : Word) : Qcb :=
  { q with en := w.getLsbD 31, priv := w.getLsbD 30, prio := bits w.toNat 25 24, lsize := bits w.toNat 23 20,
           ctx := bits w.toNat 11 0 }

/-- EN goes from 0 to 1 by a write of w2; KIDX ← RIDX. LSIZE above 5 makes the write ignored (20 R373). -/
def enableQueue (n : Nat) (w : Word) (s : State) : State :=
  if (qcbAt s n).en || decide (5 < bits w.toNat 23 20) then s
  else modQcb n (fun q => { (q.withControl w) with en := true, err := false, kidx := q.ridx, state := 0 }) s

/-- The queue leaves its slot. -/
def unslot (n : Nat) (s : State) : State :=
  modFabric (fun f => { f with slots := f.slots.filter (fun e => e.2.queue != n) }) s

/-- EN goes from 1 to 0: the queue is unmapped without being saved, its pending bit and ERR are cleared, and a packet that
it holds is abandoned (20 R372, R373). -/
def disableQueue (n : Nat) (s : State) : State :=
  if (qcbAt s n).en then
    unslot n (modQcb n (fun q => { q with en := false, err := false, pending := none, header := none, held := none, state := 0 }) s)
  else s

/-- A write of w2. While EN = 1 it can only clear EN. -/
def writeControl (n : Nat) (w : Word) (s : State) : State :=
  if (qcbAt s n).en then (if w.getLsbD 31 then s else disableQueue n s)
  else if w.getLsbD 31 then enableQueue n w s
  else modQcb n (fun q => q.withControl w) s

/-! ## Reading packets (20 R371, R374 to R377) -/

/-- The fields of a packet body; none when a field overruns the packet or has [15:13] not zero (20 R375, R376). -/
def parseFields : Nat → List Word → Option (List PktField)
  | 0, ws => if ws.isEmpty then some [] else none
  | _ + 1, [] => some []
  | n + 1, h :: ws =>
    let len := bits h.toNat 31 16
    if len = 0 ∨ bits h.toNat 15 13 ≠ 0 ∨ ws.length + 1 < len then none
    else (parseFields n (ws.drop (len - 1))).map
      (fun fs => ⟨bits h.toNat 11 0, h.getLsbD 12, ws.take (len - 1)⟩ :: fs)

/-- The packet types of 20 R379. -/
def knownType (type : Nat) : Bool :=
  decide (type ≤ 0x10) || decide (0x20 ≤ type ∧ type ≤ 0x29) || decide (0x30 ≤ type ∧ type ≤ 0x32)

/-- A packet whose words have been read: an unknown type is skipped or refused, malformed fields are skipped, and any
other packet is next to be performed (20 R376, R377). -/
def startPacket (src : PktSrc) (ws : List Word) (s : State) : State :=
  let h := (ws.headD 0).toNat
  if !knownType (bits h 11 0) then finishPacket src (if bitAt h 12 then 3 else 1) s
  else
    match parseFields ws.length (ws.drop 2) with
    | none => finishPacket src 2 s
    | some fs =>
      let s' := holdPacket src .parsing s
      { s' with turns := .packet (bits h 11 0) src fs :: s'.turns }

/-- Whether a header's length and [15:13] let its packet be read from a place of `size` words. -/
def headerFits (h size : Nat) : Bool :=
  decide (2 ≤ bits h 31 16 ∧ bits h 31 16 ≤ 4096 ∧ bits h 31 16 ≤ size) && bits h 15 13 == 0

/-- Words of the ring from an index on. -/
def ringWords (s : State) (q : Qcb) (x : Nat) : Nat → Option (List Word)
  | 0 => some []
  | n + 1 =>
    match ringWord s q x, ringWords s q (x + 1) n with
    | some w, some ws => some (w :: ws)
    | _, _ => none

/-- The state of a parser changes. -/
def parserState (n st : Nat) (s : State) : State := modQcb n (fun q => { q with state := st }) s

/-- A mapped queue with nothing to read stands idle. -/
def standIdle (n : Nat) (s : State) : State :=
  modSlot n (fun x => { x with idle := some (x.idle.getD s.wall) }) (parserState n 0 s)

/-- The packet at RIDX, whose header has been read: it waits for its length, or its other words are read. -/
def readPacket (n : Nat) (q : Qcb) (h : Word) (s : State) : State :=
  if (q.kidx - q.ridx).toNat < bits h.toNat 31 16 then parserState n 2 s
  else
    let len := bits h.toNat 31 16 - 1
    let t := readsRing q (q.ridx.toNat + 1) len s
    match ringWords s q (q.ridx.toNat + 1) len with
    | some ws => startPacket (.queue n) (h :: ws) t
    | none => stopQueue n t

/-- The header at RIDX is read, once: it stops the queue, or the packet is read by its length. -/
def readHeader (n : Nat) (q : Qcb) (s : State) : State :=
  let t := readsRing q q.ridx.toNat 1 s
  match ringWord s q q.ridx.toNat with
  | some h =>
    if headerFits h.toNat q.size then readPacket n q h (modQcb n (fun q => { q with header := some h }) t) else stopQueue n t
  | none => stopQueue n t

/-- A turn of a parser (20 R376): the guard first, then the header. The guard at RIDX + 1 is RIDX[15:0] with its upper half zero
(20 R374). -/
def pollGuard (n : Nat) (s : State) : State :=
  let q := qcbAt s n
  if (slotOf s n).isNone || !q.en || q.err || q.held.isSome then s
  else if q.kidx = q.ridx then standIdle n s
  else
    match q.header with
    | some h => readPacket n q h s
    | none =>
      let t := readsRing q (q.ridx + 1).toNat 1 s
      match ringWord s q (q.ridx + 1).toNat with
      | some g => if g.toNat = bits q.ridx.toNat 15 0 then readHeader n q t else parserState n 1 t
      | none => stopQueue n t

/-- PACKET_GUARD_POLL (20 R374 to R376). The parser of a mapped queue reads the guard and the packet at RIDX. -/
def execPacketGuardPoll (queue : Nat) (s : State) : Host.Outcome State Fault Refusal := whenLoaded (pollGuard queue) s

/-- A write of a length to PKTGO (20 R371): ignored while busy; status 0x0002 when the packet does not fit. -/
def goPacket (w : Word) (s : State) : State :=
  if s.fabric.direct.isSome then s
  else
    let h := (tgetD s.fabric.pktBuf 0 0).toNat
    if headerFits h 4096 && bits h 31 16 == w.toNat then
      startPacket .direct ((List.range w.toNat).map (fun j => tgetD s.fabric.pktBuf j 0)) s
    else modFabric (fun f => { f with pktStatus := 2 }) s

/-- PKTGO (20 R371). -/
def execPktgo (len : Word) (s : State) : Host.Outcome State Fault Refusal := whenLoaded (goPacket len) s

/-! ## Writes of registers (20 R371 to R373, 21 R402) -/

/-- A write of PWRCAP: a cap above the record's limit sets the limit. -/
def writeCap (w : Word) (s : State) : State :=
  modFabric (fun f => { f with pwrCap := min (bits w.toNat 15 0) f.pwrLimit }) s

/-- A write of a word of a control block. While EN = 1 only w2 takes one, to clear EN. -/
def writeQcb (n j : Nat) (w : Word) (s : State) : State :=
  let idle := fun (f : Qcb → Qcb) => if (qcbAt s n).en then s else modQcb n f s
  match j with
  | 0 => idle (fun q => { q with ring := (half64 q.ring.toNat 1) ++ w })
  | 1 => idle (fun q => { q with ring := w ++ (half64 q.ring.toNat 0) })
  | 2 => writeControl n w s
  | 3 => idle (fun q => { q with ridx := w })
  | _ => s

/-- A write of a low register; a value outside a register's range is ignored. -/
def writeLow (off : Nat) (w : Word) (s : State) : State :=
  let v := w.toNat
  match off with
  | 0x10 => if 1 ≤ v ∧ v ≤ 64 then modFabric (fun f => { f with hwqSlots := v }) s else s
  | 0x14 => if 1 ≤ v ∧ v ≤ 65535 then modFabric (fun f => { f with mapIdle := v }) s else s
  | 0x18 => if 1 ≤ v ∧ v ≤ 65535 then modFabric (fun f => { f with mapAge := v }) s else s
  | 0x30 => writeCap w s
  | _ => s

/-- A master's write of the word at a 4-aligned offset. Writes to offsets that are not listed are ignored. -/
def writeRegister (off : Nat) (w : Word) (s : State) : State :=
  if off < offDoorbell then writeLow off w s
  else if off < offDoorbell + 8 * 4096 then (if off % 8 = 0 then kickQueue ((off - offDoorbell) / 8) w s else s)
  else if offBuf ≤ off ∧ off < offGo then
    modFabric (fun f => { f with pktBuf := tput f.pktBuf ((off - offBuf) / 4) w 0 }) s
  else if off = offGo then goPacket w s
  else if offQcb ≤ off ∧ off < offQcb + 64 * 4096 then writeQcb ((off - offQcb) / 64) (off / 4 % 16) w s
  else s

/-- KICK (20 R385). -/
def execKick (queue : Nat) (w : Word) (s : State) : Host.Outcome State Fault Refusal := whenLoaded (kickQueue queue w) s

/-- QUEUE_ENABLE (20 R373). A write of w2 with EN = 1. -/
def execQueueEnable (queue : Nat) (w : Word) (s : State) : Host.Outcome State Fault Refusal :=
  whenLoaded (enableQueue queue w) s

/-- QUEUE_DISABLE (20 R373). -/
def execQueueDisable (queue : Nat) (s : State) : Host.Outcome State Fault Refusal := whenLoaded (disableQueue queue) s

/-- PWRCAP (21 R402). -/
def execPwrcap (w : Word) (s : State) : Host.Outcome State Fault Refusal := whenLoaded (writeCap w) s

/-- REGISTER_WRITE (20 R371, R372). The owner's write of one word. -/
def execRegisterWrite (off : Nat) (w : Word) (s : State) : Host.Outcome State Fault Refusal :=
  whenLoaded (writeRegister (off / 4 * 4) w) s

/-- THROTTLE_ADJUST (21 R402). The device adjusts its arithmetic clock. -/
def execThrottleAdjust (mhz : Nat) (throttled : Bool) (s : State) : Host.Outcome State Fault Refusal :=
  .next (modFabric (fun f => { f with mhz := mhz % 65536, throttled := throttled }) s)

/-! ## The mapping engine (20 R386, R387) -/

/-- The lowest free slot among the first HWQSLOTS. -/
def freeHwSlot (s : State) : Option Nat := tfree s.fabric.slots 0 s.fabric.hwqSlots

/-- The queues that wait to be mapped, with the time at which each pending bit was set. -/
def waitingQueues (s : State) : List (Nat × Nat) :=
  s.fabric.qcbs.filterMap (fun e => if e.2.en && (slotOf s e.1).isNone then e.2.pending.map (fun t => (e.1, t)) else none)

/-- The effective priority of a waiting queue. -/
def effectivePrio (s : State) (n since : Nat) : Nat := min 3 ((qcbAt s n).prio + (s.wall - since) / s.fabric.mapAge)

/-- The first entry of a list with the greatest value. -/
def firstMax (f : Nat × Nat → Nat) : List (Nat × Nat) → Option (Nat × Nat)
  | [] => none
  | e :: es =>
    match firstMax f es with
    | some b => if f e < f b then some b else some e
    | none => some e

/-- A queue is mapped on a slot: its pending bit is cleared, its parser state comes back, and a wait is evaluated again. -/
def mapQueue (slot n : Nat) (s : State) : State :=
  let s := modQcb n (fun q => { q with pending := none }) s
  let idle := if (qcbAt s n).state = 0 then some s.wall else none
  endHeld (.queue n) (modFabric (fun f => { f with slots := tset f.slots slot ⟨n, s.wall, idle⟩ }) s)

/-- A queue is unmapped: its state stays in its control block; it is pending when it has something to do. -/
def unmapQueue (n : Nat) (s : State) : State :=
  unslot n (modQcb n (fun q =>
    { q with pending := if q.kidx ≠ q.ridx ∨ 1 ≤ q.state then some s.wall else q.pending }) s)

/-- A free slot takes the waiting queue with the highest effective priority, the lower number among equals. -/
def mapNext (s : State) : State :=
  match freeHwSlot s, firstMax (fun e => effectivePrio s e.1 e.2) (waitingQueues s) with
  | some slot, some e => mapQueue slot e.1 s
  | _, _ => s

/-- QUEUE_MAP (20 R386). -/
def execQueueMap (s : State) : Host.Outcome State Fault Refusal := whenLoaded mapNext s

/-- Whether a mapped queue has stood idle for MAPIDLE µs. -/
def idleDue (s : State) (n : Nat) : Bool :=
  s.fabric.slots.any (fun e => e.2.queue == n && (qcbAt s n).state == 0 && (match e.2.idle with
    | some t => decide (t + s.fabric.mapIdle ≤ s.wall)
    | none => false))

/-- QUEUE_IDLE_UNMAP (20 R386). -/
def execQueueIdleUnmap (queue : Nat) (s : State) : Host.Outcome State Fault Refusal :=
  whenLoaded (fun s => if idleDue s queue then unmapQueue queue s else s) s

/-- The queue that has been mapped longest among those that can be unmapped, the lower number among equals: its slot and
number. -/
def longestMapped (s : State) : Option (Nat × Nat) :=
  (s.fabric.slots.filter (fun e => decide (e.1 < s.fabric.hwqSlots) && decide ((qcbAt s e.2.queue).state ≤ 4))).foldl
    (fun best e => match best with
      | none => some (e.1, e.2.queue)
      | some b =>
        let x := tgetD s.fabric.slots b.1 default
        if e.2.since < x.since ∨ (e.2.since = x.since ∧ e.2.queue < x.queue) then some (e.1, e.2.queue) else some b) none

/-- The waiting queue that has been overdue longest: it has waited 4 × MAPAGE µs or more. -/
def oldestOverdue (s : State) : Option (Nat × Nat) :=
  firstMax (fun e => s.wall - e.2) ((waitingQueues s).filter (fun e => decide (e.2 + 4 * s.fabric.mapAge ≤ s.wall)))

/-- An overdue queue takes the place of the queue that has been mapped longest, when no slot is free. -/
def swapOverdue (s : State) : State :=
  match freeHwSlot s, oldestOverdue s, longestMapped s with
  | none, some e, some v => mapQueue v.1 e.1 (unmapQueue v.2 s)
  | _, _, _ => s

/-- QUEUE_OVERDUE_SWAP (20 R386). -/
def execQueueOverdueSwap (s : State) : Host.Outcome State Fault Refusal := whenLoaded swapOverdue s

end Sys2Proof.Machine
end

