-- ==== Sys2Proof/Machine/Lensel.lean ====
section
/-!
DEFINITION. Lensel: requests and replies (20 R388 to R390), register messages, owners (20 R391, R392), and events.
-/
namespace Sys2Proof.Machine

/-! ## Requests (20 R388, R389) -/

/-- What is kept for the master of a request. -/
def masterOf (s : State) (r : Req) : Master :=
  (s.masters.find? (fun m => m.id == r.master && m.ip == r.ip)).getD { id := r.master, ip := r.ip, high := none, replies := [] }

/-- The state with a master's record put in the place of an earlier one. -/
def putMaster (m : Master) (s : State) : State :=
  if s.masters.any (fun x => x.id == m.id && x.ip == m.ip) then
    { s with masters := s.masters.map (fun x => if x.id = m.id ∧ x.ip = m.ip then m else x) }
  else { s with masters := s.masters ++ [m] }

/-- Whether one sequence number lies below another, by how much at least, in serial arithmetic with a window of 2^31. -/
def serialBelow (seq high : Word) (n : Nat) : Bool := decide (n ≤ (high - seq).toNat ∧ (high - seq).toNat < 2 ^ 31)

/-- A reply goes out. -/
def sendReply (r : Req) (x : Reply) (s : State) : State := { s with outbox := s.outbox ++ [.reply r.master r.ip x] }

/-- A reply is kept, among the 32 latest, with the highest number performed. -/
def keepReply (r : Req) (x : Reply) (s : State) : State :=
  let m := masterOf s r
  let high := match m.high with
    | none => r.seq
    | some h => if serialBelow h r.seq 1 then r.seq else h
  putMaster { m with high := some high, replies := (x :: m.replies).take 32 } s

/-- Whether a sequence number is more than 32 below the highest. -/
def staleSeq (m : Master) (seq : Word) : Bool :=
  match m.high with
  | some h => serialBelow seq h 33
  | none => false

/-- Whether a request comes from the owner. -/
def fromOwner (s : State) (r : Req) : Bool := ownerOf s == some (r.master, r.ip)

/-- Who may send a request, and whether it is answered while the fabric is not loaded (20 R370, R390; 21 R398). -/
inductive Access where
  | anyone
  | owner
  | core
  | recovery
  deriving DecidableEq, Repr, Inhabited

/-- The status with which a request is turned away before it is looked at: 4 while the fabric is not loaded, 1 for another
master than the owner, else 0. -/
def accessStatus (s : State) (r : Req) (a : Access) : Nat :=
  match a with
  | .core => 0
  | .anyone => if s.fabric.loaded then 0 else 4
  | .owner => if !s.fabric.loaded then 4 else if fromOwner s r then 0 else 1
  | .recovery => if s.fabric.loaded && !(fromOwner s r) then 1 else 0

/-- A request of a type (20 R389): dropped from master 0; answered again with a kept reply; answered with 5 when its number
is stale; else performed, its status and payload sent and kept. -/
def request (type : Nat) (r : Req) (a : Access) (body : State → Nat × List Byte × State) (s : State) :
    Host.Outcome State Fault Refusal :=
  .next (
    if r.master = 0 then s
    else
      let m := masterOf s r
      match m.replies.find? (fun x => x.seq == r.seq) with
      | some x => sendReply r x s
      | none =>
        let mk := fun (st : Nat) (data : List Byte) => (⟨type + 128, r.seq, st, data⟩ : Reply)
        if staleSeq m r.seq then sendReply r (mk 5 []) s
        else
          let st := accessStatus s r a
          let q := if st = 0 then body s else (st, [], s)
          sendReply r (mk q.1 q.2.1) (keepReply r (mk q.1 q.2.1) q.2.2))

/-- Whether a request would be performed, and not dropped, answered with a kept reply, or turned away. -/
def accepted (s : State) (r : Req) (a : Access) : Bool :=
  r.master != 0 && ((masterOf s r).replies.all (fun x => x.seq != r.seq)) && !staleSeq (masterOf s r) r.seq && accessStatus s r a == 0

/-- A request that only has a status. -/
def statusOnly (f : State → Nat × State) (s : State) : Nat × List Byte × State := ((f s).1, [], (f s).2)

/-! ## Registers -/

/-- Whether a run of words lies in the register window. -/
def windowRun (off count : Nat) : Bool := off % 4 == 0 && decide (1 ≤ count ∧ off + 4 * count ≤ 0x1000000)

/-- The answer to REGRD. While the fabric is not loaded, only one word at DEVID or FABSTAT is read (20 R370). -/
def readRegisters (off count : Nat) (s : State) : Nat × List Byte × State :=
  if !s.fabric.loaded && !(count == 1 && (off == 0 || off == 0x20)) then (4, [], s)
  else if !windowRun off count || decide (256 < count) then (2, [], s)
  else (0, (List.range count).flatMap (fun j => bytesOf 4 (windowRead s (off + 4 * j)).toNat), s)

/-- REGRD (20 R371, R390). -/
def execRegrd (r : Req) (off count : Nat) (s : State) : Host.Outcome State Fault Refusal :=
  request 0x01 r .core (readRegisters off count) s

/-- Writes consecutive words. -/
def writeRegisters (off : Nat) : List Word → State → State
  | [], s => s
  | w :: ws, s => writeRegisters (off + 4) ws (writeRegister off w s)

/-- REGWR (20 R371, R385, R390). -/
def execRegwr (r : Req) (off : Nat) (ws : List Word) (s : State) : Host.Outcome State Fault Refusal :=
  request 0x02 r .owner (statusOnly (fun s =>
    if windowRun off ws.length then (0, writeRegisters off ws s) else (2, s))) s

/-! ## Owners (20 R391, R392) -/

/-- A lease from now: 2 s. -/
def leaseFrom (s : State) : Nat := s.wall + 2000000

/-- The effect of CLAIM: the status, the payload, and the owner. -/
def claimOwner (r : Req) (s : State) : Nat × List Byte × State :=
  let take : Nat × List Byte × State := (0, [], { s with owner := .owned r.master r.ip (leaseFrom s) })
  match liveOwner s with
  | .none => take
  | .owned m ip _ => if m = r.master ∧ ip = r.ip then (0, [], s) else (1, bytesOf 8 m.toNat, s)
  | .offered m _ _ n => if r.master = n then take else (1, bytesOf 8 m.toNat, s)

/-- CLAIM (20 R391). -/
def execClaim (r : Req) (s : State) : Host.Outcome State Fault Refusal := request 0x03 r .anyone (claimOwner r) s

/-- The owner state with its lease from now. -/
def renewOwner (s : State) : Owner :=
  match liveOwner s with
  | .none => .none
  | .owned m ip _ => .owned m ip (leaseFrom s)
  | .offered m ip _ n => .offered m ip (leaseFrom s) n

/-- RENEW (20 R391). -/
def execRenew (r : Req) (s : State) : Host.Outcome State Fault Refusal :=
  request 0x04 r .owner (statusOnly (fun s => (0, { s with owner := renewOwner s }))) s

/-- The effect of HANDOVER to a master: an offer, or its withdrawal; other handovers are refused. -/
def handOver (n : DWord) (s : State) : Nat × State :=
  match liveOwner s with
  | .owned m ip lease => if n = 0 then (2, s) else if n = m then (4, s) else (0, { s with owner := .offered m ip lease n })
  | .offered m ip lease _ => if n = m then (0, { s with owner := .owned m ip lease }) else (if n = 0 then 2 else 4, s)
  | .none => (1, s)

/-- HANDOVER (20 R391). -/
def execHandover (r : Req) (target : DWord) (s : State) : Host.Outcome State Fault Refusal :=
  request 0x05 r .owner (statusOnly (handOver target)) s

/-- RELEASE (20 R391). -/
def execReleaseOwner (r : Req) (s : State) : Host.Outcome State Fault Refusal :=
  request 0x06 r .owner (statusOnly (fun s => (0, { s with owner := .none }))) s

/-- LEASE_LAPSE (20 R391). -/
def execLeaseLapse (s : State) : Host.Outcome State Fault Refusal := .next { s with owner := liveOwner s }

/-! ## Unknown messages (20 R388) -/

/-- The message types that have a meaning (20 R390, 21 R398, R399). -/
def knownTypes : List Nat :=
  [0x01, 0x02, 0x03, 0x04, 0x05, 0x06, 0x10, 0x11, 0x12, 0x13, 0x14, 0x20, 0x30, 0x31, 0x32, 0x33, 0x34, 0x41]

/-- A request of a type that has no meaning is answered with status 3. -/
def unknownMessage (type : Nat) (r : Req) (s : State) : Host.Outcome State Fault Refusal :=
  if knownTypes.contains type then .next s else request type r .anyone (statusOnly (fun s => (3, s))) s

/-! ## Events (20 R389, R390, R392) -/

/-- EVENT_RESEND (20 R389, R392). An event that has not been acknowledged is sent when it has not been sent yet, or again
after 1 ms. -/
def execEventResend (event : Nat) (s : State) : Host.Outcome State Fault Refusal :=
  .next (match s.events.find? (fun e => e.num == BitVec.ofNat 32 event) with
    | some e => if e.sent = 0 ∨ e.last + 1000 ≤ s.wall then transmit e.num s else s
    | none => s)

/-- EVACK (20 R389, R390). -/
def execEvack (r : Req) (event : Nat) (s : State) : Host.Outcome State Fault Refusal :=
  request 0x41 r .owner (statusOnly (fun s =>
    (0, { s with events := s.events.filter (fun e => e.num != BitVec.ofNat 32 event) }))) s

end Sys2Proof.Machine
end

