-- ==== Sys2Proof/Machine/Boot.lean ====
section
/-!
DEFINITION. The hard core: images, the start, network recovery and attestation (21 R394 to R401).
-/
namespace Sys2Proof.Machine

/-! ## Images (21 R394, R395) -/

/-- Where the region of an image begins: 1 configuration record, 2 bitstream. -/
def regionBase (kind : Nat) : Nat := if kind = 1 then 0 else 0x10000

/-- A byte of the serial flash: what was written; else what the region holds from the start, or after its last erase. -/
def flashAt (s : State) (a : Nat) : Byte :=
  match tget s.flash a with
  | some b => b
  | none =>
    let erases := if a < 0x10000 then tgetD s.erased 1 0 else if a < Config.flashSize then tgetD s.erased 2 0 else 0
    Config.flashByte (a + erases * 2 ^ 41)

/-- The bytes of a region. -/
def regionSize (kind : Nat) : Nat := if kind = 1 then 0x10000 else Config.flashSize - 0x10000

/-- `n` bytes of an image from an offset on; `img` gives its bytes. -/
def imageBytes (img : Nat → Byte) (off n : Nat) : List Byte := (List.range n).map (fun j => img (off + j))

/-- The 24 words of a header. -/
def imageHeader (img : Nat → Byte) : List Word := wordsOfBytes (imageBytes img 0 0x60)

/-- Whether a header has the right MAGIC. -/
def magicFits (h : List Word) : Bool := recWord h 0 == 0x4258494D

/-- LENGTH of a header. -/
def imageLength (h : List Word) : Nat := recWord h 2

/-- Whether an image verifies (21 R395). -/
def imageVerifies (kind : Nat) (img : Nat → Byte) : Bool :=
  let h := imageHeader img
  magicFits h && bits (recWord h 1) 31 16 == kind && bits (recWord h 3) 31 16 == 0x4D08 &&
    decide (imageLength h + 0x1400 ≤ regionSize kind) &&
    imageBytes img 0x20 64 == sha3 (imageBytes img 0x1400 (imageLength h)) &&
    vendorVerifies (imageBytes img 0 0x60) (imageBytes img 0x60 4627)

/-- The image that stands in the flash. -/
def flashImage (s : State) (kind : Nat) : Nat → Byte := fun a => flashAt s (regionBase kind + a)

/-- Whether the image of a region verifies; that of a region whose write was cut short does not (21 R398). -/
def flashVerifies (s : State) (kind : Nat) : Bool := !s.torn.contains kind && imageVerifies kind (flashImage s kind)

/-- The body of an image. -/
def imageBody (img : Nat → Byte) : List Byte := imageBytes img 0x1400 (imageLength (imageHeader img))

/-- A header as the hard core remembers it: nothing without the right MAGIC (21 R400). -/
def rememberedHeader (img : Nat → Byte) : List Word := if magicFits (imageHeader img) then imageHeader img else []

/-! ## The start (21 R397) -/

/-- Lanes that a port runs with: 8, 4, 2 or none (19 R365, R368). -/
def portLanes (n : Nat) : Nat := if 8 ≤ n then 8 else if 4 ≤ n then 4 else if 2 ≤ n then 2 else 0

/-- The state with the hard core's record changed. -/
def modBoot (f : Boot → Boot) (s : State) : State := { s with boot := f s.boot }

/-- The device enters recovery after a step that failed, which it has reached; the fabric is not loaded. -/
def failStart (step : Nat) (s : State) : State :=
  modFabric (fun f => { f with loaded := false })
    (modBoot (fun b => { b with recovery := true, failStep := step, steps := step }) s)

/-- Step 1: the Ethernet lanes train. -/
def startLanes (s : State) : State :=
  { s with units := { s.units with lanes0 := portLanes (Config.lanesTrained s.nonce 0), lanes1 := portLanes (Config.lanesTrained s.nonce 1) } }

/-- Step 3: the units that a record maps out, its trims, and its power limit, at most 1,700 W (21 R396). Counts are at most those
of the full part; a die's memory is what the record gives, within the range of the die (10 R209; log entry 66). -/
def startUnits (r : Config.RecordBody) (s : State) : State :=
  let u := s.units
  let limit := min 1700 r.powerLimit
  modFabric (fun f => { f with pwrCap := limit, pwrLimit := limit })
    { s with units := { clusters0 := min 64 r.clusters0, clusters1 := min 64 r.clusters1, deadSlices := r.deadSlices,
                        deadBanks := r.deadBanks, homes0 := min 64 r.homes0, homes1 := min 64 r.homes1,
                        channels := r.channels.map (min 32), trims := r.trims, repairs := r.repairs,
                        hbmStacks := (List.range 8).filter (fun k => r.hbmStacks.contains k),
                        lanes0 := portLanes (min u.lanes0 r.lanes0), lanes1 := portLanes (min u.lanes1 r.lanes1),
                        capacity0 := min 0x4000000000 r.capacity0, capacity1 := min 0x4000000000 r.capacity1 } }

/-- The stacks of a die. -/
def dieStacks (die : Nat) (ks : List Nat) : List Nat := ks.filter (fun k => k / 4 == die)

/-- What is left of a die's capacity when only some of its stacks have trained: each contributes an equal share. -/
def trainedCapacity (capacity : Nat) (all trained : List Nat) : Nat := capacity / all.length * trained.length

/-- Step 4: the record's lane repairs are applied, and the stacks that then train remain, with their channels. -/
def startStacks (s : State) : State :=
  let u := s.units
  let ks := u.hbmStacks.filter (Config.stackTrains u.repairs s.nonce)
  { s with units := { u with hbmStacks := ks
                             capacity0 := trainedCapacity u.capacity0 (dieStacks 0 u.hbmStacks) (dieStacks 0 ks)
                             capacity1 := trainedCapacity u.capacity1 (dieStacks 1 u.hbmStacks) (dieStacks 1 ks) } }

/-- The nominal arithmetic clock in MHz (00 R1): the device runs at it until it throttles (21 R402). -/
def nominalMhz : Nat := 1400

/-- Steps 5 and 6, with the public key of the record: the bitstream is verified, the fabric loaded, and the identity
checked. -/
def startFabric (key : List Byte) (s : State) : State :=
  let img := flashImage s 2
  let s := modBoot (fun b => { b with bitHeader := rememberedHeader img }) s
  if !flashVerifies s 2 then failStart 5 s
  else
    let s := modBoot (fun b =>
      { b with bitOk := true, arith := (sha3 (Config.arithSection (imageBody img))).take 8 }) s
    if deviceKey ≠ key then failStart 6 s
    else modFabric (fun f => { f with loaded := true, mhz := nominalMhz }) (modBoot (fun b => { b with steps := 6 }) s)

/-- Steps 3 and on, with a record that has been verified. -/
def startWith (r : Config.RecordBody) (s : State) : State :=
  let s := startStacks (startUnits r s)
  if (dieStacks 0 s.units.hbmStacks).isEmpty || (dieStacks 1 s.units.hbmStacks).isEmpty then failStart 4 s
  else startFabric r.publicKey s

/-- The steps of the start, in order. -/
def startDevice (s : State) : State :=
  let s := startLanes (modBoot (fun b => { b with begun := true, starts := b.starts + 1 }) s)
  let img := flashImage s 1
  let s := modBoot (fun b => { b with cfgHeader := rememberedHeader img }) s
  if !flashVerifies s 1 then failStart 2 s
  else startWith (Config.recordBody (imageBody img)) (modBoot (fun b => { b with cfgOk := true }) s)

/-- DEVICE_START (21 R397). -/
def execDeviceStart (s : State) : Host.Outcome State Fault Refusal := .next (if s.boot.begun then s else startDevice s)

/-! ## Attestation (21 R399 to R401) -/

/-- UNITS of the report: what the steps of the start that have been reached have established. -/
def reportUnits (s : State) : Nat :=
  let b := s.boot
  let u := s.units
  let upTo := fun (n v : Nat) => if n ≤ b.steps then v else 0
  upTo 3 (u.clusters0 + u.clusters1) + upTo 4 u.hbmStacks.length * 2 ^ 8 + upTo 1 (u.lanes0 / 2) * 2 ^ 12 +
    upTo 1 (u.lanes1 / 2) * 2 ^ 16 + b.failStep * 2 ^ 20 + b.cfgOk.toNat * 2 ^ 24 + b.bitOk.toNat * 2 ^ 25

/-- The words of a header's digest. -/
def headerDigest (h : List Word) : List Word := (List.range 16).map (fun j => h.getD (8 + j) 0)

/-- The determinism record (21 R401). -/
def determinism (b : Boot) : List Word :=
  1 :: (if b.bitOk then Config.arithRevision :: wordsOfBytes b.arith else [0, 0, 0])

/-- The report of 21 R399. -/
def reportWords (s : State) (nonce : List Word) : List Word :=
  let b := s.boot
  [Config.devid,
    BitVec.ofNat 32 (bits (recWord b.cfgHeader 1) 15 0 * 65536 + bits (recWord b.bitHeader 1) 15 0)] ++
    headerDigest b.cfgHeader ++ headerDigest b.bitHeader ++ nonce ++
    [BitVec.ofNat 32 b.starts, BitVec.ofNat 32 (reportUnits s)] ++ determinism b

/-- ATTQUERY (21 R399, R400). The report, signed by the device key. -/
def execAttquery (r : Req) (nonce : List Word) (s : State) : Host.Outcome State Fault Refusal :=
  request 0x20 r .core (fun s =>
    let bs := bytesOfWords (reportWords s nonce)
    if nonce.length = 8 then (0, bs ++ deviceSign s.nonce bs, s) else (2, [], s)) s

/-! ## Network recovery (21 R398) -/

/-- The recovery session that is open: one that has received no message for 10 s is closed. -/
def openSession (s : State) : Option Session := s.boot.session.filter (fun x => decide (s.wall < x.last + 10000000))

/-- The recovery session of a request's master. -/
def sessionOf (s : State) (r : Req) : Option Session :=
  match openSession s with
  | some x => if x.master = r.master ∧ x.ip = r.ip then some x else none
  | none => none

/-- A message of its master keeps a session open. -/
def touchSession (r : Req) (s : State) : State :=
  match sessionOf s r with
  | some x => modBoot (fun b => { b with session := some { x with last := s.wall } }) s
  | none => s

/-- RECBEGIN (21 R398). -/
def execRecbegin (r : Req) (kind : Nat) (s : State) : Host.Outcome State Fault Refusal :=
  request 0x30 r .recovery (statusOnly (fun s =>
    if (openSession s).isSome && (sessionOf s r).isNone then (4, s)
    else if kind ≠ 1 ∧ kind ≠ 2 then (2, touchSession r s)
    else
      let x : Session := { master := r.master, ip := r.ip, kind := kind, staging := [], last := s.wall }
      (0, modBoot (fun b => { b with session := some x }) s))) s

/-- Puts consecutive bytes into a table. -/
def putTable (a : Nat) : List Byte → Table Byte → Table Byte
  | [], t => t
  | b :: bs, t => putTable (a + 1) bs (tset t a b)

/-- RECDATA (21 R398). -/
def execRecdata (r : Req) (off : Nat) (data : List Byte) (s : State) : Host.Outcome State Fault Refusal :=
  request 0x31 r .recovery (statusOnly (fun s =>
    match sessionOf s r with
    | none => (4, s)
    | some x =>
      if 1024 < data.length ∨ regionSize x.kind < off + data.length then (2, touchSession r s)
      else
        let x' := { x with staging := putTable off data x.staging, last := s.wall }
        (0, modBoot (fun b => { b with session := some x' }) s))) s

/-- The staged image; bytes that no message has written are not known. -/
def stagedImage (x : Session) (a : Nat) : Byte :=
  match tget x.staging a with
  | some b => b
  | none => Config.flashByte (2 ^ 40 + a)

/-- The flash region of an image is erased: no byte of it is what it was. -/
def eraseRegion (kind : Nat) (s : State) : State :=
  let base := regionBase kind
  { s with flash := s.flash.filter (fun e => decide (e.1 < base ∨ base + regionSize kind ≤ e.1))
           erased := tset s.erased kind (s.nonce + 1)
           nonce := s.nonce + 8 }

/-- The flash region of an image is erased and written. -/
def writeRegion (x : Session) (s : State) : State :=
  let n := 0x1400 + imageLength (imageHeader (stagedImage x))
  let s := eraseRegion x.kind s
  { s with flash := putTable (regionBase x.kind) (imageBytes (stagedImage x) 0 n) s.flash
           torn := sdel s.torn x.kind }

/-- The device after a reset: what is in the flash stays, the contents of memory are unspecified, time goes on,
and what has been sent and answered is remembered (log entry 36). -/
def resetDevice (s : State) : State :=
  { State.reset with
    flash := s.flash, erased := s.erased, torn := s.torn, wall := s.wall, nonce := s.nonce + 8, masters := s.masters,
    outbox := s.outbox, turns := s.turns
    voids := [(0, 2 ^ 46, s.nonce + 1)]
    boot := { Boot.reset with starts := s.boot.starts } }

/-- A reset or loss of power comes while RECCOMMIT writes the flash: the region cannot be verified, and no reply goes out. -/
def cutCommit (x : Session) (s : State) : State :=
  let s := eraseRegion x.kind s
  resetDevice { s with torn := sadd s.torn x.kind, turns := s.turns.drop 1 }

/-- Whether a reset from outside comes before anything else. -/
def resetNext (s : State) : Bool := s.turns.head? == some .reset

/-- Whether a RECCOMMIT would write the flash: its session is open, and the staged image verifies. -/
def commits (s : State) (r : Req) : Option Session :=
  if accepted s r .recovery then (sessionOf s r).filter (fun x => imageVerifies x.kind (stagedImage x)) else none

/-- RECCOMMIT (21 R398). When the next thing to happen is a reset from outside, it falls into the write. -/
def execReccommit (r : Req) (s : State) : Host.Outcome State Fault Refusal :=
  match (if resetNext s then commits s r else none) with
  | some x => .next (cutCommit x s)
  | none =>
  request 0x32 r .recovery (statusOnly (fun s =>
    match sessionOf s r with
    | none => (4, s)
    | some x =>
      if imageVerifies x.kind (stagedImage x) then
        (0, modBoot (fun b => { b with session := none, starts := 0 }) (writeRegion x s))
      else (4, touchSession r s))) s

/-- RECRESET (21 R398). The reply goes out, and the device starts again. -/
def execRecreset (r : Req) (s : State) : Host.Outcome State Fault Refusal :=
  request 0x33 r .recovery (statusOnly (fun s => (0, resetDevice s))) s

/-- RECINFO (21 R398). The step that failed, and the headers of both images (log entry 36). -/
def execRecinfo (r : Req) (s : State) : Host.Outcome State Fault Refusal :=
  request 0x34 r .recovery (fun s =>
    (0, bytesOf 4 s.boot.failStep ++ imageBytes (flashImage s 1) 0 0x60 ++ imageBytes (flashImage s 2) 0 0x60,
      touchSession r s)) s

/-- RECOVERY_SESSION_TIMEOUT (21 R398). A session that has received no message for 10 s is closed. -/
def execRecoverySessionTimeout (s : State) : Host.Outcome State Fault Refusal :=
  .next (match s.boot.session with
    | some x => if x.last + 10000000 ≤ s.wall then modBoot (fun b => { b with session := none }) s else s
    | none => s)

end Sys2Proof.Machine
end

