-- ==== Sys2Proof/Machine/Sums.lean ====
section
/-!
DEFINITION. Values of the matrix engine: elements of its operands (14 R293, R294), sums with one rounding (14 R295, R296), and
the quantiser of MX blocks (04 R80).
-/
namespace Sys2Proof.Machine

/-! ## Elements -/

/-- The value of an element of a block format under its scale byte (04 R79). An infinite E5M2 element of a block whose scale is
0xFF is NaN: the model's choice between two sentences of the rule (log entry 56). -/
def mxValue (fmt scale x : Nat) : FpVal :=
  let v := match fmt with
    | 0x0D => e4m3.value x
    | 0x0E => e5m2.value x
    | 0x0F => e2m3.value x
    | 0x10 => e3m2.value x
    | 0x11 => e2m1.value x
    | _ => (match finOfInt (toSigned 8 x) with
      | .fin n m _ => .fin n m (-6)
      | v => v)
  if scale = 255 then .nan false
  else match v with
    | .fin n m e => .fin n m (e + (scale : Int) - 127)
    | v => v

/-- The value of an operand element (14 R294): with its scale in a block format, else by its format; integers are
integers. -/
def elemValue (fmt scale x : Nat) : FpVal := if isMx fmt then mxValue fmt scale x else srcValue (fmtClass fmt) x

/-- A byte of the crew's local scratchpad, and whether it bears poison. -/
def localByte (s : State) (slot o : Nat) : Nat × Bool :=
  let c := clusterAt s (clusterOf slot)
  let k := scratchKey c o
  ((tgetD c.banks k 0).toNat, c.poison.contains k)

/-- A byte of a crew's register space, and whether its sector bears poison. -/
def spaceAt (c : Crew) (a : Nat) : Nat × Bool := ((spaceByte c a).toNat, c.spacePoison.contains (a / 16))

/-- Byte `y` of line `r` of a side in a step (14 R293). -/
def Side.byte (s : State) (slot : Nat) (d : Side) (step r y : Nat) : Nat × Bool :=
  if d.scratch then
    localByte s slot (rotated (d.w0 + step * descStep d.w1) (descPitch d.w1) (descRot d.w1) r y)
  else
    let c := crewAt s slot
    spaceAt c (viewAddr c.viewT (d.w0 % 8 + step * d.inc) + r * (if d.tr then d.lineBytes else 512) + y)

/-- Element `k` of row `r` of a side in a step: its value, and whether a byte that it takes bears poison. -/
def Side.elem (s : State) (slot : Nat) (d : Side) (step r k : Nat) : FpVal × Bool :=
  let e := fmtWidth d.fmt
  let line := if d.tr then k else r
  let bit := (if d.tr then r else k) * e
  let b0 := d.byte s slot step line (bit / 8)
  let b1 := if bit % 8 + e ≤ 8 then (0, false) else d.byte s slot step line (bit / 8 + 1)
  let raw := (b0.1 + 256 * b1.1) / 2 ^ (bit % 8) % 2 ^ e
  let sc := if isMx d.fmt then localByte s slot (d.scl + r * d.scp + step * (stepElems d.fmt / 32) + k / 32) else (0, false)
  (elemValue d.fmt sc.1 raw, b0.2 || b1.2 || sc.2)

/-- The first `n` elements of a row of a side. -/
def Side.row (s : State) (slot : Nat) (d : Side) (step r n : Nat) : List (FpVal × Bool) :=
  (List.range n).map (fun k => d.elem s slot step r k)

/-! ## Sums (14 R295, R296) -/

/-- Status bits (14 R306): NV, NAN, OF. -/
def statNv : Nat := 1
/-- NAN. -/
def statNan : Nat := 2
/-- OF. -/
def statOf : Nat := 4
/-- SAT. -/
def statSat : Nat := 8

/-- A product as a term: a NaN of a NaN operand, an invalid product (marked signalling), an infinity, or the exact
product. -/
def termOf (a b : FpVal) : FpVal :=
  if a.isNan || b.isNan then .nan false else if mulInvalid a b then .nan true else mulVal a b

/-- Whether the elements of an operand format are integers: U8, S8, MXINT8 (14 R294). -/
def isIntFmt (fmt : Nat) : Bool := fmt == 0x00 || fmt == 0x01 || fmt == 0x12

/-- Whether a value is zero. -/
def isZeroVal : FpVal → Bool
  | .fin _ m _ => m == 0
  | _ => false

/-- The term of two operand elements. The zero of an integer element has no sign, so a product with it is +0 (14 R294, R296);
`ia` and `ib`: the elements are integers. -/
def elemTerm (ia ib : Bool) (a b : FpVal) : FpVal :=
  match termOf a b with
  | .fin n 0 e => .fin (n && !(ia && isZeroVal a) && !(ib && isZeroVal b)) 0 e
  | v => v

/-- Whether a value is minus zero. -/
def isMinusZero : FpVal → Bool
  | .fin n m _ => n && m == 0
  | _ => false

/-- The exact sum of finite values, as a signed integer and its unit. -/
def exactTotal : List FpVal → Int × Int
  | [] => (0, 0)
  | .fin n m e :: vs =>
    let r := exactTotal vs
    let e0 := if e < r.2 then e else r.2
    (signedUnits n m e e0 + r.1 * ((2 ^ (r.2 - e0).toNat : Nat) : Int), e0)
  | _ :: vs => exactTotal vs

/-- sum_round (14 R296): the FP32 result and the status bits that it sets. -/
def sumRound (x : Nat) (ts : List FpVal) : Nat × Nat :=
  let xv := fp32.value x
  let all := xv :: ts
  let nan := xv.isNan || ts.contains (.nan false)
  let bad := ts.contains (.nan true)
  if nan || bad then (0x7FC00000, (if nan then statNan else 0) + (if bad then statNv else 0))
  else if all.contains (.inf false) && all.contains (.inf true) then (0x7FC00000, statNv)
  else if all.contains (.inf false) then (0x7F800000, 0)
  else if all.contains (.inf true) then (0xFF800000, 0)
  else if ts.isEmpty then (x, 0)
  else
    let t := exactTotal all
    if t.1 = 0 then (if all.all isMinusZero then 0x80000000 else 0, 0)
    else
      let r := fp32.round 0 false (decide (t.1 < 0)) t.1.natAbs t.2 false
      (r.1, if r.2.of then statOf else 0)

/-- The slices of one step folded into an accumulator element, in order. -/
def foldSlices (x : Nat) : List (List FpVal) → Nat × Nat
  | [] => (x, 0)
  | t :: ts =>
    let r := sumRound x t
    let q := foldSlices r.1 ts
    (q.1, r.2 ||| q.2)

/-- Runs of `n` entries. -/
def runsOf {α : Type} (n : Nat) : Nat → List α → List (List α)
  | 0, _ => []
  | fuel + 1, l => if l.isEmpty then [] else l.take n :: runsOf n fuel (l.drop n)

/-! ## Accumulators -/

/-- The byte address of accumulator `n`. -/
def accAddr (c : Crew) (n : Nat) : Nat := viewAddr c.viewA n

/-- Element (i, j) of an accumulator. -/
def accElem (c : Crew) (n i j : Nat) : Nat := (tgetD c.space (accAddr c n / 4 + i * 128 + j) 0).toNat

/-- The sector of element (i, j) of an accumulator. -/
def accSector (c : Crew) (n i j : Nat) : Nat := (accAddr c n + i * 512 + j * 4) / 16

/-- Writes consecutive words of the register space. -/
def putWords (w : Nat) : List Nat → Crew → Crew
  | [], c => c
  | v :: vs, c => putWords (w + 1) vs (setSpace w (BitVec.ofNat 32 v) c)

/-- Adds poison to sectors of the register space. -/
def poisonSpace (secs : List Nat) (c : Crew) : Crew := { c with spacePoison := secs.foldl sadd c.spacePoison }

/-- A whole accumulator is written at a step boundary: rows of elements with the poison of each (14 R308). -/
def putAcc (n : Nat) (rows : List (List (Nat × Bool))) (c : Crew) : Crew :=
  let secs := (rows.zipIdx).flatMap (fun r => (r.1.zipIdx).filterMap (fun e =>
    if e.1.2 then some (accSector c n r.2 e.2) else none))
  poisonSpace secs (putWords (accAddr c n / 4) (rows.flatten.map (·.1)) { c with cover := [] })

/-! ## The quantiser (04 R80) -/

/-- emax of an element format. -/
def mxEmax (fmt : Nat) : Int :=
  match fmt with
  | 0x0D => 8
  | 0x0E => 15
  | 0x0F => 2
  | 0x10 => 4
  | 0x11 => 2
  | _ => 0

/-- One element quantised: its code, and whether it saturated. -/
def mxElem (fmt : Nat) (x : Int) (v : FpVal) : Nat × Bool :=
  match v with
  | .fin n m e =>
    let f := fun (g : FpFmt) =>
      let r := g.round 0 true n m (e - x) false
      (r.1, r.2.of)
    (match fmt with
      | 0x0D => f e4m3
      | 0x0E => f e5m2
      | 0x0F => f e2m3
      | 0x10 => f e3m2
      | 0x11 => f e2m1
      | _ =>
        let r := (roundAt 0 n m (e - x + 6) 0 false).1
        let q := min r 127
        (if n then wrapTo 8 (-(q : Int)) else q, decide (127 < r)))
  | _ => (0, false)

/-- The exponent of the greatest magnitude of a block; none when all are zero. -/
def mxTop : List FpVal → Option Int
  | [] => none
  | .fin _ m e :: vs =>
    if m = 0 then mxTop vs
    else
      let t := (bitLen m : Int) - 1 + e
      some (match mxTop vs with
        | some u => max t u
        | none => t)
  | _ :: vs => mxTop vs

/-- A block of 32 values quantised: the scale byte, the elements, and whether any saturated. -/
def mxQuantise (fmt : Nat) (vs : List FpVal) : Nat × List Nat × Bool :=
  if vs.any (fun v => match v with
    | .fin _ _ _ => false
    | _ => true) then (255, vs.map (fun _ => 0), false)
  else
    let x : Int := match mxTop vs with
      | some t => max (-127) (min 127 (t - mxEmax fmt))
      | none => -127
    let es := vs.map (mxElem fmt x)
    ((x + 127).toNat, es.map (·.1), es.any (·.2))

end Sys2Proof.Machine
end

