-- ==== Sys2Proof/Machine/Matrix.lean ====
section
/-!
DEFINITION. The MATRIX family and the steps of the matrix engine (14 R286 to R299, R304 to R308; 15 R310 to R317, R322 to
R325).
-/
namespace Sys2Proof.Machine

/-! ## Steps of MMA and MMAS -/

/-- K positions that a step uses (14 R294, R298): all, or KVALID in the last step. -/
def stepValid (j : List Word) (step all : Nat) : Nat :=
  let kv := bits (recWord j 12) 10 0
  if step + 1 = jobCount j ∧ kv ≠ 0 then min kv all else all

/-- The values of a row before a step: the accumulator, or +0 where INIT clears it. -/
def accRow (c : Crew) (n : Nat) (clear : Bool) (i : Nat) : List (Nat × Bool) :=
  (List.range 128).map (fun j =>
    if clear then (0, false) else (accElem c n i j, c.spacePoison.contains (accSector c n i j)))

/-- The values of a row before a step: what the job's latest step gave, so that a SIMT write to the register since then is not
folded (10 R197), with the poison that the register has come to hold; before its first step, the accumulator as it stands. -/
def jobRow (c : Crew) (jb : Job) (n : Nat) (init : Bool) (i : Nat) : List (Nat × Bool) :=
  match jb.acc[i]? with
  | some row => (row.zipIdx).map (fun e => (e.1.1, e.1.2 || c.spacePoison.contains (accSector c n i e.2)))
  | none => accRow c n init i

/-- Every element of a row folded with its slices: `terms` gives the slices of a column and whether poison enters them.
Answers the row and the status bits. -/
def foldRow (row : List (Nat × Bool)) (terms : List (List (List FpVal) × Bool)) : List (Nat × Bool) × Nat :=
  let rs := row.zipWith (fun e t => (foldSlices e.1 t.1, e.2 || t.2)) terms
  (rs.map (fun r => (r.1.1, r.2)), rs.foldl (fun a r => a ||| r.1.2) 0)

/-- The slices of two rows of operand elements (14 R295); `ia` and `ib`: they are integers. -/
def denseTerms (ia ib : Bool) (a b : List (FpVal × Bool)) : List (List FpVal) × Bool :=
  (runsOf 32 64 (List.zipWith (fun x y => elemTerm ia ib x.1 y.1) a b), a.any (·.2) || b.any (·.2))

/-- A job's accumulator after a step, and the status bits that the step sets. -/
def rowsAfter (old : Nat → List (Nat × Bool)) (terms : Nat → List (List (List FpVal) × Bool)) :
    List (List (Nat × Bool)) × Nat :=
  let rs := (List.range 128).map (fun i => foldRow (old i) (terms i))
  (rs.map (·.1), rs.foldl (fun a r => a ||| r.2) 0)

/-- One step of MMA (14 R295). -/
def mmaStep (slot : Nat) (jb : Job) (s : State) : List (List (Nat × Bool)) × Nat :=
  let c := crewAt s slot
  let w0 := recWord jb.j 0
  let a := sideA jb.j
  let n := stepValid jb.j jb.step (stepElems a.fmt)
  let bs := (List.range 128).map (fun r => (sideB jb.j).row s slot jb.step r n)
  rowsAfter (jobRow c jb (bits w0 18 16) (bitAt w0 19))
    (fun i =>
      let ar := a.row s slot jb.step i n
      bs.map (fun br => denseTerms (isIntFmt a.fmt) (isIntFmt (sideB jb.j).fmt) ar br))

/-- A group of 2:4 metadata (14 R298): i0, i1, and poison. -/
def metaNibble (s : State) (slot : Nat) (jb : Job) (row g : Nat) : Nat × Nat × Bool :=
  let ke := stepElems (sideA jb.j).fmt
  let b := localByte s slot (recWord jb.j 10 + row * recWord jb.j 11 + jb.step * (ke / 4) + g / 2)
  let x := if g % 2 = 0 then b.1 % 16 else b.1 / 16
  (x % 4, x / 4, b.2)

/-- The groups of a row of A in a step of MMAS, as far as KVALID reaches: the stored values with their positions in the
group; no entries in a malformed group. Each with poison and whether it is malformed. -/
def sparseRow (s : State) (slot : Nat) (jb : Job) (i : Nat) : List (List (Nat × FpVal) × Bool × Bool) :=
  let a := sideA jb.j
  let n := stepValid jb.j jb.step (2 * stepElems a.fmt) / 4
  (List.range n).map (fun g =>
    let m := metaNibble s slot jb i g
    let x := a.elem s slot jb.step i (2 * g)
    let y := a.elem s slot jb.step i (2 * g + 1)
    if m.2.1 ≤ m.1 then ([], m.2.2, true)
    else ([(m.1, x.1), (m.2.1, y.1)], m.2.2 || x.2 || y.2, false))

/-- The logical K vector of a row of B in a step of MMAS, in groups of 4. -/
def sparseB (s : State) (slot : Nat) (jb : Job) (r : Nat) : List (List (FpVal × Bool)) :=
  let b := sideB jb.j
  let ke := stepElems b.fmt
  let n := stepValid jb.j jb.step (2 * ke)
  runsOf 4 512 ((List.range n).map (fun k => b.elem s slot (2 * jb.step + k / ke) r (k % ke)))

/-- The slices of a row of A and a row of B in MMAS: 8 groups each. -/
def sparseTerms (ia ib : Bool) (a : List (List (Nat × FpVal) × Bool × Bool)) (b : List (List (FpVal × Bool))) :
    List (List FpVal) × Bool :=
  let gs := List.zipWith (fun x y =>
    (x.1.map (fun e => elemTerm ia ib e.2 (y.getD e.1 (.fin false 0 0, false)).1),
      x.2.1 || x.1.any (fun e => (y.getD e.1 (.fin false 0 0, false)).2))) a b
  ((runsOf 8 64 (gs.map (·.1))).map List.flatten, gs.any (·.2))

/-- One step of MMAS; answers also whether a malformed group was met. -/
def mmasStep (slot : Nat) (jb : Job) (s : State) : (List (List (Nat × Bool)) × Nat) × Bool :=
  let c := crewAt s slot
  let w0 := recWord jb.j 0
  let ars := (List.range 128).map (sparseRow s slot jb)
  let bs := (List.range 128).map (sparseB s slot jb)
  (rowsAfter (jobRow c jb (bits w0 18 16) (bitAt w0 19))
      (fun i => bs.map (fun br =>
        sparseTerms (isIntFmt (sideA jb.j).fmt) (isIntFmt (sideB jb.j).fmt) (ars.getD i []) br)),
    ars.any (fun r => r.any (·.2.2)))

/-! ## MRAST (15 R310 to R317) -/

/-- The sample point of pixel `j` (15 R310). -/
def samplePoint (j : Nat) : Int × Int := (256 * (j % 16 : Nat) + 128, 256 * (j / 16 : Nat) + 128)

/-- A plane row's words as numbers (15 R311): its edges, its depth plane, DTEST, DWRITE, whether it is valid (R312), and
poison. -/
structure Plane where
  edges : List (Int × Int × Int)
  depth : Int × Int × Int
  test : Bool
  store : Bool
  valid : Bool
  poison : Bool
  deriving DecidableEq, Repr, Inhabited

/-- A plane at a sample point. -/
def planeAt (p : Int × Int × Int) (j : Nat) : Int :=
  p.1 * (samplePoint j).1 + p.2.1 * (samplePoint j).2 + p.2.2

/-- Whether a plane's coefficients are within the limits of 15 R312. -/
def planeOk (p : Int × Int × Int) : Bool :=
  decide (p.1.natAbs ≤ 2 ^ 24 ∧ p.2.1.natAbs ≤ 2 ^ 24 ∧ p.2.2.natAbs ≤ 2 ^ 48)

/-- The plane row at a scratch offset. -/
def planeRow (s : State) (slot o : Nat) : Plane :=
  let bs := (List.range 80).map (fun y => localByte s slot (o + y))
  let w := fun n => (List.range 4).foldl (fun a y => a + (bs.getD (4 * n + y) (0, false)).1 * 256 ^ y) 0
  let p := fun n => (toSigned 32 (w n), toSigned 32 (w (n + 1)), toSigned 64 (w (n + 2) + w (n + 3) * 2 ^ 32))
  let es := [p 0, p 4, p 8]
  { edges := es, depth := p 12, test := bitAt (w 16) 0, store := bitAt (w 16) 1,
    valid := es.all planeOk && planeOk (p 12) && decide (w 16 < 4) && w 17 == 0 && w 18 == 0 && w 19 == 0,
    poison := bs.any (·.2) }

/-- The visibility of a pixel in each row, in primitive order, and its final depth (15 R316). -/
def rastPixel (j : Nat) : List Plane → Int → List Bool × Int
  | [], d => ([], d)
  | p :: ps, d =>
    let z := planeAt p.depth j
    let vis := p.valid && p.edges.all (fun e => decide (0 ≤ planeAt e j)) && (!p.test || decide (z < d))
    let r := rastPixel j ps (if vis && p.store then z else d)
    (vis :: r.1, r.2)

/-- The depth tile's entry for a pixel. -/
def depthEntry (s : State) (slot o j : Nat) : Int × Bool :=
  let bs := (List.range 8).map (fun y => localByte s slot (o + 8 * j + y))
  (toSigned 64 (bs.foldr (fun b a => b.1 + 256 * a) 0), bs.any (·.2))

/-- Whether poison enters the rows up to and including row `i`. -/
def poisonTo (ps : List Plane) (i : Nat) : Bool := (ps.take (i + 1)).any (·.poison)

/-- Changes the job at the head of a crew's queue. -/
def modHead (slot : Nat) (f : Job → Job) (s : State) : State :=
  modCrew slot (fun c => { c with jobs := (c.jobs.take 1).map f ++ c.jobs.drop 1 }) s

/-- Bytes for consecutive places of scratchpad, from an offset. -/
def cellsAt (o : Nat) (bs : List (Byte × Bool)) : List (Nat × Byte × Bool) := (bs.zipIdx).map (fun e => (o + e.2, e.1))

/-- A job's write of one sector of its crew's local scratchpad: one event, with a marker for the whole sector where poison has
entered it (14 R308). -/
def putSector (cl : Nat) (cells : List (Nat × Byte × Bool)) (s : State) : State :=
  let key := fun (o : Nat) => scratchKey (clusterAt s cl) o
  let s' := bankCells cl (cells.map (fun e => (key e.1, e.2.1, false))) s
  match cells with
  | e :: _ =>
    if cells.any (·.2.2) then
      modCluster cl (fun c => { c with poison := (List.range 16).foldl (fun p y => sadd p (key (e.1 / 16 * 16 + y))) c.poison }) s'
    else s'
  | [] => s'

/-- Writes bytes to a crew's local scratchpad, one event per sector (11 R226). -/
def putLocal (slot : Nat) (cells : List (Nat × Byte × Bool)) (s : State) : State :=
  (sectorRuns cells).foldl (fun s r => putSector (clusterOf slot) r s) s

/-- The step of MRAST (15 R316): the accumulator and the status bits. The depth tile is read here; what goes back to it is written
by itself (15 R317). -/
def rastStep (slot : Nat) (jb : Job) (s : State) : State × Nat :=
  let w := recWord jb.j
  let n := bits (w 0) 6 0 + 1
  let ps := (List.range n).map (fun i => planeRow s slot (w 1 + i * w 2))
  let start := fun j => if bitAt (w 0) 11 then depthEntry s slot (w 3) j else (2 ^ 63 - 1, false)
  let px := (List.range 128).map (fun j => rastPixel j ps (start j).1)
  let rows := (List.range 128).map (fun i => (List.range 128).map (fun j =>
    let vis := (px.getD j ([], 0)).1.getD i false
    ((if vis then 0x3F800000 else 0), decide (i < n) && (poisonTo ps i || (start j).2))))
  let s := modCrew slot (putAcc (bits (w 0) 10 8) rows) s
  let s := if bitAt (w 0) 12 then
      modHead slot (fun x => { x with writes := cellsAt (w 3) ((List.range 128).flatMap (fun j =>
        (bytesOf 8 (wrapTo 64 (px.getD j ([], 0)).2)).map (fun b => (b, poisonTo ps n || (start j).2)))) }) s
    else s
  (s, (if px.all (fun p => p.1.all (!·)) then 0x80 else 0) + (if ps.all (·.valid) then 0 else 0x20))

/-! ## MFILT (15 R322 to R325) -/

/-- A weight applied to a texel, divided by 65,536: exact (15 R324). -/
def weighted (w : Nat) (v : FpVal) : FpVal :=
  match v with
  | .fin n m e => .fin n (m * w) (e - 16)
  | v => v

/-- The taps of a pixel: number and weight, those of weight 0 left out, and whether poison enters the fractions. -/
def filtTaps (s : State) (slot : Nat) (jb : Job) (i : Nat) : List (Nat × Nat) × Bool :=
  let w := recWord jb.j
  if bits (w 0) 13 12 = 0 then ([(0, 65536)], false)
  else
    let fx := localByte s slot (w 5 + jb.step * 256 + 2 * i)
    let fy := localByte s slot (w 5 + jb.step * 256 + 2 * i + 1)
    let ts := [(0, (256 - fx.1) * (256 - fy.1)), (1, fx.1 * (256 - fy.1)), (2, (256 - fx.1) * fy.1), (3, fx.1 * fy.1)]
    (ts.filter (fun t => t.2 != 0), fx.2 || fy.2)

/-- The texel of a tap (15 R323): its value, a UNORM8 texel as its code, and poison. -/
def texel (s : State) (slot : Nat) (jb : Job) (i t j : Nat) : FpVal × Bool :=
  let w := recWord jb.j
  let fmt := bits (w 0) 4 0
  let eb := texelBytes fmt
  let ch := bits (w 1) 29 23 + 1
  let a := w 2 + jb.step * w 4 + i * bits (w 3) 15 0 + t / 2 * bits (w 3) 31 16 + (t % 2 * ch + j) * eb
  let b0 := localByte s slot a
  let b1 := if eb = 2 then localByte s slot (a + 1) else (0, false)
  let raw := b0.1 + 256 * b1.1
  (if fmt = 0x14 then finOfInt (raw : Int) else match srcValue (fmtClass fmt) raw with
    | .nan _ => .nan false
    | v => v, b0.2 || b1.2)

/-- Whether a value is a NaN or an infinity. -/
def isSpecial : FpVal → Bool
  | .fin _ _ _ => false
  | _ => true

/-- One element of an MFILT step: its terms, and poison. -/
def filtTerms (s : State) (slot : Nat) (jb : Job) (i : Nat) (taps : List (Nat × Nat)) (j : Nat) : List FpVal × Bool :=
  let xs := taps.map (fun t =>
    let x := texel s slot jb i t.1 j
    (weighted t.2 x.1, x.2))
  (xs.map (·.1), xs.any (·.2))

/-- One row of an MFILT step: the row and the status bits. -/
def filtRow (s : State) (slot : Nat) (jb : Job) (i : Nat) (row : List (Nat × Bool)) : List (Nat × Bool) × Nat :=
  let w := recWord jb.j
  if bits (w 1) 22 16 < i then (row, 0)
  else
    let tp := filtTaps s slot jb i
    let rs := (row.zipIdx).map (fun e =>
      if bits (w 1) 29 23 < e.2 then (e.1, 0)
      else
        let t := filtTerms s slot jb i tp.1 e.2
        let r := sumRound e.1.1 t.1
        ((r.1, e.1.2 || tp.2 || t.2), r.2 ||| (if t.1.any isSpecial then 0x40 else 0)))
    (rs.map (·.1), rs.foldl (fun a r => a ||| r.2) 0)

/-- The step of MFILT (15 R324): the accumulator and the status bits. -/
def filtStep (slot : Nat) (jb : Job) (s : State) : List (List (Nat × Bool)) × Nat :=
  let w0 := recWord jb.j 0
  let c := crewAt s slot
  let rs := (List.range 128).map (fun i =>
    filtRow s slot jb i (jobRow c jb (bits w0 10 8) (bitAt w0 11) i))
  (rs.map (·.1), rs.foldl (fun a r => a ||| r.2) 0)

/-! ## The service of the array (14 R287, R288) -/

/-- The job at the head of a crew's queue. -/
def headJob (c : Crew) : Option Job := c.jobs.head?

/-- Steps of a job: none for MZERO, one for MRAST. -/
def jobSteps (jb : Job) : Nat :=
  match jb.kind with
  | .mzero _ _ => 0
  | .mrast => 1
  | _ => jobCount jb.j

/-- Whether a crew's context takes steps of its jobs: it is resident and not halted (14 R307, 17 R353). -/
def ctxSteps (s : State) (ctx : Nat) : Bool :=
  let x := tgetD s.contexts ctx default
  x.status == .resident && !x.halted

/-- Whether a crew holds a job whose next step can begin. -/
def stepWaits (s : State) (c : Crew) : Bool :=
  ctxSteps s c.ctx && (match headJob c with
    | some jb => !jb.post && decide (jb.step < jobSteps jb)
    | none => false)

/-- The crews of a cluster with such a job, in ascending slot order. -/
def stepCrews (s : State) (cl : Nat) : List Nat :=
  (s.crews.filter (fun e => clusterOf e.1 == cl && stepWaits s e.2)).map (·.1)

/-- The crew that the array serves next: the one after the slot served last, wrapping. -/
def nextServed (s : State) (cl : Nat) : Option Nat :=
  let cs := stepCrews s cl
  match (clusterAt s cl).served with
  | some l => (match cs.find? (fun c => decide (l < c)) with
    | some c => some c
    | none => cs.head?)
  | none => cs.head?

/-- A job leaves its queue; its conditions enter the crew's matrix status (14 R286, R306). -/
def endJob (slot : Nat) (s : State) : State :=
  modCrew slot (fun c =>
    { c with mstatus := c.mstatus ||| (match headJob c with
        | some jb => jb.status
        | none => 0), jobs := c.jobs.drop 1 }) s

/-- A step has been made: its rows and conditions are noted, and after the last step the post-operator remains. -/
def madeStep (slot st : Nat) (rows : List (List (Nat × Bool))) (s : State) : State :=
  modHead slot (fun jb =>
    { jb with step := jb.step + 1, acc := rows, status := jb.status ||| BitVec.ofNat 32 st,
              post := decide (jobSteps jb ≤ jb.step + 1) }) s

/-- STRICTSP_FAULT (14 R299): the job ends at the boundary before the step. -/
def strictFault (slot : Nat) (jb : Job) (s : State) : State :=
  let ctx := (crewAt s slot).ctx
  endJob slot (modHead slot (fun x => { x with status := x.status ||| 0x110 })
    (postAsync ctx slot jb.pc 0x0D 0 0 jb.mask.toNat (BitVec.ofNat 32 jb.step) s))

/-- The next step of a crew's job. -/
def stepJob (slot : Nat) (s : State) : State :=
  match headJob (crewAt s slot) with
  | none => s
  | some jb =>
    match jb.kind with
    | .mma =>
      let r := mmaStep slot jb s
      madeStep slot r.2 r.1 (modCrew slot (putAcc (bits (recWord jb.j 0) 18 16) r.1) s)
    | .mmas =>
      let r := mmasStep slot jb s
      if r.2 && jb.strict then strictFault slot jb s
      else madeStep slot (r.1.2 ||| (if r.2 then 0x10 else 0)) r.1.1
        (modCrew slot (putAcc (bits (recWord jb.j 0) 18 16) r.1.1) s)
    | .mrast =>
      let r := rastStep slot jb s
      madeStep slot r.2 [] r.1
    | .mfilt =>
      let r := filtStep slot jb s
      madeStep slot r.2 r.1 (modCrew slot (putAcc (bits (recWord jb.j 0) 10 8) r.1) s)
    | .mzero _ _ => s

/-- MATRIX_STEP (14 R287). The array of a cluster takes its next step; with none to take it falls idle. -/
def execMatrixStep (cl : Nat) (s : State) : Host.Outcome State Fault Refusal :=
  .next (match nextServed s cl with
    | some slot => stepJob slot (modCluster cl (fun c => { c with served := some slot }) s)
    | none => modCluster cl (fun c => { c with served := none }) s)

/-! ## Meanings -/

/-- Adds a job to a crew's queue (14 R286). -/
def queueJob (g : Group) (kind : JobKind) (j p : List Word) (s : State) : State :=
  modCrew g.slot (fun c =>
    { c with jobs := c.jobs ++ [{ id := s.uid, kind := kind, j := j, p := p, step := 0, post := false,
                                  strict := c.crewctl.getLsbD 3, status := 0, writes := [], staged := false, acc := [], pc := g.pc,
                                  mask := BitVec.ofNat 32 ((g.keys.map (fun k => 2 ^ k)).sum) }] })
    { s with uid := s.uid + 1 }

/-- Whether a job waits at issue: four jobs are queued (14 R286). -/
def jobWaits (s : State) (g : Group) : Bool := decide (4 ≤ (crewAt s g.slot).jobs.length)

/-- Check 1 of 14 R290. -/
def badBlocks (a b : Sel) : Bool :=
  !(a.toNat == 96 || a.toNat == 112) || !([96, 104, 112, 120, 127].contains b.toNat)

/-- A loop instruction: it waits for its queue, and for a switch of the banks that it uses (10 R200), makes its checks in order,
and queues one job. -/
def loopOp (i : Instr) (kind : JobKind) (a b : Sel) (chk : Crew → List Word → BlockCheck) (s : State) :
    Host.Outcome State Fault Refusal :=
  issue i (fun g s =>
    let fail := fun (t : Trap) => failAll g t s
    if jobWaits s g then wait .engine g s
    else if badBlocks a b then fail (trapC 0x04)
    else
      let c := crewAt s g.slot
      let rd := reader s g g.lead
      let j := (List.range 16).map (fun n => rd (a.toNat + n))
      let p := (List.range 8).map (fun n => if b.toNat = 127 then 0 else rd (b.toNat + n))
      if heldBySwitch s (jobBanks s g.slot kind j p) then wait .engine g s
      else match blockTrap s g.slot ((chk c j).and (postCheck c kind p)) p with
      | some t => fail t
      | none => advance i g (queueJob g kind j p s)) s

/-- MMA (14 R297). Queues a job of dense steps. -/
def execMma (a b : Sel) (s : State) : Host.Outcome State Fault Refusal :=
  loopOp (.mma a b) .mma a b (fun c j => mmaCheck c false j) s

/-- MMAS (14 R298). Queues a job of 2:4 sparse steps. -/
def execMmas (a b : Sel) (s : State) : Host.Outcome State Fault Refusal :=
  loopOp (.mmas a b) .mmas a b (fun c j => mmaCheck c true j) s

/-- MRAST (15 R314). Queues a rasterisation job. -/
def execMrast (a b : Sel) (s : State) : Host.Outcome State Fault Refusal :=
  loopOp (.mrast a b) .mrast a b rastCheck s

/-- MFILT (15 R322). Queues a filtering job. -/
def execMfilt (a b : Sel) (s : State) : Host.Outcome State Fault Refusal :=
  loopOp (.mfilt a b) .mfilt a b filtCheck s

/-- MZERO (14 R305). Queues a job that writes zero to a register; one beyond its view's count takes 0x01. -/
def execMzero (t : Bool) (n : BitVec 3) (s : State) : Host.Outcome State Fault Refusal :=
  issue (.mzero t n) (fun g s =>
    let c := crewAt s g.slot
    if jobWaits s g then wait .engine g s
    else if viewCount (if t then c.viewT else c.viewA) ≤ n.toNat then
      failAll g (trapC 0x01) s
    else advance (.mzero t n) g (queueJob g (.mzero t n.toNat) [] [] s)) s

/-- MSTAT and MSTAT.C (14 R306): wait until the crew's MTX counter is 0; s[a] ← the status. -/
def mstatOp (i : Instr) (a : Sel) (clear : Bool) (s : State) : Host.Outcome State Fault Refusal :=
  issue i (fun g s =>
    let c := crewAt s g.slot
    if engineCount c 2 ≠ 0 then wait .engine g s
    else
      advance i g (writeResult i a (fun _ => [c.mstatus]) g
        (if clear then modCrew g.slot (fun c => { c with mstatus := 0 }) s else s))) s

/-- MSTAT (14 R306). s[a] ← the matrix status. -/
def execMstat (a : Sel) (s : State) : Host.Outcome State Fault Refusal := mstatOp (.mstat a) a false s

/-- MSTAT.C (14 R306). s[a] ← the matrix status, which is cleared as one action. -/
def execMstatC (a : Sel) (s : State) : Host.Outcome State Fault Refusal := mstatOp (.mstatC a) a true s

end Sys2Proof.Machine
end

