-- ==== Sys2Proof/Machine/Post.lean ====
section
/-!
DEFINITION. The post-operator stage (14 R300 to R303, R305) with its drawing modes (15 R318 to R321), and the end of a job.
-/
namespace Sys2Proof.Machine

/-- The status bits of floating-point conditions (14 R301): NV and OF. -/
def statFlags (f : FpFlags) : Nat := (if f.nv then statNv else 0) + (if f.of then statOf else 0)

/-- A word of the crew's local scratchpad, and whether it bears poison. -/
def localWord (s : State) (slot o : Nat) : Nat × Bool :=
  let bs := (List.range 4).map (fun y => localByte s slot (o + y))
  (bs.foldr (fun b a => b.1 + 256 * a) 0, bs.any (·.2))

/-- A value passing through the stage: its bits, the status so far, and poison. -/
structure PostVal where
  x : Nat
  st : Nat
  poison : Bool
  deriving DecidableEq, Repr, Inhabited

/-- Scale and bias (14 R301). -/
def scaleBias (s : State) (slot : Nat) (p : Post) (j : Nat) (v : PostVal) : PostVal :=
  if p.sbe then
    let sc := localWord s slot (recWord p.w 3 + 4 * j)
    let bi := localWord s slot (recWord p.w 3 + 512 + 4 * j)
    let r := fp32.fma 0 v.x sc.1 bi.1
    ⟨r.1, v.st ||| statFlags r.2, v.poison || sc.2 || bi.2⟩
  else v

/-- The segment of the piecewise-linear table (14 R302): the greatest entry whose breakpoint is at most x, and the status
bits of the compares. -/
def segment (s : State) (slot tab x : Nat) : Nat × Nat :=
  (List.range 15).foldl (fun a k =>
    let r := fp32.compare 5 x (localWord s slot (tab + 16 * (k + 1))).1
    (if r.1 then k + 1 else a.1, a.2 ||| statFlags r.2)) (0, 0)

/-- The activation (14 R301). -/
def activation (s : State) (slot : Nat) (p : Post) (v : PostVal) : PostVal :=
  if (fp32.value v.x).isNan then v
  else
    match p.act with
    | 0 => v
    | 1 => if 2 ^ 31 ≤ v.x then { v with x := 0 } else v
    | 2 =>
      let a := fp32.minMax true v.x (recWord p.w 4)
      let b := fp32.minMax false a.1 (recWord p.w 5)
      ⟨b.1, v.st ||| statFlags a.2 ||| statFlags b.2, v.poison⟩
    | _ =>
      let tab := recWord p.w 4
      let g := segment s slot tab v.x
      let m := localWord s slot (tab + 16 * g.1 + 4)
      let c := localWord s slot (tab + 16 * g.1 + 8)
      let r := fp32.fma 0 m.1 v.x c.1
      ⟨r.1, v.st ||| g.2 ||| statFlags r.2,
        v.poison || m.2 || c.2 || (List.range 15).any (fun k => (localWord s slot (tab + 16 * (k + 1))).2)⟩

/-- The value of element (i, j) before its conversion (14 R301): a NaN is canonical. -/
def stageValue (s : State) (slot n : Nat) (p : Post) (i j : Nat) : PostVal :=
  let c := crewAt s slot
  let v := activation s slot p (scaleBias s slot p j
    ⟨accElem c n i j, 0, c.spacePoison.contains (accSector c n i j)⟩)
  if (fp32.value v.x).isNan then { v with x := 0x7FC00000 } else v

/-- Whether a conversion saturates (14 R301). -/
def saturates (ofmt : Nat) (sat : Bool) (x : Nat) (f : FpFlags) : Bool :=
  let v := fp32.value x
  !v.isNan && (match fmtClass ofmt with
    | .int _ _ => f.nv
    | .float _ _ => sat && (f.of || isSpecial v)
    | .norm signed =>
      isSpecial v || compareVal v (.fin false 1 0) == .gt ||
        compareVal v (if signed then .fin true 1 0 else .fin false 0 0) == .lt
    | _ => false)

/-- The conversion to OFMT (14 R301). -/
def convertOut (p : Post) (v : PostVal) : PostVal :=
  let r := convertElem 0x08 p.ofmt 0 p.satf v.x
  ⟨r.1, v.st ||| statFlags r.2 ||| (if saturates p.ofmt p.satf v.x r.2 then statSat else 0), v.poison⟩

/-- The job's accumulator. -/
def jobAcc (jb : Job) : Nat :=
  match jb.kind with
  | .mma => bits (recWord jb.j 0) 18 16
  | .mmas => bits (recWord jb.j 0) 18 16
  | _ => bits (recWord jb.j 0) 10 8

/-! ## Rows (14 R303) -/

/-- The bytes of packed elements, each with the poison of the elements that it holds parts of. -/
def packRow (e : Nat) (vs : List PostVal) : List (Byte × Bool) :=
  let x := packBits e (vs.map (·.x))
  (List.range (vs.length * e / 8)).map (fun y =>
    (BitVec.ofNat 8 (x / 256 ^ y), (vs.zipIdx).any (fun v =>
      v.1.poison && decide (v.2 * e < 8 * y + 8 ∧ 8 * y < (v.2 + 1) * e))))

/-- What a stage makes: the state, with tile rows written; the bytes for scratchpad; the status bits. -/
structure Staged where
  state : State
  cells : List (Nat × Byte × Bool)
  stat : Nat
  deriving DecidableEq, Repr, Inhabited

/-- One row goes to its destination: a tile row, zero to its end, or scratchpad. -/
def putRow (slot : Nat) (p : Post) (i : Nat) (bs : List (Byte × Bool)) (r : Staged) : Staged :=
  let w := recWord p.w
  if p.dest = 1 then
    { r with state := modCrew slot (fun c =>
        let a := viewAddr c.viewT (w 1 % 8) + (bits (w 1) 9 3 + i) * 512
        poisonSpace ((bs.zipIdx).filterMap (fun e => if e.1.2 then some ((a + e.2) / 16) else none))
          (putSpace a (bs.map (·.1) ++ List.replicate (512 - bs.length) 0) { c with cover := [] })) r.state }
  else
    { r with cells := r.cells ++ (bs.zipIdx).map (fun e => (rotated (w 1) (descPitch (w 2)) (descRot (w 2)) i e.2, e.1)) }

/-- The runs of a row quantised to MX blocks (14 R301, 04 R80): elements and scale bytes. -/
def mxRow (p : Post) (vs : List PostVal) : List PostVal × List PostVal :=
  let bs := (runsOf 32 8 vs).map (fun r =>
    let q := mxQuantise p.ofmt (r.map (fun v => fp32.value v.x))
    let poison := r.any (·.poison)
    let st := r.foldl (fun a v => a ||| v.st) (if q.2.2 then statSat else 0)
    (q.2.1.map (fun x => (⟨x, st, poison⟩ : PostVal)), (⟨q.1, st, poison⟩ : PostVal)))
  (bs.flatMap (·.1), bs.map (·.2))

/-- One row of the plain stage, with its MX scales: its values are those of the accumulator as the job left it, in state `s`. -/
def plainRow (s : State) (slot n : Nat) (p : Post) (i : Nat) (q : Staged × List (Nat × Byte × Bool)) :
    Staged × List (Nat × Byte × Bool) :=
  let vs := (List.range p.cols).map (stageValue s slot n p i)
  let stat := fun (l : List PostVal) => l.foldl (fun a v => a ||| v.st) q.1.stat
  if isMx p.ofmt then
    let r := mxRow p vs
    (putRow slot p i (packRow (fmtWidth p.ofmt) r.1) { q.1 with stat := stat r.1 },
      q.2 ++ cellsAt (recWord p.w 6 + i * (p.cols / 32)) (r.2.map (fun v => (BitVec.ofNat 8 v.x, v.poison))))
  else
    let r := vs.map (convertOut p)
    (putRow slot p i (packRow (fmtWidth p.ofmt) r) { q.1 with stat := stat r }, q.2)

/-- The plain stage, row by row; the scales of all rows after them. -/
def plainRows (slot n : Nat) (p : Post) (is : List Nat) (s : State) : Staged :=
  let q := is.foldl (fun q i => plainRow s slot n p i q) (⟨s, [], 0⟩, [])
  { q.1 with cells := q.1.cells ++ q.2 }

/-! ## Drawing (15 R319, R320) -/

/-- RESOLVE: per pixel the greatest visible row, or 0xFF. -/
def resolveRow (slot n : Nat) (p : Post) (s : State) : Staged :=
  let c := crewAt s slot
  putRow slot p 0 ((List.range 128).map (fun j =>
    let top := (List.range 128).foldl (fun a i => if accElem c n i j = 0x3F800000 then i else a) 255
    (BitVec.ofNat 8 top, (List.range 128).any (fun i => c.spacePoison.contains (accSector c n i j))))) ⟨s, [], 0⟩

/-- Where element (i, j) of a blend stands in scratchpad. -/
def blendPlace (p : Post) (i j : Nat) : Nat :=
  let w := recWord p.w
  let eb := fmtWidth p.ofmt / 8
  if p.planar then rotated (w 1) (descPitch (w 2)) (descRot (w 2)) j (i * eb)
  else rotated (w 1) (descPitch (w 2)) (descRot (w 2)) i (j * eb)

/-- A finite value times an integer, in units of 2^−sh. -/
def timesInt (k : Int) (sh : Int) (v : FpVal) : FpVal :=
  match v with
  | .fin n m e => .fin (n ^^ decide (k < 0)) (m * k.natAbs) (e - sh)
  | v => v

/-- The exact value of a destination element (15 R320) as a finite value over a divisor: 255 or 127 for the normalised
formats. -/
def destValue (ofmt x : Nat) : FpVal × Nat :=
  match fmtClass ofmt with
  | .norm signed => (finOfInt (if signed then max (toSigned 8 x) (-127) else (x : Int)), if signed then 127 else 255)
  | c => (srcValue c x, 1)

/-- A sum of a source term and a destination term over a divisor, rounded once to FP32. A term that is left out is
none. -/
def mixTerms (a d : Option FpVal) (k : Nat) : Nat × FpFlags :=
  match a, d with
  | some a, some d =>
    if k = 1 ∨ isSpecial a || isSpecial d then fp32.addVal 0 a d
    else
      let t := exactTotal [timesInt k 0 a, d]
      if t.1 = 0 then (if isMinusZero a && isMinusZero d then 0x80000000 else 0, .none)
      else
        let n := t.1.natAbs * 2 ^ 100
        fp32.round 0 false (decide (t.1 < 0)) (n / k) (t.2 - 100) (decide (n % k ≠ 0))
  | some a, none => fp32.deliver 0 false a
  | none, some d =>
    if k = 1 ∨ isSpecial d then fp32.deliver 0 false d
    else
      let t := exactTotal [d]
      if t.1 = 0 then (if isMinusZero d then 0x80000000 else 0, .none)
      else
        let n := t.1.natAbs * 2 ^ 100
        fp32.round 0 false (decide (t.1 < 0)) (n / k) (t.2 - 100) (decide (n % k ≠ 0))
  | none, none => (0, .none)

/-- The blend of a source value with a destination element (15 R320). -/
def blendValue (p : Post) (x d : Nat) : Nat × FpFlags :=
  let xv := fp32.value x
  let dv := destValue p.ofmt d
  if p.draw = 2 then
    let al := bits (recWord p.w 6) 24 16
    mixTerms (if al = 0 then none else some (timesInt al 8 xv)) (if al = 256 then none else some (timesInt (256 - al) 8 dv.1)) dv.2
  else mixTerms (some xv) (some dv.1) dv.2

/-- One element of BLEND or ADD: the bytes that are to be written back, and the status bits (15 R320). What an element that is not
visible meets on its way there counts too. -/
def blendElem (slot n : Nat) (p : Post) (i j : Nat) (s : State) : List (Nat × Byte × Bool) × Nat :=
  let c := crewAt s slot
  let w6 := recWord p.w 6
  let vis := accElem c (w6 % 8) (bits w6 9 3) i
  let visPoison := c.spacePoison.contains (accSector c (w6 % 8) (bits w6 9 3) i)
  let v := stageValue s slot n p i j
  if p.visible && (vis == 0 || vis == 0x80000000) then ([], v.st)
  else
    let eb := fmtWidth p.ofmt / 8
    let ds := (List.range eb).map (fun y => localByte s slot (blendPlace p i j + y))
    let r := blendValue p v.x (ds.foldr (fun b a => b.1 + 256 * a) 0)
    let x := if (fp32.value r.1).isNan then 0x7FC00000 else r.1
    let o := convertOut p ⟨x, v.st ||| statFlags r.2, v.poison || ds.any (·.2) || (p.visible && visPoison)⟩
    (cellsAt (blendPlace p i j) ((bytesOf eb o.x).map (fun b => (b, o.poison))), o.st)

/-- The elements of a blend, along the rows in which they stand in scratchpad. -/
def blendOrder (p : Post) : List (Nat × Nat) :=
  if p.planar then (List.range p.cols).flatMap (fun j => (List.range p.rows).map (fun i => (i, j)))
  else (List.range p.rows).flatMap (fun i => (List.range p.cols).map (fun j => (i, j)))

/-- BLEND and ADD: every destination sector is read; the write-backs are events of their own (15 R321). -/
def blendAll (slot n : Nat) (p : Post) (s : State) : Staged :=
  let rs := (blendOrder p).map (fun e => blendElem slot n p e.1 e.2 s)
  ⟨s, rs.flatMap (·.1), rs.foldl (fun a r => a ||| r.2) 0⟩

/-! ## The stage -/

/-- Bytes that a job's arrival counts (14 R303). -/
def Post.arrival (p : Post) : Nat :=
  p.rows * (p.cols * fmtWidth p.ofmt / 8) + (if isMx p.ofmt then p.rows * p.cols / 32 else 0)

/-- The stage of a job: what it reads, computes and writes to tiles, and what it is to write to scratchpad. -/
def runStage (slot : Nat) (jb : Job) (s : State) : Staged :=
  let p := postOf jb.p
  if p.dest = 0 then ⟨s, [], 0⟩
  else if p.draw = 0 then plainRows slot (jobAcc jb) p (List.range p.rows) s
  else if p.draw = 1 then resolveRow slot (jobAcc jb) p s
  else blendAll slot (jobAcc jb) p s

/-- The arrival at the sync word of P7, after every write. -/
def stageArrival (slot : Nat) (jb : Job) (s : State) : State :=
  let p := postOf jb.p
  if p.dest != 0 && p.sye then
    (match scratchRef s slot (jb.p.getD 7 0) with
      | .inr r => arrive r.cl r.off p.arrival s
      | .inl _ => s)
  else s

/-- Zeros into the 64 KiB of a register (14 R305). -/
def zeroReg (slot : Nat) (tile : Bool) (n : Nat) (s : State) : State :=
  modCrew slot (fun c =>
    let w := (if tile then viewAddr c.viewT n else viewAddr c.viewA n) / 4
    putWords w (List.replicate 16384 0) { c with cover := [] }) s

/-- Whether the job at the head of a crew's queue has nothing left but its end: its steps are made, or it is an MZERO. -/
def postWaits (c : Crew) : Bool :=
  match headJob c with
  | some jb => jb.post || (match jb.kind with
    | .mzero _ _ => true
    | _ => false)
  | none => false

/-- What a job is about to write to scratchpad is written. After the last of it come its arrival and its end. -/
def writeJob (slot : Nat) (s : State) : State :=
  match headJob (crewAt s slot) with
  | none => s
  | some jb =>
    let s := putLocal slot jb.writes (modHead slot (fun x => { x with writes := [] }) s)
    if jb.staged then endJob slot (stageArrival slot jb s) else s

/-- The post-operator begins: its stage is run, and the conditions that it meets are noted. -/
def stageJob (slot : Nat) (jb : Job) (s : State) : State :=
  let r := runStage slot jb s
  modHead slot (fun x =>
    { x with status := x.status ||| BitVec.ofNat 32 r.stat, writes := r.cells, staged := true }) r.state

/-- The next part of the end of the job at the head of a crew's queue (15 R317, R321): what waits to be written is written; or the
post-operator begins, and what does not go to scratchpad is complete at once. -/
def finishJob (slot : Nat) (s : State) : State :=
  match headJob (crewAt s slot) with
  | none => s
  | some jb =>
    match jb.kind with
    | .mzero t n => endJob slot (zeroReg slot t n s)
    | _ =>
      if !jb.writes.isEmpty then writeJob slot s
      else
        let s := stageJob slot jb s
        match headJob (crewAt s slot) with
        | some x => if x.writes.isEmpty then writeJob slot s else s
        | none => s

/-- A job that has something to write to scratchpad completes it (14 R307). -/
def settleJob (slot : Nat) (s : State) : State :=
  match headJob (crewAt s slot) with
  | some jb => if jb.writes.isEmpty && !jb.staged then s else writeJob slot s
  | none => s

/-- POST_OPERATOR (14 R287, R300 to R303, R305). The job at the head of a crew's queue, its steps done, goes on to its end. -/
def execPostOperator (crew : Nat) (s : State) : Host.Outcome State Fault Refusal :=
  .next (if ctxSteps s (crewAt s crew).ctx && postWaits (crewAt s crew) then finishJob crew s else s)

end Sys2Proof.Machine
end

