-- ==== Sys2Proof/Machine/Recruit.lean ====
section
/-!
DEFINITION. Recruitment (07): RECRUIT, HNEXT, HRELEASE, HSTAT, the lanes and pool that helpers hold, and the steps that
suspend and resume a helper.
-/
namespace Sys2Proof.Machine

/-! ## Lanes and pool (07 R148, R149) -/

/-- The crews of a partition, by slot. -/
def partitionCrews (s : State) (slot : Nat) : List (Nat × Crew) := s.crews.filter (fun e => e.1 / 48 == slot / 48)

/-- Whether the thread that a crew has on a lane leaves it to others: it was never launched, has exited, or waits at a join or
at BAR that is not complete. -/
def leavesLane (s : State) (slot lane : Nat) : Bool :=
  match threadAt (crewAt s slot) lane with
  | none => true
  | some t => (match t.run with
    | .exited => true
    | .waiting (.join _ _) => !meetingMet s slot lane
    | .waiting (.bar _ _) => !meetingMet s slot lane
    | _ => false)

/-- Whether no thread pinned to a lane of a half could use it, but for one of the crew in slot `but`. -/
def laneIdle (s : State) (slot half lane but : Nat) : Bool :=
  (laneHolders s slot half lane).isEmpty &&
    (partitionCrews s slot).all (fun e => e.2.half != half || e.1 == but || leavesLane s e.1 lane)

/-- Whether a lane of a half is available to the recruiter `k` of the crew in `slot` (07 R148). -/
def laneAvailable (s : State) (slot k half lane : Nat) : Bool :=
  halfUsable s (clusterOf slot) (partitionOf slot) half &&
    !(decide (half = (crewAt s slot).half) && decide (lane = k)) && laneIdle s slot half lane (2 ^ 20)

/-- The available lanes, as half × 32 + lane. -/
def availableLanes (s : State) (slot k : Nat) : List Nat :=
  (List.range 64).filter (fun x => laneAvailable s slot k (x / 32) (x % 32))

/-- Pool bytes in use in a partition. -/
def poolUsed (s : State) (slot : Nat) : Nat :=
  ((partitionCrews s slot).flatMap (fun e =>
    e.2.recruits.map (fun r => if r.2.granted = 0 then 0 else 256 + 128 * r.2.granted))).sum

/-- Helpers that the free pool bytes admit. -/
def poolRoom (s : State) (slot : Nat) : Nat := (65536 - 256 - poolUsed s slot) / 128

/-! ## RECRUIT (07 R146, R147, R150, R151) -/

/-- Helpers granted to a request. -/
def grantCount (s : State) (slot k req cnt : Nat) : Nat :=
  if (crewAt s slot).crewctl.getLsbD 2 then 0
  else min (min req cnt) (min (availableLanes s slot k).length (poolRoom s slot))

/-- The vector registers that a snapshot takes (07 R151). -/
def snapCount (c : Crew) : Nat := min 32 (vcount c)

/-- Whether the snapshot would read a register too early (01 R24, 07 R151). -/
def snapshotUnderruns (s : State) (slot k : Nat) : Bool :=
  let c := crewAt s slot
  let pls := (List.range (snapCount c)).map (place k) ++ (List.range 32).map (fun n => place k (96 + n))
  pls.any (readsEarly c s.clock k)

/-- Whether the snapshot would read a poisoned register (03 R63). -/
def snapshotPoisoned (c : Crew) (k : Nat) : Bool :=
  (List.range (snapCount c)).any (poisonedReg c k) || !c.sregPoison.isEmpty

/-- A helper as it starts (07 R150), in a group with the others of its recruitment, but alone in a halted context (07 R164). -/
def newHelper (s : State) (c : Crew) (entry k w lane : Nat) : Thread :=
  { pc := entry, run := .running, preds := 0, draws := 0, iter := none, latch := none, clause := none,
    group := c.nextGroup + (if (tgetD s.contexts c.ctx default).halted then w else 0), ready := s.clock + 1, stale := [], farAt := none,
    helper := some { recruiter := k, worker := w, priv := [], held := some lane, due := none, suspended := false,
                     crewctl := c.crewctl } }

/-- Opens a recruitment for thread `k` (07 R144). -/
def openRecruit (slot k entry cnt g : Nat) (s : State) : State :=
  let c := crewAt s slot
  let lanes := (availableLanes s slot k).take g
  let snapV := if g = 0 then [] else (List.range 32).map (fun n => if n < vcount c then readReg s slot k n else 0)
  let snapS := if g = 0 then [] else (List.range 32).map (fun n => readReg s slot k (96 + n))
  modCrew slot (fun c =>
    { c with
      nextGroup := c.nextGroup + g + 1
      recruits := tset c.recruits k
        { count := cnt, next := 0, granted := g, handed := 0, forced := false, hfault := false, snapV := snapV, snapS := snapS }
      threads := (lanes.zipIdx).foldl (fun ts e =>
        tset ts (tkey (.helper k (e.2 + 1))) (newHelper s c entry k (e.2 + 1) e.1)) c.threads }) s

/-- One thread's RECRUIT: the grant word, or, where the snapshot reads as a source operand may not, 0x03 in assay mode or 0x0B
(07 R151). -/
def recruitOne (d : Sel) (entry : Nat) (req cnt : Nat → Nat) (lat : Nat) (g : Group) (k : Nat) (s : State) :
    Option Trap × State :=
  let c := crewAt s g.slot
  if (tget c.recruits k).isSome then (none, writeRegLat g.slot k d.toNat lat 0x80000000 s)
  else
    let n := grantCount s g.slot k (min (req k) 31) (cnt k)
    if 0 < n ∧ assayOn c k ∧ snapshotUnderruns s g.slot k then (some (trapC 0x03), s)
    else if 0 < n ∧ snapshotPoisoned c k then (some (trapC 0x0B), s)
    else (none, writeRegLat g.slot k d.toNat lat (BitVec.ofNat 32 n) (openRecruit g.slot k entry (cnt k) n s))

/-- RECRUIT (07 R145, R146). Opens a recruitment for each thread; D ← the grant word. -/
def execRecruit (d a b : Sel) (k : Bool) (st : BitVec 3) (lit : Word) (s : State) :
    Host.Outcome State Fault Refusal :=
  let i : Instr := .recruit d a b k st lit
  issue i (fun g s =>
    let entry := (BitVec.ofNat 64 g.pc + lit.signExtend 64 * 4).toNat
    let req := fun t => (readReg s g.slot t a.toNat).toNat
    let cnt := fun t => (operandB (reader s g t) k b).toNat
    let r := eachThread (recruitOne d entry req cnt i.latency g) g.keys s
    proceed (advance i) (settle g r.1 r.2)) s

/-! ## HNEXT (07 R154 to R156) -/

/-- A helper ends: its accesses are fenced, its lane returns, its private state is discarded (07 R156). -/
def endHelper (slot k : Nat) (s : State) : State :=
  modCrew slot (fun c => forget (· == k) { c with threads := tdel c.threads k }) (fenceThreads slot [k] s)

/-- The key of the recruiter that a thread serves, and whether it is a helper. -/
def servedBy (c : Crew) (k : Nat) : Nat × Bool :=
  match (threadAt c k).bind (·.helper) with
  | some h => (h.recruiter, true)
  | none => (k, false)

/-- Whether a helper's release is due (07 R160). -/
def releaseDue (c : Crew) (k : Nat) : Bool :=
  match (threadAt c k).bind (·.helper) with
  | some h => h.due.isSome
  | none => false

/-- One thread's HNEXT. -/
def hnextOne (d : Sel) (p : PSel) (n : Bool) (lat : Nat) (g : Group) (s : State) (k : Nat) : State :=
  let c := crewAt s g.slot
  let w := servedBy c k
  let stop := fun s => modThread g.slot k (fun t => { t with iter := none }) s
  match tget c.recruits w.1 with
  | none => writePredLat g.slot k p.toNat lat n (stop s)
  | some r =>
    if w.2 && releaseDue c k then endHelper g.slot k s
    else if r.next < r.count then
      modCrew g.slot (fun c =>
        { c with
          recruits := tset c.recruits w.1 { r with next := r.next + 1, handed := r.handed + w.2.toNat }
          threads := tmod c.threads k (fun t => { t with iter := some (BitVec.ofNat 32 r.next, 0) }) })
        (writePredLat g.slot k p.toNat lat (!n) (writeRegLat g.slot k d.toNat lat (BitVec.ofNat 32 r.next) s))
    else if w.2 then endHelper g.slot k s
    else writePredLat g.slot k p.toNat lat n (stop s)

/-- HNEXT (07 R154). Hands each thread the next index, or ends it when it is a helper. -/
def execHnext (d : Sel) (p : BitVec 3) (n : Bool) (s : State) : Host.Outcome State Fault Refusal :=
  let i : Instr := .hnext d p n
  issue i (fun g s => advance i g (g.keys.foldl (hnextOne d p n i.latency g) s)) s

/-! ## HRELEASE and HSTAT (07 R157, R159) -/

/-- The status word of a recruitment (07 R157). -/
def recruitStatus (r : Recruit) : Nat :=
  r.forced.toNat * 2 ^ 25 + r.hfault.toNat * 2 ^ 24 + r.granted * 2 ^ 16 + min r.handed 0xFFFF

/-- Helpers of a recruitment that have not ended. -/
def runningHelpers (c : Crew) (k : Nat) : Nat :=
  (c.threads.filter (fun e => match e.2.helper with
    | some h => h.recruiter == k
    | none => false)).length

/-- HRELEASE (07 R157). Waits until every helper of every thread's recruitment has ended; D ← the status; closes. -/
def execHrelease (d : Sel) (s : State) : Host.Outcome State Fault Refusal :=
  let i : Instr := .hrelease d
  issue i (fun g s =>
    if g.keys.any (hasHelpers (crewAt s g.slot)) then wait .release g s
    else
      advance i g (g.keys.foldl (fun s k =>
        match tget (crewAt s g.slot).recruits k with
        | none => writeRegLat g.slot k d.toNat i.latency 0 s
        | some r =>
          modCrew g.slot (fun c =>
            { c with recruits := tdel c.recruits k,
                     threads := tmod c.threads k (fun t => { t with iter := none }) })
            (writeRegLat g.slot k d.toNat i.latency (BitVec.ofNat 32 (recruitStatus r)) s)) s)) s

/-- What HSTAT writes for thread `k` (07 R159). -/
def hstatValue (f : Nat) (c : Crew) (k : Nat) : Word :=
  let w := servedBy c k
  match tget c.recruits w.1 with
  | none => 0
  | some r => BitVec.ofNat 32 (match f with
    | 0 => 2 ^ 31 + runningHelpers c w.1 * 2 ^ 26 + recruitStatus r
    | 1 => r.next
    | _ => r.count)

/-- HSTAT, HSTAT.NEXT and HSTAT.COUNT. -/
def hstatOp (i : Instr) (d : Sel) (f : Nat) (s : State) : Host.Outcome State Fault Refusal :=
  issue i (fun g s => advance i g (writeResult i d (fun k => [hstatValue f (crewAt s g.slot) k]) g s)) s

/-- HSTAT (07 R159). D ← the status as it stands, with OPEN and RUNNING. -/
def execHstat (d : Sel) (s : State) : Host.Outcome State Fault Refusal := hstatOp (.hstat d) d 0 s

/-- HSTAT.NEXT (07 R159). D ← the next index. -/
def execHstatNext (d : Sel) (s : State) : Host.Outcome State Fault Refusal := hstatOp (.hstatNext d) d 1 s

/-- HSTAT.COUNT (07 R159). D ← the iteration count. -/
def execHstatCount (d : Sel) (s : State) : Host.Outcome State Fault Refusal := hstatOp (.hstatCount d) d 2 s

/-! ## Giving lanes back (07 R160) -/

/-- The release budget of a helper in clocks (05 R121, R122). -/
def releaseBudget (h : Helper) : Nat := bits h.crewctl.toNat 19 8 * 16

/-- Whether a thread stands at HNEXT. -/
def atHnext (t : Thread) : Bool :=
  match instrAt t with
  | some (.hnext _ _ _) => (liveClause t).isSome
  | _ => false

/-- Whether thread `k` has a counted operation that has not completed. -/
def hasOpenOps (c : Crew) (k : Nat) : Bool := c.ops.any (fun o => !o.done && o.members.contains k)

/-- Whether a helper is to be suspended: its release fell due a budget ago, it has not reached HNEXT, its counted operations are
complete, and its context is not halted. -/
def suspendable (s : State) (slot k : Nat) : Bool :=
  let c := crewAt s slot
  match threadAt c k with
  | some t => (match t.helper.bind (fun h => h.due.map (fun at_ => (h, at_))) with
    | some (h, at_) =>
      decide (at_ + releaseBudget h ≤ s.clock) && !atHnext t && !hasOpenOps c k && h.held.isSome &&
        !(tgetD s.contexts c.ctx default).halted
    | none => false)
  | none => false

/-- Suspends a helper: it keeps its state and gives up its lane; FORCED is set. -/
def suspendHelper (slot k : Nat) (s : State) : State :=
  modCrew slot (fun c =>
    { c with
      threads := tmod c.threads k (fun t =>
        { t with group := c.nextGroup,
                 helper := t.helper.map (fun h => { h with held := none, due := none, suspended := true }) })
      nextGroup := c.nextGroup + 1
      recruits := match (threadAt c k).bind (·.helper) with
        | some h => tmod c.recruits h.recruiter (fun r => { r with forced := true })
        | none => c.recruits }) s

/-- Whether a recruiter waits for its helpers, so that its own lane serves them (07 R160). -/
def waitsRelease (c : Crew) (k : Nat) : Bool :=
  match threadAt c k with
  | some t => decide (t.run = .waiting .release)
  | none => false

/-- The suspended helpers of a recruiter that are not parked, by key, ascending worker. -/
def suspendedOf (c : Crew) (k : Nat) : List Nat :=
  (c.threads.filter (fun e => match e.2.helper with
    | some h => h.recruiter == k && h.suspended && (match e.2.run with
      | .parked _ => false
      | _ => true)
    | none => false)).map (·.1)

/-- The lane that a suspended helper can resume on: an available lane, else the recruiter's own while it waits. -/
def resumeLane (s : State) (slot k r : Nat) : Option Nat :=
  let c := crewAt s slot
  match availableLanes s slot r with
  | l :: _ => some l
  | [] =>
    if waitsRelease c r && laneIdle s slot c.half r slot && (suspendedOf c r).head? == some k then
      some (c.half * 32 + r)
    else none

/-- Resumes a suspended helper on a lane. -/
def resumeHelper (slot k : Nat) (s : State) : State :=
  let c := crewAt s slot
  match (threadAt c k).bind (·.helper) with
  | some h =>
    if (suspendedOf c h.recruiter).contains k then
      match resumeLane s slot k h.recruiter with
      | some l => modThread slot k (fun t =>
          { t with helper := t.helper.map (fun h => { h with held := some l, suspended := false }) }) s
      | none => s
    else s
  | none => s

/-- HELPER_SUSPEND (07 R160). A helper whose release budget has passed is suspended. -/
def execHelperSuspend (crew lane worker : Nat) (s : State) : Host.Outcome State Fault Refusal :=
  .next (if suspendable s crew (tkey (.helper lane worker)) then suspendHelper crew (tkey (.helper lane worker)) s else s)

/-- HELPER_RESUME (07 R160, R162). A suspended helper takes a lane again. -/
def execHelperResume (crew lane worker : Nat) (s : State) : Host.Outcome State Fault Refusal :=
  .next (resumeHelper crew (tkey (.helper lane worker)) s)

end Sys2Proof.Machine
end

