-- ==== Sys2Proof/Machine/Hoist.lean ====
section
/-!
DEFINITION. Task queues (08 R172 to R174), the completion of records (08 R167, R178, R179), discards (08 R181), and the
hoist (08 R175 to R177).
-/
namespace Sys2Proof.Machine

/-! ## Task queues -/

/-- The state with a task queue changed. -/
def modQueue (q : Nat) (f : TaskQueue → TaskQueue) (s : State) : State :=
  { s with queues := tput s.queues q (f (queueAt s q)) TaskQueue.fresh }

/-- Records in the sump. -/
def TaskQueue.spilled (x : TaskQueue) : Nat := (x.t - x.h).toNat

/-- Free places in the on-chip entries and the sump together. -/
def TaskQueue.room (x : TaskQueue) : Nat := 32 + x.size - x.chip.length - x.spilled

/-- The VA of a sump entry. -/
def TaskQueue.entry (x : TaskQueue) (n : Word) : Nat := x.sump + n.toNat % x.size * 64

/-- The asynchronous record of a sump page that cannot be used, or of a record that belongs to no launch (08 R172). -/
def postSump (ctx va : Nat) (s : State) : State := postAsync ctx 0xFFFF 0 0x0D va 0 0 0 s

/-- What became of a push. -/
inductive Pushed where
  | done
  | full
  | page
  deriving DecidableEq, Repr, Inhabited

/-- A push adds 1 to the launch's counter (08 R167). -/
def countUp (launch : Nat) (s : State) : State :=
  { s with launches := tmod s.launches launch (fun l => { l with counter := l.counter + 1 }) }

/-- A sump entry: the record, the launch's identity, zeros (08 R172). -/
def sumpBytes (r : List Word) (launch : Nat) : List Byte :=
  bytesOfWords r ++ bytesOf 8 launch ++ List.replicate 24 0

/-- A push of a record into a queue (08 R173). A sump page that 08 R172 rejects refuses it, with a record. -/
def pushTask (q : Nat) (r : List Word) (launch : Nat) (s : State) : Pushed × State :=
  let x := queueAt s q
  let ctx := x.ctx.getD 0
  if x.spilled = 0 ∧ x.chip.length < 32 then
    (.done, countUp launch (modQueue q (fun x => { x with chip := x.chip ++ [⟨r, launch, none⟩] }) s))
  else if x.size ≤ x.spilled then (.full, s)
  else
    let va := x.entry x.t
    match (if pagesMeet s ctx va 64 (firmPage s) then storeCtx ctx va (sumpBytes r launch) s else none) with
    | some s' => (.done, countUp launch (modQueue q (fun x => { x with t := x.t + 1 }) s'))
    | none => (.page, postSump ctx va s)

/-- The record that a sump entry gives when it moves on chip: of the launch that its identity names, when that is one of
the queue's context that has not completed (08 R172). -/
def taskOf (s : State) (ctx va : Nat) (bs : List Byte) : Task :=
  let id := ofBytes ((bs.drop 32).take 8)
  let known := match tget s.launches id with
    | some l => l.ctx == ctx && !l.done
    | none => false
  ⟨wordsOfBytes (bs.take 32), id, if known then none else some va⟩

/-- The queue without its head; ages start anew, and the hoist's choice of this head is over. -/
def dropHead (q : Nat) (tail : List Task) (s : State) : State :=
  modQueue q (fun x => { x with chip := x.chip.drop 1 ++ tail, age := 0, since := none })
    { s with chosen := s.chosen.filter (fun e => e.2 != q) }

/-- A pop (08 R173), with SUMP_REFILL. One whose refill cannot be read is not made: the queue is held, with a record
(08 R172). An entry that reads as poisoned counts as one that cannot be read: the rule speaks of its page alone (log entry 64).
Answers whether it was made. -/
def popTask (q : Nat) (s : State) : Bool × State :=
  let x := queueAt s q
  let ctx := x.ctx.getD 0
  if x.chip.isEmpty then (false, s)
  else if x.spilled = 0 then (true, dropHead q [] s)
  else
    let va := x.entry x.h
    let data := if pagesMeet s ctx va 64 (firmPage s) && !(ctxPoisoned s ctx va 64) then loadCtx s ctx va 64 else none
    match data with
    | some bs =>
      (true, modQueue q (fun x => { x with h := x.h + 1 }) (dropHead q [taskOf s ctx va bs] (afterRead ctx va 64 s)))
    | none => (false, postSump ctx va (modQueue q (fun x => { x with held := true, stuck := true }) (afterRead ctx va 64 s)))

/-! ## Records -/

/-- CODE of a record. -/
def taskCode (ws : List Word) : Nat := recWord ws 0 + recWord ws 1 * 2 ^ 32

/-- JOIN of a record. -/
def taskJoin (ws : List Word) : Nat := recWord ws 4 + recWord ws 5 * 2 ^ 32

/-- DET. -/
def taskDet (ws : List Word) : Bool := bitAt (recWord ws 6) 17

/-- CONT. -/
def taskCont (ws : List Word) : Bool := bitAt (recWord ws 6) 16

/-- A valid record, apart from DET and JOIN (08 R170). -/
def taskShape (ws : List Word) : Bool :=
  let w6 := recWord ws 6
  let n := taskCrews ws
  let c := taskClusters ws
  bits w6 31 24 == 0 && bits w6 15 14 == 0 && taskCode ws % 4 == 0 && decide (taskCode ws < 2 ^ 52) &&
    decide (c ≤ n) && decide ((n + c - 1) / c ≤ 192) && (taskCoop ws || c == 1)

/-- The address bits of JOIN (08 R170). -/
def joinBits (ws : List Word) : Bool := taskJoin ws % 64 == 0 && decide (taskJoin ws < 2 ^ 52)

/-- A valid seed record or continuation of a launch (08 R170). -/
def taskValid (ws : List Word) (det : Bool) : Bool := taskShape ws && joinBits ws && taskDet ws == det

/-! ## Completion (08 R178, R179) -/

/-- The leaf of a join block's page, while the page is as 08 R179 asks. A block any of whose bytes is poisoned, or comes back so, counts
as one that is not: the model's choice (log entry 51). -/
def joinLeaf (s : State) (ctx va : Nat) : Option Leaf :=
  if va % 64 ≠ 0 ∨ inRegion va then none
  else match leafAt s ctx va with
    | some l => if firmPage s va l && !(ctxPoisoned s ctx va 64) then some l else none
    | none => none

/-- The asynchronous record of a join block (08 R178, R179; log entry 22). -/
def postJoin (ctx join : Nat) (s : State) : State := postAsync ctx 0xFFFF 0 0x0D join 0 0 0 s

/-- CONTINUATION_PUSH (08 R178, step 2). -/
def pushContinuation (ctx join launch : Nat) (l : Leaf) (s : State) : State :=
  let ws := wordsOfBytes (seenBytes s l (l.target join) 64)
  let q := recWord ws 1 % 64
  if (queueAt s q).ctx ≠ some ctx then postJoin ctx join s
  else
    match pushTask q (ws.drop 8) launch s with
    | (.done, s') => s'
    | (_, s') => postJoin ctx join s'

/-- Steps 1 and 2 of 08 R178. -/
def countJoin (ctx join launch : Nat) (cont : Bool) (s : State) : State :=
  match joinLeaf s ctx join with
  | none => postJoin ctx join (afterRead ctx join 64 s)
  | some l =>
    let n := (seenWord s l (l.target join)).toNat
    if n = 0 then postJoin ctx join s
    else
      let s := leafStore (l.target join) (bytesOf 4 (n - 1)) (openLeaf l (l.target join) 4 (cacheLeaf ctx join l s))
      if n = 1 && cont && !(launchCancelled s (tgetD s.launches launch default)) then
        pushContinuation ctx join launch l s
      else s

/-- The completion of a record of a launch (08 R178). -/
def completeTask (ws : List Word) (launch : Nat) (s : State) : State :=
  let ctx := (tgetD s.launches launch default).ctx
  countDown launch (if taskJoin ws = 0 then s else countJoin ctx (taskJoin ws) launch (taskCont ws) s)

/-! ## Discards (08 R181, R172) -/

/-- Whether the record at a queue's head is to be discarded. -/
def discards (s : State) (x : TaskQueue) : Bool :=
  !x.stuck && (match x.chip with
    | t :: _ => t.foreign.isSome || launchCancelled s (tgetD s.launches t.launch default)
    | [] => false)

/-- QUEUE_HEAD_DISCARD: the head is popped; a record of a cancelled launch completes without running, one that belongs
to no launch is reported. -/
def discardHead (q : Nat) (s : State) : State :=
  match (queueAt s q).chip with
  | [] => s
  | t :: _ =>
    match popTask q s with
    | (false, s') => s'
    | (true, s') => (match t.foreign with
      | some va => postSump ((queueAt s q).ctx.getD 0) va s'
      | none => completeTask t.words t.launch s')

/-- Discards at the head of a queue, one after another. -/
def settleQueue (q : Nat) : Nat → State → State
  | 0, s => s
  | n + 1, s => if discards s (queueAt s q) then settleQueue q n (discardHead q s) else s

/-- Discards at the heads of all queues. -/
def settleQueues (s : State) : State :=
  s.queues.foldl (fun s e => settleQueue e.1 (e.2.chip.length + e.2.spilled + 1) s) s

/-! ## The choice (08 R175) -/

/-- Whether a queue is eligible. -/
def eligible (s : State) (x : TaskQueue) : Bool :=
  (match x.ctx with
    | some c => ctxResident s c
    | none => false) && !x.chip.isEmpty && !x.held

/-- The age of a queue's head. -/
def headAge (s : State) (x : TaskQueue) : Nat :=
  x.age + (match x.since with
    | some t => s.clock - t
    | none => 0)

/-- Ages count while their queues are eligible. -/
def refreshAges (s : State) : State :=
  { s with queues := s.queues.map (fun e =>
      (e.1,
        if eligible s e.2 then { e.2 with since := some (e.2.since.getD s.clock) }
        else { e.2 with age := headAge s e.2, since := none })) }

/-- The base priority of a queue's head. -/
def headPrio (x : TaskQueue) : Nat :=
  match x.chip with
  | t :: _ => bits (recWord t.words 6) 13 12
  | [] => 0

/-- What the choice compares, greatest first: overdue and its age, or the effective priority. -/
def rank (s : State) (x : TaskQueue) : Nat × Nat :=
  let a := headAge s x
  if 16384 ≤ a then (1, a) else (0, min 3 (headPrio x + a / 1024))

/-- Whether a rank comes before another. -/
def outranks (a b : Nat × Nat) : Bool := decide (b.1 < a.1) || (a.1 == b.1 && decide (b.2 < a.2))

/-- The eligible queue of a die that the hoist chooses; among equals the lower number. -/
def choose (s : State) (die : Nat) : Option Nat :=
  ((s.queues.filter (fun e => e.1 / 32 == die && eligible s e.2)).foldl (fun best e =>
    match best with
    | none => some (e.1, rank s e.2)
    | some b => if outranks (rank s e.2) b.2 then some (e.1, rank s e.2) else some b) none).map (·.1)

/-- The queue whose head the hoist has chosen: the earlier choice while it stands (08 R176, R189). While the chosen head's
context is off the device the hoist chooses among the others, and takes its choice up again when the context comes back: the
rule does not say (log entry 65). -/
def chosenQueue (s : State) (die : Nat) : Option Nat :=
  match tget s.chosen die with
  | some q =>
    let x := queueAt s q
    if (match x.ctx with
      | some c => ctxResident s c
      | none => false) && !x.chip.isEmpty && !x.stuck then some q else choose s die
  | none => choose s die

/-! ## Placement of the chosen head (08 R176, R177) -/

/-- Room of the clusters of a die for a launch's crews. -/
def dieRooms (s : State) (die : Nat) (l : Launch) : List (Nat × Nat) :=
  (dieClusters s die).filterMap (fun cl =>
    if ownerAdmits s cl l.ctx && banksAdmit s cl l then
      some (cl, clusterRoom s cl (nearBytes l.viewV) (farGranules l.viewV l.viewT l.viewA)) else none)

/-- Room of the clusters of a die, were they empty. -/
def dieEmptyRooms (s : State) (die : Nat) (l : Launch) : List (Nat × Nat) :=
  (dieClusters s die).map (fun cl => (cl, emptyRoom s cl (nearBytes l.viewV) (farGranules l.viewV l.viewT l.viewA)))

/-- SEAM_REFUSAL (08 R176, R179): the head is popped and reported, and completes without running. -/
def refuseHead (q : Nat) (t : Task) (s : State) : State :=
  match popTask q s with
  | (false, s') => s'
  | (true, s') =>
    let ctx := (tgetD s.launches t.launch default).ctx
    settleQueues (completeTask t.words t.launch
      (postAsync ctx 0xFFFF (taskCode t.words) 0x0D (taskJoin t.words) 0 0 (t.words.getD 7 0) s'))

/-- The dispatch of a head to its clusters (08 R177): SEAMIX and TICKET are given; a seam placed whole has all its crews
placed, another its first. -/
def dispatchHead (q : Nat) (t : Task) (cls : List Nat) (whole : Bool) (s : State) : State :=
  match popTask q s with
  | (false, s') => s'
  | (true, s) =>
    let l := tgetD s.launches t.launch default
    let id := s.uid
    let m : Seam := { launch := t.launch, words := t.words, seamix := l.seams % 2 ^ 32, ticket := nextTicket s l,
                      clusters := cls, placed := 0, ended := 0, whole := whole }
    placeMany id (if whole then taskCrews t.words else 1)
      { s with uid := id + 1, seams := tset s.seams id m
               launches := tmod s.launches t.launch (fun l =>
                 { l with seams := l.seams + 1, lateDie := if 32 ≤ q then s.clock + 1 else l.lateDie }) }

/-- Whether a die's hoist may dispatch a record of a launch: the context's handler crews, which go first, have been placed (17
R331), and die 1 has not dispatched one on this clock, of which die 0's would be the earlier (08 R177). -/
def mayDispatch (s : State) (die : Nat) (l : Launch) : Bool := ctxReady s l.ctx && !(die == 0 && l.lateDie == s.clock + 1)

/-- What the hoist does with its chosen head: it refuses it, dispatches it, or remembers it until room frees and it may. -/
def placeHead (die q : Nat) (s : State) : State :=
  match (queueAt s q).chip with
  | [] => s
  | t :: _ =>
    let l := tgetD s.launches t.launch default
    let n := taskCrews t.words
    let c := taskClusters t.words
    let whole := taskCoop t.words || nextTicket s l != 0xFFFFFFFF
    if !(taskValid t.words l.det) || (pickClusters (dieEmptyRooms s die l) n c whole).isNone then refuseHead q t s
    else match (if mayDispatch s die l then pickClusters (dieRooms s die l) n c whole else none) with
      | some cls => dispatchHead q t cls whole s
      | none => { s with chosen := tset s.chosen die q }

/-- One turn of a die's hoist. -/
def hoistStep (die : Nat) (s : State) : State :=
  let s := refreshAges (settleQueues s)
  match chosenQueue s die with
  | some q => placeHead die q s
  | none => s

/-- HOIST_DISPATCH (08 R175 to R177). -/
def execHoistDispatch (die : Nat) (s : State) : Host.Outcome State Fault Refusal := .next (hoistStep die s)

/-! ## The end of crews and seams -/

/-- Whether a crew has ended: every launched thread has exited and its engine counters are 0 (03 R73). It does not end while a
ticketed update of it has not been accepted, or an atomic or counted operation of it is in flight: R73 does not name these,
which 08 R180 and 12 R250 have precede the completion (log entry 60). -/
def crewEnded (s : State) (slot : Nat) (c : Crew) : Bool :=
  c.threads.all (fun e => e.2.run == .exited) && c.copies.isEmpty && c.jobs.isEmpty &&
    !(c.ops.any (fun o => !o.done)) && !(s.updates.any (fun u => u.crew == slot)) && !(s.atoms.any (fun a => a.crew == slot))

/-- When a context has no handler crew left, its records go to the host as if escalated: those in the ring and held, those that
the crew took whose threads are still parked, unless it has escalated them itself, and those still to be posted (17 R331). -/
def handToHost (ctx : Nat) (s : State) : State :=
  if hasHandler s ctx then s
  else
    let q := (tgetD s.contexts ctx default).fq
    let mine := q.taken.filter (fun r => isParked s ctx r.seq && !(withHost s ctx r.seq))
    (mine ++ q.ring ++ q.held).foldl (fun s r => deliver ctx r s)
      (modCtx ctx (fun x => { x with fq := { x.fq with
        taken := [], ring := [], held := [], produced := x.fq.produced.map (fun r => { r with toHost := true }) } }) s)

/-- A crew leaves its slot, and is counted toward its seam. -/
def endCrew (slot : Nat) (s : State) : State :=
  let c := crewAt s slot
  let s := { s with crews := tdel s.crews slot }
  match c.role with
  | .seam id _ _ => { s with seams := tmod s.seams id (fun m => { m with ended := m.ended + 1 }) }
  | .handler _ => handToHost c.ctx s

/-- Whether a crew leaves its slot: it has ended, and, in a seam that is placed whole, so has every crew of the seam (05 R102). -/
def crewLeaves (s : State) (slot : Nat) (c : Crew) : Bool :=
  crewEnded s slot c &&
    (match c.role with
      | .seam id _ _ => !(tgetD s.seams id default).whole ||
        (seamCrews s slot).all (fun n => crewEnded s n (crewAt s n))
      | .handler _ => true)

/-- CREW_END (03 R73, 05 R102, 17 R331). -/
def execCrewEnd (crew : Nat) (s : State) : Host.Outcome State Fault Refusal :=
  .next (match tget s.crews crew with
    | some c => if crewLeaves s crew c then endCrew crew s else s
    | none => s)

/-- A seam all of whose crews have completed closes its ticket (12 R250) and completes its record (08 R178). -/
def endSeam (id : Nat) (m : Seam) (s : State) : State :=
  let l := tgetD s.launches m.launch default
  let s := { s with seams := tdel s.seams id }
  let s := match (if m.ticket = 0xFFFFFFFF then none else l.stream.bind (streamNamed s l.ctx)) with
    | some n => closeFully n m.ticket.toNat s
    | none => s
  settleQueues (completeTask m.words m.launch s)

/-- SEAM_COMPLETE (08 R178). -/
def execSeamComplete (seam : Nat) (s : State) : Host.Outcome State Fault Refusal :=
  .next (match tget s.seams seam with
    | some m => if m.ended = m.crewCount then endSeam seam m s else s
    | none => s)

end Sys2Proof.Machine
end

