-- ==== Sys2Proof/Machine/Tasks.lean ====
section
/-!
DEFINITION. The TASK family (08 R184 to R189).
-/
namespace Sys2Proof.Machine

/-- A member of the TASK family that acts once for the group; in a handler crew it takes 0x07 (08 R184). -/
def taskOp (i : Instr) (eff : Group → Launch → Nat → State → State) (s : State) : Host.Outcome State Fault Refusal :=
  issue i (fun g s =>
    match (crewAt s g.slot).role with
    | .handler _ => failAll g (trapC 0x07) s
    | .seam id _ _ =>
      let n := (tgetD s.seams id default).launch
      eff g (tgetD s.launches n default) n s) s

/-- The checks of SPAWN and SPAWNN, in order (08 R186). -/
def spawnTrap (s : State) (ctx : Nat) (a : Sel) (q : Nat) (ws : List Word) (det : Bool) : Option Trap :=
  let j := taskJoin ws
  if a.toNat % 8 ≠ 0 then some (trapC 0x04)
  else if (queueAt s q).ctx ≠ some ctx then some (trapVa 0x07 j)
  else if !(taskShape ws) then some (trapC 0x0D)
  else if taskDet ws != det then some (trapC 0x0E)
  else if j = 0 then none
  else if j % 64 ≠ 0 then some (trapVa 0x05 j)
  else if 2 ^ 52 ≤ j then some (trapVa 0x06 j)
  else if inRegion j then some (trapVa 0x09 j)
  else match leafAt s ctx j with
    | none => some ⟨0x06, j, 0, 0, true⟩
    | some l =>
      if !(normalLeaf s j l) then some (trapVa 0x09 j)
      else if !(firmLeaf l) then some ⟨0x07, j, 0, 0, l.cow⟩
      else none

/-- A record with its argument raised (08 R185). -/
def withArg (ws : List Word) (i : Nat) : List Word := ws.take 7 ++ [ws.getD 7 0 + BitVec.ofNat 32 i]

/-- Consecutive pushes; they end at a sump page that 08 R172 rejects. Answers how many were made. No pop falls between them: the
model's choice, where 09 R192 would let one (log entry 72). -/
def pushMany (q : Nat) (ws : List Word) (launch i : Nat) : Nat → State → Nat × State
  | 0, s => (i, s)
  | n + 1, s =>
    match pushTask q (withArg ws i) launch s with
    | (.done, s') => pushMany q ws launch (i + 1) n s'
    | (_, s') => (i, s')

/-- The queue control register after the instruction. -/
def controlWord (count status q : Nat) : Word := BitVec.ofNat 32 (count * 65536 + status * 256 + q)

/-- What SPAWN and SPAWNN do after their checks (08 R185): the control register and the state. -/
def spawnEffect (many : Bool) (ctl : Nat) (ws : List Word) (l : Launch) (id : Nat) (s : State) : Word × State :=
  let q := bits ctl 5 0
  let cnt := bits ctl 25 16
  let n := if many then cnt else 1
  if launchCancelled s l then (controlWord cnt 1 q, s)
  else if (queueAt s q).room < n ∨ 2 ^ 32 - 1 < l.counter + n then (controlWord cnt 2 q, s)
  else
    let r := pushMany q ws id 0 n s
    if r.1 = n then (controlWord cnt 0 q, r.2) else (controlWord (if many then r.1 else cnt) 2 q, r.2)

/-- SPAWN and SPAWNN. -/
def spawnOp (i : Instr) (many : Bool) (a b : Sel) (s : State) : Host.Outcome State Fault Refusal :=
  taskOp i (fun g l id s =>
    let rd := reader s g g.lead
    let ws := (List.range 8).map (fun j => rd (a.toNat + j))
    let ctl := (rd b.toNat).toNat
    match spawnTrap s l.ctx a (bits ctl 5 0) ws l.det with
    | some t => failAll g t s
    | none =>
      let r := spawnEffect many ctl ws l id s
      settleQueues (advance i g (writeResult i b (fun _ => [r.1]) g { r.2 with pushed := (s.clock, g.slot) }))) s

/-- SPAWN (08 R185). Pushes the record in s[a] to s[a+7]. -/
def execSpawn (a b : Sel) (s : State) : Host.Outcome State Fault Refusal := spawnOp (.spawn a b) false a b s

/-- SPAWNN (08 R185). Pushes COUNT records, their arguments counting up. -/
def execSpawnn (a b : Sel) (s : State) : Host.Outcome State Fault Refusal := spawnOp (.spawnn a b) true a b s

/-- CANCELCHK (08 R187). Bit L is set when the crew's level L is cancelled. -/
def execCancelchk (a : Sel) (s : State) : Host.Outcome State Fault Refusal :=
  taskOp (.cancelchk a) (fun g l id s =>
    let bit := fun n => (levelCancelled s (4 - n) (ownLevel s l id n)).toNat
    let w := (launchCancelled s l).toNat + 2 * bit 1 + 4 * bit 2 + 8 * bit 3
    advance (.cancelchk a) g (writeResult (.cancelchk a) a (fun _ => [BitVec.ofNat 32 w]) g s)) s

/-- The completion counter of a crew's own level (08 R187). -/
def ownCounter (s : State) (l : Launch) (id n : Nat) : Nat :=
  if n = 0 then l.counter else (tgetD s.levels (ownLevel s l id n) default).counter

/-- LVLRD (08 R187). s[a] ← the completion counter of a level. -/
def execLvlrd (a b : Sel) (s : State) : Host.Outcome State Fault Refusal :=
  taskOp (.lvlrd a b) (fun g l id s =>
    advance (.lvlrd a b) g
      (writeResult (.lvlrd a b) a (fun _ => [BitVec.ofNat 32 (ownCounter s l id b.toNat)]) g s)) s

/-- LVLCANCEL (08 R187). Sets the cancel flag of a level; records that it cancels are discarded at their heads. -/
def execLvlcancel (b : Sel) (s : State) : Host.Outcome State Fault Refusal :=
  taskOp (.lvlcancel b) (fun g l id s =>
    settleQueues (advance (.lvlcancel b) g (setCancel b.toNat (ownLevel s l id b.toNat) s))) s

/-- SEEDRD (08 R188). s[a], s[a+1] ← the launch's seed key. -/
def execSeedrd (a : Sel) (s : State) : Host.Outcome State Fault Refusal :=
  taskOp (.seedrd a) (fun g l _ s =>
    advance (.seedrd a) g (writeResult (.seedrd a) a (fun _ => splitWords l.key) g s)) s

/-- QHOLD and QRUN (08 R189): 0x07 for a queue of another context. -/
def holdOp (i : Instr) (b : Sel) (held : Bool) (s : State) : Host.Outcome State Fault Refusal :=
  issue i (fun g s =>
    if (queueAt s b.toNat).ctx ≠ some (crewAt s g.slot).ctx then failAll g (trapC 0x07) s
    else
      settleQueues (advance i g (modQueue b.toNat (fun x =>
        { x with held := held, stuck := held && x.stuck }) (refreshAges s)))) s

/-- QHOLD (08 R189). Sets the queue's held flag. -/
def execQhold (b : Sel) (s : State) : Host.Outcome State Fault Refusal := holdOp (.qhold b) b true s

/-- QRUN (08 R189). Clears the queue's held flag. -/
def execQrun (b : Sel) (s : State) : Host.Outcome State Fault Refusal := holdOp (.qrun b) b false s

end Sys2Proof.Machine
end

