-- ==== Sys2Proof/Machine/System.lean ====
section
/-!
DEFINITION. The SYSTEM family (17 R340 to R346) and SLEEP_EXPIRY.
-/
namespace Sys2Proof.Machine

/-- A member marked system code: 0x07 for a thread of an ordinary crew (17 R332). -/
def systemOp (i : Instr) (body : Group → State → State) (s : State) : Host.Outcome State Fault Refusal :=
  issue i (fun g s => if runsSystem (crewAt s g.slot) then body g s else failAll g (trapC 0x07) s) s

/-! ## TRAP and BKPT (17 R341, R355) -/

/-- TRAP (17 R341). Parks the group with cause 0x12; w7 holds the code. -/
def execTrap (b : Sel) (s : State) : Host.Outcome State Fault Refusal :=
  issue (.trap b) (fun g s => failAll g { trapC 0x12 with aux := BitVec.ofNat 32 b.toNat } s) s

/-- BKPT (17 R341, R355). Parks the group with cause 0x13; w7 holds the code. -/
def execBkpt (b : Sel) (s : State) : Host.Outcome State Fault Refusal :=
  issue (.bkpt b) (fun g s => failAll g { trapC 0x13 with aux := BitVec.ofNat 32 b.toNat } s) s

/-! ## Crew control registers (17 R343) -/

/-- What CREGR returns for a register number. -/
def controlRead (s : State) (slot n : Nat) : List Word :=
  let c := crewAt s slot
  match n with
  | 0 => [c.fpctl]
  | 1 => [c.crewctl]
  | 2 => [c.viewV]
  | 3 => [c.viewT]
  | 4 => [c.viewA]
  | 5 => [c.tstream]
  | 6 => splitWords (clusterAt s (clusterOf slot)).bankMode
  | _ => splitWords c.spill

/-- CREGR (17 R343). s[a], for registers 6 and 7 with s[a+1], ← the crew control register. -/
def execCregr (a b : Sel) (s : State) : Host.Outcome State Fault Refusal :=
  issue (.cregr a b) (fun g s =>
    advance (.cregr a b) g (writeResult (.cregr a b) a (fun _ => controlRead s g.slot b.toNat) g s)) s

/-- Whether a crew's launch has the bank-control permission; a handler crew has none (10 R199). -/
def bankPermission (s : State) (c : Crew) : Bool :=
  match launchOf s c with
  | some l => l.bankPerm
  | none => false

/-- A CREGW of BANKMODE (10 R198 to R200): it waits until its switch has taken place. -/
def writeBankMode (i : Instr) (g : Group) (v : DWord) (s : State) : State :=
  let c := crewAt s g.slot
  let n := clusterOf g.slot
  let cl := clusterAt s n
  if !(bankPermission s c) then failAll g (trapC 0x07) s
  else if !(switches cl v) then advance i g s
  else if ownedByOther cl c.ctx then failAll g (trapC 0x07) s
  else if cl.switches.isEmpty && switchReady s n c.ctx v then switchBanks n c.ctx v (advance i g s)
  else
    wait .bank g (modCluster n (fun cl => { cl with switches := cl.switches ++ [⟨c.ctx, g.slot, g.keys, v⟩] }) s)

/-- CREGW (17 R343). Writes FPCTL, CREWCTL, TSTREAM, BANKMODE or SPILLBASE; fields marked zero and DETERM are ignored. -/
def execCregw (a b : Sel) (s : State) : Host.Outcome State Fault Refusal :=
  let i : Instr := .cregw a b
  issue i (fun g s =>
    let w := reader s g g.lead b.toNat
    let d := pairOf (reader s g g.lead) b
    match a.toNat with
    | 0 => advance i g (modCrew g.slot (fun c => { c with fpctl := w &&& 0x3E3 }) s)
    | 1 => advance i g (modCrew g.slot (fun c => { c with crewctl := (w &&& 0xFFF0D) ||| (c.crewctl &&& 2) }) s)
    | 5 => bindStream i g w s
    | 6 => writeBankMode i g d s
    | _ => advance i g (modCrew g.slot (fun c => { c with spill := d &&& 0xFFFFFFFFFFFC0 }) s)) s

/-! ## YIELD and SLEEP (17 R342) -/

/-- The state of a group's lowest thread. -/
def leadRun (s : State) (g : Group) : RunState :=
  match threadAt (crewAt s g.slot) g.lead with
  | some t => t.run
  | none => .exited

/-- YIELD (17 R342). The group issues nothing further until every other ready group has had its turn; no result depends
on it. -/
def execYield (s : State) : Host.Outcome State Fault Refusal :=
  issue .yield (fun g s =>
    match leadRun s g with
    | .waiting (.yields _) => advance .yield g s
    | _ => wait (.yields (s.clock + 64)) g s) s

/-- Whether a crew's sleep ends by its wake flag. -/
def wakes (c : Crew) : Bool := runsSystem c && c.wake

/-- A group leaves SLEEP; an end by the wake flag clears the flag. -/
def leaveSleep (g : Group) (woken : Bool) (s : State) : State :=
  modGroup g (fun t => { t with pc := nextPc g.pc 1, run := .running, ready := s.clock + 1 })
    (if woken then modCrew g.slot (fun c => { c with wake := false }) s else s)

/-- The clock until which a thread sleeps. -/
def sleepEnd (t : Thread) : Option Nat :=
  match t.run with
  | .waiting (.sleep u _) => some u
  | _ => none

/-- The clock until which a group sleeps: that of its slowest thread (05 R105). -/
def sleepsUntil (s : State) (g : Group) : Option Nat :=
  match (threadAt (crewAt s g.slot) g.lead).bind sleepEnd with
  | some u => some ((g.keys.filterMap (fun k => (threadAt (crewAt s g.slot) k).bind sleepEnd)).foldl max u)
  | none => none

/-- A sleeping group leaves SLEEP at once in a handler crew whose wake flag is set, which clears the flag, or when its clocks have
passed. -/
def trySleep (g : Group) (until_ : Nat) (s : State) : State :=
  if wakes (crewAt s g.slot) then leaveSleep g true s
  else if until_ ≤ crewClock s (crewAt s g.slot) then leaveSleep g false s
  else s

/-- SLEEP (17 R342). Holds the group for s[b] clocks; it counts for 05 R114 when that exceeds 200. -/
def execSleep (b : Sel) (s : State) : Host.Outcome State Fault Refusal :=
  issue (.sleep b) (fun g s =>
    match sleepsUntil s g with
    | some t => trySleep g t s
    | none =>
      let n := (reader s g g.lead b.toNat).toNat
      let at_ := crewClock s (crewAt s g.slot) + n
      trySleep g at_ (wait (.sleep at_ (decide (200 < n))) g s)) s

/-- SLEEP_EXPIRY (17 R342). The group of a sleeping thread leaves SLEEP when it is over. -/
def execSleepExpiry (crew : Nat) (who : Tid) (s : State) : Host.Outcome State Fault Refusal :=
  .next (match groupOf s crew (tkey who) with
    | some g => (match sleepsUntil s g with
      | some t => trySleep g t s
      | none => s)
    | none => s)

/-! ## FQPOP and RESUME (17 R344, R345) -/

/-- The words of the record at the head of the ring: as posted, where the ring still holds them; a word of the ring that
software has stored over is unspecified (17 R337). -/
def poppedWords (s : State) (ctx : Nat) (q : FaultQueue) (r : FaultRec) : List Word :=
  let ws := (loadWords s ctx (ringSlot q (q.count - q.ring.length)) 8).getD []
  (List.range 8).map (fun j =>
    let w := r.words.getD j 0
    if ws[j]? = some w then w else Config.freeWord s.nonce j)

/-- The ring without its oldest record; held records are posted as room frees. -/
def popRing (ctx : Nat) (s : State) : State :=
  let s := modCtx ctx (fun x =>
    { x with fq := { x.fq with ring := x.fq.ring.drop 1, taken := x.fq.taken ++ x.fq.ring.take 1 } }) s
  postHeld ctx (tgetD s.contexts ctx default).fq.held.length s

/-- FQPOP (17 R344). s[a] to s[a+7] ← the oldest record, s[b] ← its number; zeros and all ones when there is none. -/
def execFqpop (a b : Sel) (s : State) : Host.Outcome State Fault Refusal :=
  let i : Instr := .fqpop a b
  systemOp i (fun g s =>
    if a.toNat ≠ 96 ∧ a.toNat ≠ 104 ∧ a.toNat ≠ 112 then failAll g (trapC 0x04) s
    else
      let ctx := (crewAt s g.slot).ctx
      let q := (tgetD s.contexts ctx default).fq
      let put := fun (ws : List Word) (n : Word) (s : State) =>
        advance i g (writeResult i b (fun _ => [n]) g (writeResult i a (fun _ => ws) g s))
      match q.ring with
      | [] => put (List.replicate 8 0) 0xFFFFFFFF s
      | r :: _ =>
        put (poppedWords s ctx q r) (BitVec.ofNat 32 r.seq)
          (popRing ctx (afterRead ctx (ringSlot q (q.count - q.ring.length)) 32 s))) s

/-- The record of a context with a number, wherever it stands. -/
def recordNamed (s : State) (ctx n : Nat) : Option FaultRec :=
  let x := tgetD s.contexts ctx default
  (x.fq.taken ++ x.fq.ring ++ x.fq.held ++ x.fq.produced ++ x.host).find? (fun r => r.seq == n)

/-- A resolved record is forgotten. -/
def forgetRecord (ctx n : Nat) (s : State) : State :=
  modCtx ctx (fun x =>
    { x with host := x.host.filter (fun r => r.seq != n),
             fq := { x.fq with taken := x.fq.taken.filter (fun r => r.seq != n) } }) s

/-- A released thread of a lane joins the group at its address, when there is one (17 R354). `ks`: those released. -/
def joinGroup (ks : List Nat) (c : Crew) (k : Nat) (t : Thread) : Thread :=
  if ks.contains k && decide (k < 32) && t.run == .running then
    match c.threads.find? (fun e => decide (e.1 < 32) && !ks.contains e.1 && e.2.run == .running && e.2.pc == t.pc &&
        (liveClause e.2).map (·.header) == (liveClause t).map (·.header)) with
    | some e => { t with group := e.2.group, clause := sharedClause e.2 t }
    | none => t
  else t

/-- The threads of a crew that record `n` held in it before, in `old`, join the groups at their addresses. -/
def joinCrew (n : Nat) (old c : Crew) : Crew :=
  { c with threads := c.threads.map (fun t => (t.1, joinGroup (parkedWith old n) c t.1 t.2)) }

/-- In a halted context, on the device or saved, the threads that record `n` held join the groups at their addresses; `old` is the
state before their release. -/
def joinResumed (old : State) (ctx n : Nat) (s : State) : State :=
  if (tgetD s.contexts ctx default).halted then
    let was := ((tgetD old.contexts ctx default).saved.map (·.crews)).getD []
    modCtx ctx (fun x => { x with saved := x.saved.map (fun v =>
        { v with crews := v.crews.map (fun e => (e.1, joinCrew n (tgetD was e.1 default) e.2)) }) })
      { s with crews := s.crews.map (fun e => if e.2.ctx = ctx then (e.1, joinCrew n (crewAt old e.1) e.2) else e) }
  else s

/-- An action on a record: 3 delivers it to the host, and the others release its threads (17 R345). -/
def actOn (ctx n act : Nat) (s : State) : State :=
  if act = 3 then (match recordNamed s ctx n with
    | some r => deliver ctx r s
    | none => s)
  else joinResumed s ctx n (forgetRecord ctx n (resumeRecord ctx n act s))

/-- RESUME (17 R345). Applies the action in s[b] to the threads parked with record s[a]; s[b] ← STATUS and ACT. -/
def execResume (a b : Sel) (s : State) : Host.Outcome State Fault Refusal :=
  let i : Instr := .resume a b
  systemOp i (fun g s =>
    let ctx := (crewAt s g.slot).ctx
    let n := (reader s g g.lead a.toNat).toNat
    let act := (reader s g g.lead b.toNat).toNat % 4
    let ok := decide (n < 2 ^ 31) && isParked s ctx n && !(withHost s ctx n)
    advance i g (writeResult i b (fun _ => [BitVec.ofNat 32 ((!ok).toNat * 256 + act)]) g
      (if ok then actOn ctx n act s else s))) s

/-! ## TLBINV (17 R346) -/

/-- Whether a 64 KiB page lies in the range of a TLBINV: `n` pages from page `p`, or every page for 0. -/
def pageCovered (p n page : Nat) : Bool := n == 0 || decide (p ≤ page ∧ page < p + n)

/-- Whether a cached translation of page `page` is covered: a 512 MiB leaf is when any of its pages is. -/
def leafCovered (p n page : Nat) (l : Leaf) : Bool :=
  if l.large then n == 0 || decide (page / 8192 * 8192 < p + n ∧ p < page / 8192 * 8192 + 8192) else pageCovered p n page

/-- Drops a context's translations of a range. -/
def dropTranslations (ctx p n : Nat) (s : State) : State :=
  { s with tlb := s.tlb.filter (fun e => !(e.1 / 2 ^ 36 == ctx && leafCovered p n (e.1 % 2 ^ 36) e.2)) }

/-- Whether the leaf through which an access reached an address is covered. -/
def reachCovered (p n va : Nat) (r : Reach) : Bool :=
  match r with
  | .mem _ l => leafCovered p n (va / 65536) l
  | .reg _ l => leafCovered p n (va / 65536) l
  | .bank _ _ => false
  | .port _ _ _ => false

/-- Whether an operation that translated through a dropped entry is still under way: a copy that has not retired, an atomic in
flight, or an update in flight or buffered at its home. -/
def translationsInUse (s : State) (ctx p n : Nat) : Bool :=
  s.crews.any (fun e => e.2.ctx == ctx && e.2.copies.any (fun x => x.pages.any (fun q => leafCovered p n q.1 q.2))) ||
    s.atoms.any (fun x => x.ctx == ctx && reachCovered p n x.va x.reach) ||
    s.updates.any (fun x => x.ctx == ctx && leafCovered p n (x.va / 65536) x.leaf) ||
    s.streams.any (fun e => e.2.ctx == ctx && e.2.buffered.any (fun x => leafCovered p n (x.va / 65536) x.leaf))

/-- Every store of the threads of a context that is not an event yet becomes one. -/
def flushCtx (ctx : Nat) (s : State) : State :=
  s.crews.foldl (fun s e =>
    if e.2.ctx = ctx then
      flushCrew e.1 (fun _ => true) ((crewAt s e.1).ops.foldl (fun s o => lateOp e.1 o.id s) s)
    else s) s

/-- TLBINV (17 R346). Invalidates the context's translations of s[b] pages from the page of s[a]:s[a+1]. -/
def execTlbinv (a b : Sel) (s : State) : Host.Outcome State Fault Refusal :=
  let i : Instr := .tlbinv a b
  systemOp i (fun g s =>
    let ctx := (crewAt s g.slot).ctx
    let va := (pairOf (reader s g g.lead) a).toNat
    let n := (reader s g g.lead b.toNat).toNat
    if 2 ^ 52 ≤ va then failAll g (trapVa 0x06 va) s
    else
      let s := dropTranslations ctx (va / 65536) n (flushCtx ctx s)
      if translationsInUse s ctx (va / 65536) n then wait .engine g s else advance i g s) s

end Sys2Proof.Machine
end

