-- ==== Sys2Proof/Machine/Contexts.lean ====
section
/-!
DEFINITION. Taking a context off the device and back (17 R347 to R351), kills (17 R352, 11 R229), and the watchdog (08
R183).
-/
namespace Sys2Proof.Machine

/-! ## Records of the device about a context -/

/-- Posts the records that a context has produced, in order. -/
def postProduced (ctx : Nat) : Nat → State → State
  | 0, s => s
  | n + 1, s => postProduced ctx n (postOldest ctx s)

/-- A kill begins: every crew of the context stops issuing (17 R352). -/
def beginKill (ctx : Nat) (s : State) : State := modCtx ctx (fun x => { x with status := .killing }) s

/-- A kill by the device: a record with cause 0x14 or 0x15 is delivered to the host (17 R335, R352). -/
def killWith (ctx cause va : Nat) (s : State) : State :=
  let r := produce ctx (recordWords 0xFFFF 0 false true false cause ctx 0 va 0 0 0) true true false s
  beginKill ctx (postProduced ctx (tgetD r.1.contexts ctx default).fq.produced.length r.1)

/-- Whether a context's watchdog has run out. -/
def watchdogDue (x : Context) : Bool :=
  x.counts && x.wdLimit != 0 && decide (x.wdLimit ≤ x.wdCount)

/-- WATCHDOG_EXPIRY (08 R183, 17 R352). The watchdog has reached its limit: record 0x14, and the context is killed. -/
def execWatchdogExpiry (ctx : Nat) (s : State) : Host.Outcome State Fault Refusal :=
  .next (match tget s.contexts ctx with
    | some x => if watchdogDue x then killWith ctx 0x14 0 s else s
    | none => s)

/-! ## The end of a kill (17 R352, 11 R229) -/

/-- Sectors of memory that a killed operation may or may not have written: any subset, by free choices. -/
def mixSectors (old new : State) : State :=
  let took := fun (a : Nat) => Config.freeBit old.nonce (a / 16) 5
  { old with
    mem := new.mem.filterMap (fun e => if took e.1 then some e else (tget old.mem e.1).map (fun b => (e.1, b)))
    memPoison := (new.memPoison.filter took).foldl sadd (old.memPoison.filter (fun a => !took a))
    voids := new.voids
    packs := new.packs
    shadow := new.shadow
    nonce := new.nonce + 8 }

/-- A killed context's copy stops: of its sector writes, any subset has taken place (13 R284). -/
def lostCopy (slot : Nat) (s : State) (cp : Copy) : State :=
  if writesMemory cp then mixSectors s ((partsLeft cp).foldl (fun s n => copyStep slot cp.id n s) s) else s

/-- Of the pending stores of a killed crew to memory, any subset is lost. -/
def lostStores (s : State) (c : Crew) : State :=
  (c.pend.zipIdx).foldl (fun s p =>
    if p.1.cluster.isNone && Config.freeBit s.nonce p.2 6 then performPending p.1 s else s)
    { s with nonce := s.nonce + 8 }

/-- Of the atomics that a killed context has sent, those of each thread that are performed are a prefix. -/
def lostAtoms : List Atom → List (Nat × Nat) → State → State
  | [], _, s => s
  | a :: as, stopped, s =>
    let who := a.who.map (fun k => (a.crew, k))
    let s := { s with nonce := s.nonce + 8 }
    if who.any (fun k => stopped.contains k) || !Config.freeBit s.nonce a.id 7 then lostAtoms as (stopped ++ who) s
    else lostAtoms as stopped (atomEvent a.kind a.reach a.b a.b2 s).2

/-- What the accesses of a killed context leave in memory. -/
def lostWork (ctx : Nat) (s : State) : State :=
  let cs := s.crews.filter (fun e => e.2.ctx == ctx)
  let s := lostAtoms (s.atoms.filter (fun a => a.ctx == ctx)) [] s
  let s := cs.foldl (fun s e => lostStores s e.2) s
  cs.foldl (fun s e => e.2.copies.foldl (lostCopy e.1) s) s

/-- The context of what a parser holds. -/
def Held.context : Held → Option Nat
  | .level ctx _ _ => some ctx
  | .phase ctx _ _ => some ctx
  | .seed l _ _ => some l.ctx
  | .unbind ctx _ => some ctx
  | .preempt ctx => some ctx
  | _ => none

/-- What is held when the kill of a context is complete: its CTXKILL ends, and anything else ends with 0x0007 (20 R377,
R378, R383). -/
def Held.afterKill (ctx : Nat) (h : Held) : Held :=
  if h = .kill ctx then .ended 0 else if h.context = some ctx then .ended 7 else h

/-- What is held for a killed context ends, when its parser runs. -/
def killHeld (ctx : Nat) (s : State) : State :=
  let dead := fun (h : Option Held) => h.map (Held.afterKill ctx)
  let qs := s.fabric.qcbs.map (fun e => (e.1, { e.2 with held := dead e.2.held }))
  endWaits { s with fabric := { s.fabric with direct := dead s.fabric.direct, qcbs := qs } }

/-- The fences of a killed context are abandoned and reported with 0x0007 (20 R383). -/
def killFences (ctx : Nat) (s : State) : State :=
  (s.fences.filter (fun f => f.ctx == ctx)).foldl
    (fun s f => raiseEvent (eventWords 1 [] f.ctx f.level f.ident 7) s)
    { s with fences := s.fences.filter (fun f => f.ctx != ctx) }

/-- The pins of a context end (10 R208). -/
def endPins (ctx : Nat) (s : State) : State :=
  modLines (fun l => some (dropPins (fun p => p.1 == ctx) l)) (modCtx ctx (fun x => { x with pins := [] }) s)

/-- A cluster with every present bank in cache mode, contents lost, and no owner (10 R199). -/
def clearedCluster (c : Cluster) : Cluster :=
  { c with bankMode := modesAfter c 0, banks := [], fifos := [], fifoPoison := [], fifoReqs := [],
           poison := [], owner := none }

/-- A context's clusters are cleared, and its bank switches no longer wait. -/
def clearClusters (ctx : Nat) (s : State) : State :=
  { s with clusters := s.clusters.map (fun e =>
      let c := { e.2 with switches := e.2.switches.filter (fun r => r.ctx != ctx) }
      (e.1, if c.owner = some ctx then clearedCluster c else c)) }

/-- A context's streams are freed; what they buffered, and updates on their way, are dropped (12 R256). -/
def freeStreams (ctx : Nat) (s : State) : State :=
  { s with
    streams := s.streams.map (fun e =>
      if e.2.state ≠ .free ∧ e.2.ctx = ctx then (e.1, { Stream.fresh with gen := e.2.gen + 1 }) else e)
    updates := s.updates.filter (fun u => u.ctx != ctx) }

/-- The launches of a context. -/
def launchOfCtx (s : State) (ctx id : Nat) : Bool :=
  match tget s.launches id with
  | some l => l.ctx == ctx
  | none => false

/-- Everything that belongs to a context leaves the device. -/
def removeCtx (ctx : Nat) (s : State) : State :=
  let mine := launchOfCtx s ctx
  { s with
    crews := s.crews.filter (fun e => e.2.ctx != ctx)
    seams := s.seams.filter (fun e => !mine e.2.launch)
    launches := s.launches.filter (fun e => e.2.ctx != ctx)
    levels := s.levels.filter (fun e => e.2.ctx != ctx)
    chosen := s.chosen.filter (fun e => (queueAt s e.2).ctx != some ctx)
    queues := s.queues.filter (fun e => e.2.ctx != some ctx)
    atoms := s.atoms.filter (fun a => a.ctx != ctx)
    tlb := s.tlb.filter (fun e => e.1 / 2 ^ 36 != ctx)
    contexts := tdel s.contexts ctx }

/-- A kill ends: fences and waits are reported, resources go, and the host receives an event of kind 4. -/
def finishKill (ctx : Nat) (s : State) : State :=
  let s := killHeld ctx (killFences ctx (lostWork ctx s))
  raiseEvent (eventWords 4 [] ctx 0 0 0) (removeCtx ctx (freeStreams ctx (clearClusters ctx (endPins ctx s))))

/-- KILL_COMPLETE (17 R352). -/
def execKillComplete (ctx : Nat) (s : State) : Host.Outcome State Fault Refusal :=
  .next (match tget s.contexts ctx with
    | some x => if x.status = .killing then finishKill ctx s else s
    | none => s)

/-! ## Pre-emption: the request and the drain (17 R347) -/

/-- A helper falls due for release (07 R160). -/
def dueThread (clock : Nat) (t : Thread) : Thread :=
  { t with helper := t.helper.map (fun h => if h.suspended then h else { h with due := some (h.due.getD clock) }) }

/-- A pre-emption request: the context's crews issue nothing further, and its helpers fall due. -/
def requestPreempt (ctx : Nat) (s : State) : State :=
  modCtx ctx (fun x => { x with status := .preempting })
    { s with crews := s.crews.map (fun e =>
        if e.2.ctx = ctx then (e.1, { e.2 with threads := e.2.threads.map (fun t => (t.1, dueThread (crewClock s e.2) t.2)) }) else e) }

/-- Whether a counted operation waits for something that a drain does not bring about: a FIFO port, its own or that of a lower
lane, or a refused update. -/
def opStays (s : State) (o : Op) : Bool := s.updates.any (fun u => u.op == o.id) || portWaits s o.id || o.late.any (·.reach.isNone)

/-- Issued loads and stores of a context complete. -/
def drainOps (ctx : Nat) (s : State) : State :=
  (s.crews.filter (fun e => e.2.ctx == ctx)).foldl (fun s e =>
    e.2.ops.foldl (fun s o => if o.done || opStays s o then s else completeOp e.1 o.id s) s) s

/-- Updates of a context arrive, until each has been accepted or refused. One that its home refuses still is kept with its crew and
sent again after the resume: the model's choice, since 12 R254 has updates issued before the stop accepted first (log entry 77). -/
def drainUpdates (ctx : Nat) : Nat → State → State
  | 0, s => s
  | n + 1, s =>
    drainUpdates ctx n ((s.updates.filter (fun u => u.ctx == ctx)).foldl (fun s u => arriveById u.id s) s)

/-- Every copy of a crew does the units that it can. -/
def drainCrewCopies (slot : Nat) (s : State) : State :=
  (crewAt s slot).copies.foldl (fun s cp => (partsLeft cp).foldl (fun s n => copyStep slot cp.id n s) s) s

/-- Copies of a context do all that they can; `n` rounds. -/
def drainCopies (ctx : Nat) : Nat → State → State
  | 0, s => s
  | n + 1, s =>
    drainCopies ctx n ((s.crews.filter (fun e => e.2.ctx == ctx)).foldl (fun s e => drainCrewCopies e.1 s) s)

/-- The engine completes the writes of the jobs that it has begun (14 R307). -/
def settleJobs (ctx : Nat) (s : State) : State :=
  (s.crews.filter (fun e => e.2.ctx == ctx)).foldl (fun s e => settleJob e.1 s) s

/-- Steps 2 and 3 of 17 R347: issued work completes, as far as it needs no peer. -/
def drainCtx (ctx : Nat) (s : State) : State :=
  let s := performAtoms (fun a => a.ctx == ctx) s
  let s := drainUpdates ctx (s.updates.length + 1) s
  drainCopies ctx 2 (settleJobs ctx (flushCtx ctx (drainOps ctx s)))

/-- Whether a copy of a context is outstanding. -/
def copiesOut (s : State) (ctx : Nat) : Bool := s.crews.any (fun e => e.2.ctx == ctx && !e.2.copies.isEmpty)

/-! ## The save (17 R347, R348, R350) -/

/-- Inserts an update by home slice, after those of its slice. -/
def insertByHome (u : Update) : List Update → List Update
  | [] => [u]
  | x :: xs => if u.home < x.home then u :: x :: xs else x :: insertByHome u xs

/-- Buffered entries in the order of a spill area (12 R242). -/
def byHome (us : List Update) : List Update := us.foldl (fun acc u => insertByHome u acc) []

/-- The 16 bytes of a spilled entry. -/
def entryBytes (u : Update) : List Byte := bytesOf 4 u.ticket ++ bytesOf 4 u.value.toNat ++ bytesOf 8 u.pa

/-- The bytes that a stream and its home slices write to its spill area (12 R242, R254). -/
def spillBytes (x : Stream) : List Byte :=
  bytesOf 4 x.w ++ bytesOf 4 x.buffered.length ++ bytesOf 4 x.gen.toNat ++ List.replicate 52 0 ++
    (List.range 1024).flatMap (fun j => bytesOf 2 (tgetD x.closes (x.w + j) 0)) ++ (byHome x.buffered).flatMap entryBytes

/-- The open streams of a context. -/
def streamsOf (s : State) (ctx : Nat) : List (Nat × Stream) :=
  s.streams.filter (fun e => e.2.state == .opened && e.2.ctx == ctx)

/-- The first address of a range that is on no page that meets a condition. -/
def firstBad (s : State) (ctx va n : Nat) (ok : Nat → Leaf → Bool) : Option Nat :=
  (pageStarts va n).find? (fun a => match leafAt s ctx a with
    | some l => !ok a l
    | none => true)

/-- Spills a context's streams; the address at which a write cannot be performed, when there is one. -/
def spillStreams (ctx : Nat) : List (Nat × Stream) → State → Option Nat × State
  | [], s => (none, s)
  | (n, x) :: xs, s =>
    match storeCtx ctx x.spill (spillBytes x) s with
    | some s' => spillStreams ctx xs (modStream n (fun x => { x with buffered := [] }) s')
    | none => (some ((firstBad s ctx x.spill (spillBytes x).length (storePage s)).getD x.spill), s)

/-- What a thread's state is saved as: a sleep as the clocks that remain, a bank switch to be asked for again, a helper
suspended. -/
def packThread (clock : Nat) (t : Thread) : Thread :=
  { t with
    run := match t.run with
      | .waiting (.sleep u l) => .waiting (.sleep (u - clock) l)
      | .waiting (.yields u) => .waiting (.yields (u - clock))
      | .waiting .bank => .running
      | r => r
    helper := t.helper.map (fun h => { h with held := none, due := none, suspended := true }) }

/-- A crew as it is saved: DIRTY is cleared (10 R196), and helpers that had to be suspended leave FORCED (07 R160). -/
def packCrew (clock : Nat) (c : Crew) : Crew :=
  let forced := fun (k : Nat) => c.threads.any (fun t => match t.2.helper with
    | some h => h.recruiter == k && !h.suspended
    | none => false)
  { c with
    dirty := 0
    recruits := c.recruits.map (fun r => (r.1, { r.2 with forced := r.2.forced || forced r.1 }))
    threads := c.threads.map (fun t => (t.1, packThread clock t.2)) }

/-- The physical ranges of a context's save area. -/
def saveArea (s : State) (ctx va n : Nat) : List (Nat × Nat) :=
  (pageParts va n).filterMap (fun p => (leafAt s ctx p.1).map (fun l => (l.target p.1, p.2)))

/-- The bytes of a physical range are poisoned no longer. -/
def clearMarks (pa n : Nat) (s : State) : State :=
  { s with memPoison := s.memPoison.filter (fun a => decide (a < pa ∨ pa + n ≤ a)) }

/-- Whether a saved handler crew has ended (17 R331): every thread of it has exited, and nothing of it is under way. -/
def savedEnded (v : SavedCtx) (e : Nat × Crew) : Bool :=
  runsSystem e.2 && e.2.threads.all (fun t => t.2.run == .exited) && e.2.jobs.isEmpty && !(e.2.ops.any (fun o => !o.done)) &&
    !(v.updates.any (fun u => u.crew == e.1))

/-- Handler crews that have ended leave a context's saved state; with the last one its records go to the host (17 R331). -/
def endSaved (ctx : Nat) (s : State) : State :=
  match (tgetD s.contexts ctx default).saved with
  | some v =>
    if v.crews.any (savedEnded v) then
      handToHost ctx (modCtx ctx (fun x => { x with saved := some { v with crews := v.crews.filter (fun e => !savedEnded v e) } }) s)
    else s
  | none => s

/-- The save area's bytes change: what they hold is for the device alone, and the markers that stood there are gone. -/
def writeSaveArea (ctx va n : Nat) (s : State) : State :=
  (pageParts va n).foldl (fun st p => match leafAt s ctx p.1 with
    | some l => clearMarks (l.target p.1) p.2 (voidRange (l.target p.1) p.2 (openLeaf l (l.target p.1) p.2 (cacheLeaf ctx p.1 l st)))
    | none => st) s

/-- Steps 5 to 7 of 17 R347: the live state is saved and the context is no longer resident. `spills`: what each stream
had buffered. -/
def saveCtx (ctx : Nat) (x : Context) (spills : Table (List Update)) (s : State) : State :=
  let v : SavedCtx :=
    { crews := (s.crews.filter (fun e => e.2.ctx == ctx)).map (fun e => (e.1, packCrew (crewClock s e.2) e.2))
      clusters := s.clusters.filter (fun e => e.2.owner == some ctx)
      spills := spills
      updates := s.updates.filter (fun u => u.ctx == ctx)
      area := saveArea s ctx x.save Config.saveSize.toNat }
  let s := clearClusters ctx (endPins ctx (writeSaveArea ctx x.save Config.saveSize.toNat s))
  endSaved ctx <| modCtx ctx (fun x => { x with status := .saved, saved := some v })
    { s with crews := s.crews.filter (fun e => e.2.ctx != ctx), updates := s.updates.filter (fun u => u.ctx != ctx) }

/-- The save of a context that has drained (17 R347): its ticket buffers are spilled, step 4, then its state is saved, step 5
on. A spill area or save area that cannot be written, or damaged control state, kills it with 0x15 (17 R350). -/
def trySave (ctx : Nat) (x : Context) (s : State) : State :=
  let spills := (streamsOf s ctx).map (fun e => (e.1, byHome e.2.buffered))
  match spillStreams ctx (streamsOf s ctx) s with
  | (some a, s) => killWith ctx 0x15 a s
  | (none, s) =>
    if x.corrupt then killWith ctx 0x15 x.save s
    else match firstBad s ctx x.save Config.saveSize.toNat (firmPage s) with
      | some a => killWith ctx 0x15 a s
      | none => saveCtx ctx x spills s

/-- CONTEXT_SAVE (17 R347, R348). Issued work of a context that is being pre-empted completes; when no copy is left, its
state is saved. One whose state has not come back since an earlier save has nothing more to save. -/
def execContextSave (ctx : Nat) (s : State) : Host.Outcome State Fault Refusal :=
  .next (match tget s.contexts ctx with
    | none => s
    | some x =>
      if x.status ≠ .preempting then s
      else if x.saved.isSome then endWaits (modCtx ctx (fun x => { x with status := .saved }) s)
      else
        let s := drainCtx ctx s
        if copiesOut s ctx then s else endWaits (trySave ctx x s))

/-! ## The restore (17 R349, R350) -/

/-- A thread as it comes back; `cl` gives clusters their new numbers. -/
def unpackThread (clock : Nat) (cl : Nat → Nat) (t : Thread) : Thread :=
  { t with run := match t.run with
      | .waiting (.sleep u l) => .waiting (.sleep (u + clock) l)
      | .waiting (.yields u) => .waiting (.yields (u + clock))
      | .waiting (.sync c off va g n) => .waiting (.sync (cl c) off va g n)
      | r => r }

/-- Seats a saved crew on a cluster; answers its slot. Like a crew that is placed, it is active at once where fewer than 8 are;
the helper pool of its new partition is not asked for room for its recruitments: neither is stated (log entries 49, 50). -/
def seatSaved (cl : Nat) (c : Crew) (s : State) : Option (Nat × State) :=
  if 32 < farUsed s cl + c.far then none
  else
    match pickPartition s cl c.near with
    | none => none
    | some p =>
      match freeSlot s cl p with
      | none => none
      | some slot =>
        let act := decide ((activeIn s cl p).length < 8)
        some (slot, enterCrew slot
          { c with half := pickHalf s cl p, active := act, since := s.clock, readyAt := none, lastOn := [] } s)

/-- Seats saved crews on a cluster; answers old and new slots. -/
def seatAll (cl : Nat) : List (Nat × Crew) → State → Option (List (Nat × Nat) × State)
  | [], s => some ([], s)
  | (old, c) :: cs, s =>
    match seatSaved cl c s with
    | none => none
    | some (slot, s) =>
      match seatAll cl cs s with
      | some (m, s) => some ((old, slot) :: m, s)
      | none => none

/-- Whether a cluster can take the banks of a saved cluster: it has no owner, no other context's crew and no waiting
switch, and has the banks that are not in cache mode. -/
def banksFit (s : State) (cl ctx : Nat) (v : Cluster) : Bool :=
  let c := clusterAt s cl
  c.owner.isNone && c.switches.isEmpty && ownerAdmits s cl ctx && !(othersOn s cl ctx) &&
    (List.range 32).all (fun b => !(ownedMode (bankModeOf v b)) || bankModeOf c b != 3)

/-- BANKMODE of a cluster that takes the modes of a saved one. -/
def restoredModes (c v : Cluster) : DWord :=
  BitVec.ofNat 64 (((List.range 32).map (fun b =>
    (if bankModeOf c b = 3 then 3 else if ownedMode (bankModeOf v b) then bankModeOf v b else 0) * 4 ^ b)).sum)

/-- The banks of a saved cluster come back on a cluster. -/
def restoreBanks (ctx : Nat) (v c : Cluster) : Cluster :=
  { c with bankMode := restoredModes c v, banks := v.banks, fifos := v.fifos, fifoPoison := v.fifoPoison, fifoReqs := v.fifoReqs, poison := v.poison,
           owner := some ctx, lines := [] }

/-- One saved cluster with its crews comes back on a cluster, when it has room. -/
def restoreOn (ctx : Nat) (v : SavedCtx) (old cl : Nat) (s : State) : Option (List (Nat × Nat) × State) :=
  let s' := match tget v.clusters old with
    | some k => if banksFit s cl ctx k then some (modCluster cl (restoreBanks ctx k) s) else none
    | none => if ownerAdmits s cl ctx then some s else none
  s'.bind (seatAll cl (v.crews.filter (fun e => clusterOf e.1 == old)))

/-- New places of a context: clusters, and slots. -/
structure Moves where
  clusters : List (Nat × Nat)
  slots : List (Nat × Nat)
  deriving DecidableEq, Repr, Inhabited

/-- The new number of what a list moves. -/
def moved (m : List (Nat × Nat)) (n : Nat) : Nat :=
  match m.find? (fun e => e.1 == n) with
  | some e => e.2
  | none => n

/-- The first of some clusters that can take a saved cluster. -/
def restoreFirst (ctx : Nat) (v : SavedCtx) (old : Nat) : List Nat → Moves → State → Option (Moves × State)
  | [], _, _ => none
  | cl :: cls, m, s =>
    if m.clusters.any (fun e => e.2 == cl) then restoreFirst ctx v old cls m s
    else
      match restoreOn ctx v old cl s with
      | some r => some ({ clusters := m.clusters ++ [(old, cl)], slots := m.slots ++ r.1 }, r.2)
      | none => restoreFirst ctx v old cls m s

/-- Saved clusters come back on the clusters of one die, each on one of its own. -/
def restoreList (ctx : Nat) (v : SavedCtx) (die : Nat) : List Nat → Moves → State → Option (Moves × State)
  | [], m, s => some (m, s)
  | old :: olds, m, s =>
    match restoreFirst ctx v old (dieClusters s die) m s with
    | some r => restoreList ctx v die olds r.1 r.2
    | none => none

/-- Clusters that a context's saved state knows, ascending: those of its crews, its banks and its cooperative seams. -/
def savedClusters (s : State) (ctx : Nat) (v : SavedCtx) : List Nat :=
  let seams := s.seams.filter (fun e => launchOfCtx s ctx e.2.launch)
  (v.crews.map (fun e => clusterOf e.1) ++ v.clusters.map (·.1) ++ seams.flatMap (fun e => e.2.clusters)).foldl sadd []

/-- Everything that was on one die comes back on one die, the same or the other. -/
def restorePlaces (s : State) (ctx : Nat) (v : SavedCtx) : Option (Moves × State) :=
  let group := fun d => (savedClusters s ctx v).filter (fun cl => dieOf s cl == d)
  let onto := fun (d : Nat) (r : Moves × State) =>
    match restoreList ctx v d (group d) r.1 r.2 with
    | some x => some x
    | none => restoreList ctx v (1 - d) (group d) r.1 r.2
  match onto 0 ({ clusters := [], slots := [] }, s) with
  | some r => onto 1 r
  | none => none

/-- What names clusters and slots of a context takes their new numbers. -/
def applyMoves (ctx : Nat) (v : SavedCtx) (m : Moves) (s : State) : State :=
  let mine := launchOfCtx s ctx
  let cl := moved m.clusters
  let slot := moved m.slots
  { s with
    crews := s.crews.map (fun e =>
      if e.2.ctx = ctx then (e.1, { e.2 with threads := e.2.threads.map (fun t => (t.1, unpackThread (crewClock s e.2) cl t.2)) }) else e)
    clusters := s.clusters.map (fun e =>
      if e.2.owner = some ctx then (e.1, { e.2 with fifoReqs := e.2.fifoReqs.map (fun r => { r with crew := slot r.crew }) })
      else e)
    seams := s.seams.map (fun e => if mine e.2.launch then (e.1, { e.2 with clusters := e.2.clusters.map cl }) else e)
    launches := s.launches.map (fun e =>
      if e.2.ctx = ctx then (e.1, { e.2 with visited := (e.2.visited.map cl).foldl sadd [] }) else e)
    updates := s.updates ++ v.updates.map (fun u => { u with crew := slot u.crew }) }

/-- A spilled entry as the spill area holds it now. -/
def reloadEntry (u : Update) (bs : List Byte) : Update :=
  { u with ticket := ofBytes (bs.take 4), value := BitVec.ofNat 32 (ofBytes ((bs.drop 4).take 4)),
           pa := ofBytes ((bs.drop 8).take 8) % 2 ^ 46 }

/-- The entries of a stream are read back from its spill area, in the stored order (12 R254); none where it cannot be
read, or where they come back poisoned, as 17 R350 says of control state (log entry 76). Their homes take them whatever room the
streams of other contexts leave, of which R254 says nothing (log entry 77). -/
def reloadStream (ctx n : Nat) (us : List Update) (s : State) : Option State :=
  let va := (streamAt s n).spill + 0x840
  match (if ctxPoisoned s ctx va (16 * us.length) then none else loadCtx s ctx va (16 * us.length)) with
  | some bs =>
    some (modStream n (fun x =>
      { x with buffered := (us.zipIdx).map (fun u => reloadEntry u.1 ((bs.drop (16 * u.2)).take 16)) ++ x.buffered })
        (afterRead ctx va (16 * us.length) s))
  | none => none

/-- Every stream is read back; the address that cannot be read, when there is one. -/
def reloadStreams (ctx : Nat) : List (Nat × List Update) → State → Option Nat × State
  | [], s => (none, s)
  | (n, us) :: xs, s =>
    match reloadStream ctx n us s with
    | some s' => reloadStreams ctx xs s'
    | none => (some ((streamAt s n).spill), s)

/-- Whether a physical address lies in a save area. -/
def inArea (v : SavedCtx) (a : Nat) : Bool := v.area.any (fun r => decide (r.1 ≤ a ∧ a < r.1 + r.2))

/-- A saved crew with unspecified state: what would let it reach another context stays as it was saved. -/
def tamperedCrew (c d : Crew) : Crew :=
  { d with ctx := c.ctx, role := c.role, half := c.half, viewV := c.viewV, viewT := c.viewT, viewA := c.viewA, ops := c.ops,
           pend := c.pend, copies := c.copies, jobs := c.jobs, key := c.key }

/-- A saved cluster with unspecified contents. -/
def tamperedCluster (c d : Cluster) : Cluster :=
  { c with bankMode := d.bankMode, banks := d.banks, fifos := d.fifos, fifoPoison := d.fifoPoison, poison := d.poison }

/-- A save area that software has stored into: unspecified state for its context and for no other (17 R348). -/
def tamperedSave (n : Nat) (v : SavedCtx) : SavedCtx :=
  let w := Config.tampered n v
  { v with
    crews := v.crews.map (fun e => (e.1, tamperedCrew e.2 (tgetD w.crews e.1 e.2)))
    clusters := v.clusters.map (fun e => (e.1, tamperedCluster e.2 (tgetD w.clusters e.1 e.2))) }

/-- A save area with a poisoned data sector: it comes back with its marker (17 R350). Which data a sector of the area holds is
for the device alone: free values. -/
def markedSave (n : Nat) (v : SavedCtx) : SavedCtx :=
  { v with
    crews := v.crews.map (fun e => (e.1, (Config.hurtSectors (n + 2) e.1).foldl (fun c q => poisonScalars (16 * q) c)
      { e.2 with spacePoison := (Config.hurtSectors n e.1).foldl sadd e.2.spacePoison }))
    clusters := v.clusters.map (fun e => (e.1, (Config.hurtSectors (n + 1) e.1).foldl (fun c q => poisonBank (16 * q) c) e.2)) }

/-- What a save area gives back: none where its control state is lost (17 R350); unspecified state where software has stored into
it (17 R348); its data with a poison marker where an error has damaged it. Which parts hold control state is not stated: a free
choice. -/
def readSave (s : State) (x : Context) (v : SavedCtx) : Option SavedCtx :=
  let hurt := s.memPoison.any (inArea v) || s.badReads.any (fun q => inArea v (16 * q))
  if x.corrupt || (hurt && Config.freeBit s.nonce 0 8) then none
  else
    let v := if s.mem.any (fun e => inArea v e.1) then tamperedSave s.nonce v else v
    some (if hurt then markedSave s.nonce v else v)

/-- The read of a save area takes the errors with which a link returns it (19 R358). -/
def takeArea (v : SavedCtx) (s : State) : State := { s with badReads := s.badReads.filter (fun q => !inArea v (16 * q)) }

/-- A context that has been made resident again takes its places, all together, when there is room (17 R349; log entry
33). -/
def restoreCtx (ctx : Nat) (s : State) : State :=
  match tget s.contexts ctx with
  | none => s
  | some x =>
    match x.status, x.saved with
    | .resident, some v =>
      (match readSave s x v with
        | none => killWith ctx 0x15 x.save (takeArea v s)
        | some v =>
          match restorePlaces s ctx v with
          | none => s
          | some r =>
            let s := takeArea v (applyMoves ctx v r.1 r.2)
            let s := modCtx ctx (fun x => { x with saved := none }) s
            (match reloadStreams ctx v.spills s with
              | (some a, s) => killWith ctx 0x15 a s
              | (none, s) => (streamsOf s ctx).foldl (fun s e => moveWatermark e.1 s) s))
    | _, _ => s

/-- HANDLER_PLACEMENT (17 R331, R349). A saved context's crews take their places; then a handler crew that waits for room
is placed. -/
def execHandlerPlacement (ctx : Nat) (s : State) : Host.Outcome State Fault Refusal :=
  .next (placeHandler ctx (restoreCtx ctx s))

/-- Handler crews that have ended, to be placed afresh (17 R331). -/
def endedHandlers (x : Context) : List Nat :=
  (List.range x.hCount).filter (fun k => match x.saved with
    | some v => !(v.crews.any (fun e => e.2.role == .handler k))
    | none => true)

/-- Makes a pre-empted context resident (17 R349, 20 R379). -/
def resumeCtx (ctx : Nat) (s : State) : State :=
  restoreCtx ctx (modCtx ctx (fun x => { x with status := .resident, toPlace := endedHandlers x }) s)

end Sys2Proof.Machine
end

