-- ==== Sys2Proof/Machine/Debug.lean ====
section
/-!
DEFINITION. The debugger's messages: halts, steps, and reads of a halted crew (17 R353 to R355, 20 R390).
-/
namespace Sys2Proof.Machine

/-! ## Halts (17 R353) -/

/-- The lane whose group a thread of a crew is put into at a halt: the lowest one with its address that runs, or waits, as it
does; a helper has a group of its own. -/
def haltGroup (c : Crew) (k : Nat) (t : Thread) : Nat × Thread :=
  if 32 ≤ k || outOfRun t then (k, t)
  else (c.threads.find? (fun e =>
    decide (e.1 < 32) && e.2.pc == t.pc && !(outOfRun e.2) && isWaiting e.2 == isWaiting t &&
      (liveClause e.2).map (·.header) == (liveClause t).map (·.header))).getD (k, t)

/-- The groups of a crew are formed again. -/
def formGroups (c : Crew) : Crew :=
  { c with
    nextGroup := c.nextGroup + 2048
    threads := c.threads.map (fun e =>
      let h := haltGroup c e.1 e.2
      (e.1, { e.2 with group := c.nextGroup + h.1, clause := sharedClause h.2 e.2 })) }

/-- The groups of a crew that a halt stops. -/
def haltCrew (ctx : Nat) (c : Crew) : Crew := if c.ctx = ctx ∧ runsSystem c = false then formGroups c else c

/-- What the threads of a context have issued is performed, before they are reported halted (11 R230). -/
def settleCtx (ctx : Nat) (s : State) : State := flushCtx ctx (drainOps ctx (performAtoms (fun a => a.ctx == ctx) s))

/-- A context is halted, on the device or saved. -/
def haltCtx (ctx : Nat) (attach : Bool) (s : State) : State :=
  let s := settleCtx ctx s
  modCtx ctx (fun x =>
    { x with halted := true, haltDue := false, attached := x.attached || attach
             haltClock := if x.halted then x.haltClock else s.clock
             saved := x.saved.map (fun v => { v with crews := v.crews.map (fun e => (e.1, haltCrew ctx e.2)) }) })
    { s with crews := s.crews.map (fun e => (e.1, haltCrew ctx e.2)) }

/-- Whether a context exists and is not being killed. -/
def liveCtx (s : State) (ctx : Nat) : Bool :=
  match tget s.contexts ctx with
  | some x => x.status != .killing
  | none => false

/-- HALT (17 R353, R355, 20 R390). -/
def execHalt (r : Req) (ctx : Nat) (attach : Bool) (s : State) : Host.Outcome State Fault Refusal :=
  request 0x10 r .owner (statusOnly (fun s => if liveCtx s ctx then (0, haltCtx ctx attach s) else (4, s))) s

/-- Halts that instructions have begun take place (17 R355). -/
def takeHalts (s : State) : State :=
  (s.contexts.filter (fun e => e.2.haltDue)).foldl (fun s e => haltCtx e.1 false s) s

/-- A thread after a halt that took `n` clocks: its sleep, its yield and its budget did not count them. -/
def shiftThread (n : Nat) (t : Thread) : Thread :=
  { t with
    run := match t.run with
      | .waiting (.sleep u l) => .waiting (.sleep (u + n) l)
      | .waiting (.yields u) => .waiting (.yields (u + n))
      | r => r
    helper := t.helper.map (fun h => { h with due := h.due.map (· + n) }) }

/-- The crews that a halt has stopped go on. -/
def shiftCrews (ctx : Nat) (s : State) : State :=
  { s with crews := s.crews.map (fun e =>
      if e.2.ctx = ctx ∧ runsSystem e.2 = false then
        (e.1, { e.2 with threads := e.2.threads.map (fun t => (t.1, shiftThread (s.clock - crewClock s e.2) t.2)) })
      else e) }

/-- RUN (20 R390). Ends the halt and detaches; steps that were asked for and have not ended are over. -/
def runOn (ctx : Nat) (s : State) : State :=
  { modCtx ctx (fun x => { x with halted := false, haltDue := false, attached := false }) (shiftCrews ctx s) with
    turns := s.turns.filter (fun t => match t with
      | .issue slot _ => (crewAt s slot).ctx != ctx
      | _ => true) }

/-- RUN (20 R390). -/
def execRunCtx (r : Req) (ctx : Nat) (s : State) : Host.Outcome State Fault Refusal :=
  request 0x13 r .owner (statusOnly (fun s => if liveCtx s ctx then (0, runOn ctx s) else (4, s))) s

/-! ## Steps (17 R354) -/

/-- Whether a crew of a halted context can be stepped. -/
def haltedCrew (s : State) (ctx slot : Nat) : Bool :=
  liveCtx s ctx && (tgetD s.contexts ctx default).halted &&
    (match tget s.crews slot with
      | some c => c.ctx == ctx && !(runsSystem c)
      | none => false)

/-- Whether a thread can be stepped: it is neither parked nor exited. -/
def canStep (c : Crew) (k : Nat) : Bool :=
  match threadAt c k with
  | some t => !(outOfRun t)
  | none => false

/-- STEP (17 R354). The focus thread's group is to issue one instruction; refused for a thread that is parked or has
exited. -/
def execStepThread (r : Req) (ctx crew : Nat) (who : Tid) (s : State) : Host.Outcome State Fault Refusal :=
  request 0x11 r .owner (statusOnly (fun s =>
    if haltedCrew s ctx crew && canStep (crewAt s crew) (tkey who) then (0, { s with turns := s.turns ++ [.issue crew who] })
    else (4, s))) s

/-- Whether a thread waits at a join or at BAR. -/
def atMeeting (t : Thread) : Bool :=
  match t.run with
  | .waiting (.join _ _) => true
  | .waiting (.bar _ _) => true
  | _ => false

/-- The threads that lead the groups of a crew, in the order of STEPCREW: by lowest lane, then helpers by worker number. -/
def groupLeads (c : Crew) : List Nat :=
  let leads := c.threads.filter (fun e => !(outOfRun e.2) &&
    !(c.threads.any (fun f => decide (f.1 < e.1) && ganged c e.1 e.2 f.1)))
  ((leads.filter (fun e => decide (e.1 < 32))).map (·.1)) ++
    ((List.range 32).flatMap (fun w => (leads.filter (fun e => decide (32 ≤ e.1) && e.1 % 32 == w)).map (·.1)))

/-- The issues that STEPCREW asks for; a group that waits at a join or at BAR counts as stepped. -/
def stepTurns (slot : Nat) (c : Crew) : List Turn :=
  (groupLeads c).filterMap (fun k => match threadAt c k with
    | some t => if atMeeting t then none else some (.issue slot (tidOf k))
    | none => none)

/-- STEPCREW (17 R354). -/
def execStepcrew (r : Req) (ctx crew : Nat) (s : State) : Host.Outcome State Fault Refusal :=
  request 0x12 r .owner (statusOnly (fun s =>
    if haltedCrew s ctx crew then (0, { s with turns := s.turns ++ stepTurns crew (crewAt s crew) }) else (4, s))) s

/-! ## Reads (17 R353, 20 R390) -/

/-- The crew's counted operations complete, as far as they can. -/
def settleCrewOps (slot : Nat) (s : State) : State :=
  (crewAt s slot).ops.foldl (fun s o => if o.done || opStays s o || opFlying s o.id then s else completeOp slot o.id s) s

/-- What DREAD answers with: bytes of the register space, s0 to s31, and the crew control registers (log entry 35). -/
def debugBytes (s : State) (slot off len : Nat) : List Byte :=
  let c := crewAt s slot
  (List.range len).map (fun j => spaceByte c (off + j)) ++
    (List.range 32).flatMap (fun j => bytesOf 4 (if j = 31 then 0 else (tgetD c.sregs j 0).toNat)) ++
    (List.range 8).flatMap (fun n => bytesOfWords (controlRead s slot n))

/-- The answer to DREAD. -/
def debugRead (ctx slot off len : Nat) (s : State) : Nat × List Byte × State :=
  if !haltedCrew s ctx slot then (4, [], s)
  else if 0x100000 < off + len ∨ 1232 < len then (2, [], s)
  else (0, debugBytes s slot off len, s)

/-- Whether a read waits: the crew is halted and its slots are not at 0. -/
def readWaits (s : State) (ctx slot : Nat) : Bool :=
  haltedCrew s ctx slot && (crewAt (settleCrewOps slot s) slot).ops.any (fun o => !o.done)

/-- DREAD (17 R353, 20 R390). While the crew's slots are not at 0 the message waits, as a turn that is taken up again. -/
def execDread (r : Req) (ctx crew off len : Nat) (s : State) : Host.Outcome State Fault Refusal :=
  if accepted s r .owner && readWaits s ctx crew then .next { s with turns := s.turns ++ [.read r ctx crew off len] }
  else request 0x14 r .owner (fun s =>
    debugRead ctx crew off len (if haltedCrew s ctx crew then settleCrewOps crew s else s)) s

end Sys2Proof.Machine
end

