-- ==== Sys2Proof/Machine/Migrate.lean ====
section
/-!
DEFINITION. MIGRATION: the move of a 64 KiB page to another frame (19 R360, R361).
-/
namespace Sys2Proof.Machine

/-- Whether a physical address lies in a frame, given by its first byte. -/
def inFrame (f a : Nat) : Bool := decide (f ≤ a ∧ a < f + 65536)

/-- Whether a migration waits to begin: F is in the frame set of an open stream, or a copy that translated through F has not
retired (19 R360). -/
def migrationWaits (s : State) (m : Migration) : Bool :=
  s.streams.any (fun e => e.2.state == .opened && e.2.frames.contains (m.src / 65536)) ||
    s.crews.any (fun e => e.2.copies.any (fun c => c.pages.any (fun p => inFrame m.src (p.2.target (p.1 * 65536)))))

/-- Pending stores to a frame become events (19 R361, step 3). -/
def flushFrame (f : Nat) (s : State) : State :=
  s.crews.foldl (fun s e =>
    flushCrew e.1 (fun p => p.cluster.isNone && (inFrame f p.pa || inFrame f (p.pa + p.data.length - 1))) s) s

/-- A list with rising keys whose entries of a frame are replaced. -/
def replaceFrame {α : Type} (key : α → Nat) (g : Nat) (new l : List α) : List α :=
  l.filter (fun e => decide (key e < g)) ++ new ++ l.filter (fun e => decide (g + 65536 ≤ key e))

/-- Old words of a frame move with it: what fetches may still use of F they may use of G (01 R19). -/
def moveOld {α : Type} (f g : Nat) (join : α → α → α) (t : Table α) : Table α :=
  (t.filter (fun e => inFrame f e.1)).foldl (fun t e =>
    tset t (e.1 - f + g) (match tget t (e.1 - f + g) with
      | some x => join x e.2
      | none => e.2)) t

/-- The 64 KiB of F are copied to G with their poison, and with that of sectors that a link corrupts (19 R358, R361, step 4); what F
holds from then on is unspecified. -/
def copyFrame (f g : Nat) (s : State) : State :=
  let s := (s.shadow.filter (fun e => inFrame f e.1 || inFrame g e.1)).foldl (fun s e => noteOld e.1 s) s
  let cells := (memBytes s f 65536).zipIdx.map (fun b => (g + b.2, b.1))
  let bad := s.badReads.filter (fun q => inFrame f (q * 16))
  let marks := (bad.foldl (fun l q => poisonSector (q * 16) l) (s.memPoison.filter (inFrame f))).map (fun a => a - f + g)
  voidRange f 65536
    { takeReads f 65536 s with
      mem := replaceFrame (·.1) g cells s.mem
      memPoison := (replaceFrame id g marks s.memPoison).filter (fun a => !inFrame f a)
      packs := replaceFrame (·.1) g ((s.packs.filter (fun e => inFrame f e.1)).map (fun e => (e.1 - f + g, e.2))) s.packs
      shadow := moveOld f g (fun a b => a ++ b) s.shadow
      crews := s.crews.map (fun e => (e.1, { e.2 with
        threads := e.2.threads.map (fun t => (t.1, { t.2 with stale := moveOld f g (fun a _ => a) t.2.stale })) })) }

/-- An entry with another frame and LOCAL bit, its other fields kept (19 R361, step 5). -/
def movedEntry (e g : Nat) (loc : Bool) : Nat :=
  e - bits e 45 16 * 65536 - bits e 13 13 * 8192 + g + loc.toNat * 8192

/-- The named leaves are written. -/
def moveLeaves (m : Migration) (s : State) : State :=
  m.leaves.foldl (fun s a => memStore a (bytesOf 8 (movedEntry (mem64 s a) m.dst m.loc)) s) s

/-- Every translation of F leaves the translation caches, and its lines leave the cluster caches. -/
def dropFrame (f : Nat) (s : State) : State :=
  { s with
    tlb := s.tlb.filter (fun e => e.2.target (e.1 % 2 ^ 36 * 65536) / 65536 != f / 65536)
    clusters := s.clusters.map (fun e => (e.1, { e.2 with lines := e.2.lines.filter (fun l => !inFrame f l.line) })) }

/-- A leaf after the migration, when it is one that the migration names. -/
def movedLeaf (m : Migration) (l : Leaf) : Leaf := { l with pte := movedEntry l.pte m.dst m.loc }

/-- An update that translated through a named leaf re-translates. -/
def moveUpdate (m : Migration) (u : Update) : Update :=
  if m.leaves.contains u.leaf.addr && inFrame m.src u.pa then
    { u with pa := u.pa - m.src + m.dst, leaf := movedLeaf m u.leaf } else u

/-- The home slice of an update is that of its new address. -/
def rehome (s : State) (m : Migration) (u : Update) : Update :=
  let v := moveUpdate m u
  if v = u then u else { v with home := homeOf s v.pa v.leaf.isLocal }

/-- A place that was reached through a named leaf, after the migration. -/
def moveReach (m : Migration) (r : Reach) : Reach :=
  match r with
  | .mem pa l =>
    if m.leaves.contains l.addr && inFrame m.src pa then .mem (pa - m.src + m.dst) (movedLeaf m l) else r
  | _ => r

/-- An atomic that translated through a named leaf re-translates and is sent again. -/
def moveAtom (m : Migration) (a : Atom) : Atom := { a with reach := moveReach m a.reach }

/-- So does a store whose source has not been read yet. -/
def moveOp (m : Migration) (o : Op) : Op := { o with late := o.late.map (fun l => { l with reach := l.reach.map (moveReach m) }) }

/-- The refused atomics and updates are sent again (19 R361, step 6). -/
def moveFlights (m : Migration) (s : State) : State :=
  { s with
    atoms := s.atoms.map (moveAtom m)
    crews := s.crews.map (fun e => (e.1, { e.2 with ops := e.2.ops.map (moveOp m) }))
    updates := s.updates.map (rehome s m)
    contexts := s.contexts.map (fun e =>
      (e.1, { e.2 with saved := e.2.saved.map (fun v => { v with updates := v.updates.map (rehome s m) }) })) }

/-- MIGRATION (19 R361). A migration that need not wait is performed, steps 1 to 6 in one, and its packet ends. -/
def execMigration (mig : Nat) (s : State) : Host.Outcome State Fault Refusal :=
  .next (match tget s.migrations mig with
    | none => s
    | some m =>
      if migrationWaits s m then s
      else
        let s := dropFrame m.src (moveLeaves m (copyFrame m.src m.dst (flushFrame m.src s)))
        let s := moveFlights m s
        endWaits { s with migrations := tdel s.migrations mig })

end Sys2Proof.Machine
end

