-- ==== Sys2Proof/Machine/Packets.lean ====
section
/-!
DEFINITION. The packets of the command path (20 R375 to R384): the checks that they share, and what each performs.
-/
namespace Sys2Proof.Machine

/-! ## Fields and their checks (20 R376, R377, R380) -/

/-- The words after a field's header; none for an identifier that 20 R380 does not list. MOVE takes n from its fifth word. -/
def fieldLength (id : Nat) (ws : List Word) : Option Nat :=
  match id with
  | 0x001 => some 1
  | 0x002 => some 2
  | 0x003 => some 5
  | 0x004 => some 3
  | 0x005 => some 2
  | 0x006 => some 2
  | 0x007 => some 2
  | 0x008 => some 8
  | 0x009 => some 3
  | 0x00A => some 1
  | 0x00B => some 3
  | 0x00C => some 2
  | 0x00D => some 1
  | 0x00E => some 1
  | 0x00F => some 3
  | 0x010 => some 4
  | 0x011 => some 4
  | 0x012 => some 2
  | 0x013 => some (5 + 2 * bits (ws.getD 4 0).toNat 31 16)
  | 0x014 => some 6
  | 0x015 => some 2
  | 0x016 => some 1
  | _ => none

/-- The status of a list of fields, in order: 3 for an unknown mandatory field, 2 for one that appears twice or has a wrong
length, else 0. `seen`: identifiers before. -/
def fieldStatus (seen : List Nat) : List PktField → Nat
  | [] => 0
  | x :: xs =>
    if seen.contains x.id then 2
    else
      match fieldLength x.id x.words with
      | none => if x.mand then 3 else fieldStatus (x.id :: seen) xs
      | some n => if x.words.length = n then fieldStatus (x.id :: seen) xs else 2

/-- The words of a field; none where it is absent. -/
def fieldWords (f : List PktField) (id : Nat) : Option (List Word) := (f.find? (fun x => x.id == id)).map (·.words)

/-- Word `j` of a field, as a number. -/
def fieldNum (f : List PktField) (id j : Nat) : Nat := (((fieldWords f id).getD []).getD j 0).toNat

/-- Words `j` and `j + 1` of a field, low word first. -/
def field64 (f : List PktField) (id j : Nat) : Nat := fieldNum f id j + fieldNum f id (j + 1) * 2 ^ 32

/-- What a packet's context is (20 R371, R378, R379): none; its queue's own; the one that CTX names; or the new one that
CTX names. -/
inductive Scope where
  | none
  | own
  | named
  | fresh
  deriving DecidableEq, Repr, Inhabited

/-- Whether a queue is privileged; a direct packet's source is. -/
def sourcePriv (s : State) : PktSrc → Bool
  | .direct => true
  | .queue n => (qcbAt s n).priv

/-- Whether a CTX field names another context than the queue's own. -/
def namesOther (s : State) (src : PktSrc) (f : List PktField) : Bool :=
  match src with
  | .direct => false
  | .queue n => (fieldWords f 1).isSome && fieldNum f 1 0 % 4096 != (qcbAt s n).ctx

/-- The number of the context that a packet acts on. -/
def packetCtx (s : State) (src : PktSrc) (f : List PktField) (k : Scope) : Nat :=
  match k, src with
  | .own, .queue n => (qcbAt s n).ctx
  | _, _ => fieldNum f 1 0 % 4096

/-- Whether a packet lacks a field that it needs; a direct packet for an own context needs CTX too (20 R371). -/
def lacksField (src : PktSrc) (f : List PktField) (k : Scope) (need : List Nat) : Bool :=
  need.any (fun id => (fieldWords f id).isNone) ||
    ((k == .named || k == .fresh || (k == .own && src == .direct)) && (fieldWords f 1).isNone)

/-- The status of a context that a packet names: 4 where it does not exist, 7 where it is being killed, else 0. -/
def ctxStatus (s : State) (ctx : Nat) : Nat :=
  match tget s.contexts ctx with
  | none => 4
  | some x => if x.status = .killing then 7 else 0

/-- The checks that packets share: the status, 0 when the packet is to be performed (20 R371, R376 to R379). -/
def packetStatus (s : State) (src : PktSrc) (f : List PktField) (priv : Bool) (k : Scope) (need : List Nat) : Nat :=
  if priv && !(sourcePriv s src) then 5
  else if fieldStatus [] f ≠ 0 then fieldStatus [] f
  else if !priv && namesOther s src f then 5
  else if lacksField src f k need then 4
  else if k = .none ∨ k = .fresh then 0
  else ctxStatus s (packetCtx s src f k)

/-- How the performing of a packet ends: with a status, or holding its parser. -/
inductive PktEnd where
  | fin (st : Nat) (s : State)
  | hold (h : Held) (s : State)

/-- The end of a packet: its status is written, or it holds its parser, and what it waits for is looked at. -/
def endPacket (src : PktSrc) : PktEnd → State
  | .fin st s => finishPacket src st s
  | .hold h s => endHeld src (holdPacket src h s)

/-- Whether a source stands at a packet that has been read. -/
def atPacket (s : State) (src : PktSrc) : Bool := heldBy s src == some .parsing

/-- The performing of a packet. -/
def packetOp (src : PktSrc) (f : List PktField) (priv : Bool) (k : Scope) (need : List Nat) (body : Nat → State → PktEnd)
    (s : State) : Host.Outcome State Fault Refusal :=
  .next (
    if !atPacket s src then s
    else
      let st := packetStatus s src f priv k need
      if st = 0 then endPacket src (body (packetCtx s src f k) s) else finishPacket src st s)

/-- A refusal with 0x0004. -/
def refused (s : State) : PktEnd := .fin 4 s

/-- Whether a number is a power of two within limits. -/
def powerWithin (n lo hi : Nat) : Bool := decide (lo ≤ n ∧ n ≤ hi) && n == 2 ^ n.log2

/-- Table entries of `size` words from the VA that TABLE names, COUNT of them; none where they cannot be read. -/
def readTable (s : State) (ctx : Nat) (f : List PktField) (size : Nat) : Option (List (List Word)) :=
  (loadWords s ctx (field64 f 0x11 0) (size * fieldNum f 0x11 3)).map (fun ws =>
    (List.range (fieldNum f 0x11 3)).map (fun j => (ws.drop (size * j)).take size))

/-- The state after the table that TABLE names has been read. -/
def tableRead (ctx : Nat) (f : List PktField) (size : Nat) (s : State) : State :=
  afterRead ctx (field64 f 0x11 0) (4 * (size * fieldNum f 0x11 3)) s

/-! ## Contexts -/

/-- NOP (20 R379). -/
def execNopPacket (src : PktSrc) (f : List PktField) (s : State) : Host.Outcome State Fault Refusal :=
  packetOp src f false .none [] (fun _ s => .fin 0 s) s

/-- The context that CTXNEW makes. -/
def newContext (f : List PktField) : Context :=
  { status := .resident, root := field64 f 2 0 % 2 ^ 46, hEntry := field64 f 3 0, hFrame := BitVec.ofNat 64 (field64 f 3 2),
    hCount := fieldNum f 3 4, toPlace := List.range (fieldNum f 3 4), save := field64 f 5 0,
    fq := { base := field64 f 4 0, size := fieldNum f 4 2, count := 0, ring := [], held := [], produced := [], taken := [],
            dropped := 0, nextSeq := 0 },
    host := [], wdLimit := fieldNum f 6 0, wdCount := 0,
    stallLimit := if (fieldWords f 6).isSome then fieldNum f 6 1 else 10000,
    seeds := [BitVec.ofNat 64 (field64 f 7 0)], shapes := [], peers := [], window := List.replicate 8 0, rxBase := 0,
    rxSize := 0, rxCount := 0, evicts := [], pins := [], halted := false, haltDue := false, haltClock := 0,
    attached := false, corrupt := false, saved := none }

/-- Whether CTXNEW's values are within their limits, CTX in use apart (20 R379, R380; 10 R211). -/
def newContextFits (f : List PktField) (s : State) : Bool :=
  decide (1 ≤ fieldNum f 3 4 ∧ fieldNum f 3 4 ≤ 4) && powerWithin (fieldNum f 4 2) 64 65536 && field64 f 4 0 % 32 == 0 &&
    field64 f 2 0 % 8192 == 0 && backed s (field64 f 2 0)

/-- CTXNEW (20 R379). Creates a context; no copy of instructions is held for it. Refused when a page of the fault queue is
not valid, normal, writable and pinned (17 R337). -/
def execCtxnew (src : PktSrc) (f : List PktField) (s : State) : Host.Outcome State Fault Refusal :=
  packetOp src f true .fresh [2, 3, 4, 5] (fun ctx s =>
    if (tget s.contexts ctx).isSome || !newContextFits f s then refused s
    else
      let s' := discardCopies ctx (fun _ => true) { s with contexts := tset s.contexts ctx (newContext f) }
      if pagesMeet s' ctx (field64 f 4 0) (32 * fieldNum f 4 2) (firmPage s') then .fin 0 s' else refused s) s

/-- CTXKILL (20 R379, 17 R352). Holds its parser until the kill is complete (20 R378; log entry 34). -/
def execCtxkill (src : PktSrc) (f : List PktField) (s : State) : Host.Outcome State Fault Refusal :=
  packetOp src f true .named [] (fun ctx s => .hold (.kill ctx) (beginKill ctx s)) s

/-- PREEMPT (20 R379, 17 R347). Holds its parser until the context has left the device (20 R378; log entry 34). -/
def execPreempt (src : PktSrc) (f : List PktField) (s : State) : Host.Outcome State Fault Refusal :=
  packetOp src f true .named [] (fun ctx s =>
    if (tgetD s.contexts ctx default).status = .resident then .hold (.preempt ctx) (requestPreempt ctx s) else refused s) s

/-- CTXRUN (20 R379, 17 R349). -/
def execCtxrun (src : PktSrc) (f : List PktField) (s : State) : Host.Outcome State Fault Refusal :=
  packetOp src f true .named [] (fun ctx s =>
    if (tgetD s.contexts ctx default).status = .saved then .fin 0 (resumeCtx ctx s) else refused s) s

/-- QBIND (20 R379, 08 R172). Refused when the queue is bound, or when the sump base or a sump page fails. -/
def execQbind (src : PktSrc) (f : List PktField) (s : State) : Host.Outcome State Fault Refusal :=
  packetOp src f true .named [0xA, 0xB] (fun ctx s =>
    let q := fieldNum f 0xA 0
    let base := field64 f 0xB 0
    let size := fieldNum f 0xB 2
    if decide (64 ≤ q) || (queueAt s q).ctx.isSome || base % 64 != 0 || !powerWithin size 64 65536 ||
        !pagesMeet s ctx base (64 * size) (firmPage s) then refused s
    else .fin 0 (modQueue q (fun _ => { TaskQueue.fresh with ctx := some ctx, sump := base, size := size }) s)) s

/-- Whether a task queue holds no record. -/
def TaskQueue.isEmpty (x : TaskQueue) : Bool := x.chip.isEmpty && x.spilled == 0

/-- The queue is unbound. -/
def unbindQueue (q : Nat) (s : State) : State := modQueue q (fun _ => TaskQueue.fresh) s

/-- QUNBIND (20 R379). Unbinds a task queue, or waits until it holds no record. -/
def execQunbind (src : PktSrc) (f : List PktField) (s : State) : Host.Outcome State Fault Refusal :=
  packetOp src f true .named [0xA] (fun ctx s =>
    let q := fieldNum f 0xA 0
    if decide (64 ≤ q) || (queueAt s q).ctx != some ctx then refused s
    else if (queueAt s q).isEmpty then .fin 0 (unbindQueue q s)
    else .hold (.unbind ctx q) s) s

/-- QUEUE_UNBIND_COMPLETE (20 R379). A waiting QUNBIND ends when its queue holds no record; with 0x0004 when the queue is no
longer bound to its context. -/
def execQueueUnbindComplete (src : PktSrc) (s : State) : Host.Outcome State Fault Refusal :=
  .next (match heldBy s src with
    | some (.unbind ctx q) =>
      if (queueAt s q).ctx ≠ some ctx then finishPacket src 4 s
      else if (queueAt s q).isEmpty then finishPacket src 0 (unbindQueue q s)
      else s
    | _ => s)

/-- RECACT (20 R379, 17 R345, R351). Applies an action to a record that is the host's. -/
def execRecact (src : PktSrc) (f : List PktField) (s : State) : Host.Outcome State Fault Refusal :=
  packetOp src f true .named [0x12] (fun ctx s =>
    let n := fieldNum f 0x12 0
    let act := fieldNum f 0x12 1 % 4
    if act = 3 ∨ 2 ^ 31 ≤ n ∨ withHost s ctx n = false ∨ isParked s ctx n = false then refused s
    else .fin 0 (endSaved ctx (actOn ctx n act s))) s

/-- LIMITS (20 R379, 08 R183, 12 R252). -/
def execLimits (src : PktSrc) (f : List PktField) (s : State) : Host.Outcome State Fault Refusal :=
  packetOp src f true .named [6] (fun ctx s =>
    .fin 0 (modCtx ctx (fun x => { x with wdLimit := fieldNum f 6 0, stallLimit := fieldNum f 6 1 }) s)) s

/-- WDRESTART (20 R379, 08 R183). -/
def execWdrestart (src : PktSrc) (f : List PktField) (s : State) : Host.Outcome State Fault Refusal :=
  packetOp src f false .own [] (fun ctx s => .fin 0 (modCtx ctx (fun x => { x with wdCount := 0 }) s)) s

/-! ## Peers, windows, pages (19 R360 to R364, 20 R393) -/

/-- The outstanding CPNETs of a context to a peer entry fail (19 R363). -/
def dropInFlight (ctx p : Nat) (s : State) : State :=
  (s.crews.filter (fun e => e.2.ctx == ctx)).foldl (fun s e =>
    (e.2.copies.filter (fun x => x.cls == 3 && peerNo x.peer == p && !x.done)).foldl (fun s x => dropNet e.1 x s) s) s

/-- Writes one peer entry: both sequence numbers restart; an entry that is not valid drops what is in flight. -/
def writePeer (ctx p : Nat) (ws : List Word) (s : State) : State :=
  let x : Peer := { words := ws, sent := 0, expected := 0 }
  let s := modCtx ctx (fun c => { c with peers := tset c.peers p x }) s
  if x.valid then s else dropInFlight ctx p s

/-- Writes consecutive peer entries. -/
def writePeers (ctx p : Nat) : List (List Word) → State → State
  | [], s => s
  | ws :: es, s => writePeers ctx (p + 1) es (writePeer ctx p ws s)

/-- Whether a table would make entry 0 or 1 of context 0 valid (19 R363). -/
def makesUnused (ctx first : Nat) (es : List (List Word)) : Bool :=
  ctx == 0 && (es.zipIdx).any (fun e => decide (first + e.2 < 2) && bitAt (recWord e.1 6) 24)

/-- PEERS (20 R379, 19 R362, R363). -/
def execPeers (src : PktSrc) (f : List PktField) (s : State) : Host.Outcome State Fault Refusal :=
  packetOp src f true .named [0x11] (fun ctx s =>
    let first := fieldNum f 0x11 2
    if 4096 < first + fieldNum f 0x11 3 then refused s
    else
      match readTable s ctx f 8 with
      | none => refused (tableRead ctx f 8 s)
      | some es =>
        let s := tableRead ctx f 8 s
        if makesUnused ctx first es then refused s else .fin 0 (writePeers ctx first es s)) s

/-- Whether a window descriptor's BASE and LENGTH are multiples of 65,536 (19 R364). -/
def windowAligned (ws : List Word) : Bool := recWord ws 0 % 65536 == 0 && recWord ws 2 % 65536 == 0

/-- EXPORT (20 R379, 19 R364). -/
def execExportWin (src : PktSrc) (f : List PktField) (s : State) : Host.Outcome State Fault Refusal :=
  packetOp src f true .named [0x11] (fun ctx s =>
    if fieldNum f 0x11 2 ≠ 0 ∨ fieldNum f 0x11 3 ≠ 1 then refused s
    else
      match readTable s ctx f 8 with
      | some [ws] =>
        let s := tableRead ctx f 8 s
        if windowAligned ws then .fin 0 (modCtx ctx (fun x => { x with window := ws }) s) else refused s
      | _ => refused (tableRead ctx f 8 s)) s

/-- RXRING (20 R379, R393). -/
def execRxring (src : PktSrc) (f : List PktField) (s : State) : Host.Outcome State Fault Refusal :=
  packetOp src f true .named [0x11] (fun ctx s =>
    let n := fieldNum f 0x11 3
    if powerWithin n 16 4096 then
      .fin 0 (modCtx ctx (fun x => { x with rxBase := field64 f 0x11 0, rxSize := n, rxCount := 0 }) s)
    else refused s) s

/-- Whether a named leaf is valid, maps F, and has neither SIZE nor PIN set (19 R360). -/
def leafMaps (s : State) (frame a : Nat) : Bool :=
  a % 8 == 0 && (match tableEntry s a with
    | some e => bits e 45 16 * 65536 == frame && !bitAt e 14 && !bitAt e 12
    | none => false)

/-- MIGRATE (20 R379, 19 R360). A migration that is not refused is asked for; the packet holds its parser until it is done
(20 R378; log entry 34). -/
def execMigrate (src : PktSrc) (f : List PktField) (s : State) : Host.Outcome State Fault Refusal :=
  packetOp src f true .none [0x13] (fun _ s =>
    let from_ := field64 f 0x13 0
    let dest := field64 f 0x13 2
    let n := bits (fieldNum f 0x13 4) 31 16
    let leaves := (List.range n).map (fun j => field64 f 0x13 (5 + 2 * j))
    if n = 0 ∨ 16 < n ∨ from_ = dest ∨ dest % 65536 ≠ 0 ∨ backed s dest = false ∨ backed s (dest + 65535) = false ∨
        leaves.all (leafMaps s from_) = false then refused s
    else
      let m : Migration := { src := from_, dst := dest, loc := bitAt (fieldNum f 0x13 4) 0, leaves := leaves }
      .hold (.move s.uid) { s with uid := s.uid + 1, migrations := tset s.migrations s.uid m }) s

/-- EVICT (20 R379, 10 R207). -/
def execEvict (src : PktSrc) (f : List PktField) (s : State) : Host.Outcome State Fault Refusal :=
  packetOp src f false .own [0x11] (fun ctx s =>
    if 1024 < fieldNum f 0x11 3 then refused s
    else
      match readTable s ctx f 8 with
      | some es => .fin 0 (modCtx ctx (fun x => { x with evicts := es.map (fun ws => ⟨ws⟩) }) (tableRead ctx f 8 s))
      | none => refused (tableRead ctx f 8 s)) s

/-! ## Ticket streams -/

/-- SOPEN (20 R379, 12 R241). Opens a stream and stores its handle at REPLY; all ones, with 0x0006, when no slot is
free. -/
def execSopen (src : PktSrc) (f : List PktField) (s : State) : Host.Outcome State Fault Refusal :=
  packetOp src f false .own [0x14, 0x15] (fun ctx s =>
    let n := fieldNum f 0x14
    let spill := field64 f 0x14 4
    let reply := field64 f 0x15 0
    if !streamLimits (n 0) (n 1) (n 2) spill || (spillTrap s ctx spill).isSome || reply % 8 != 0 then refused s
    else
      let r := openStream ctx (n 0) (n 1) (n 2) spill s
      match storeCtx ctx reply (bytesOf 8 r.1.toNat) r.2 with
      | some s' => .fin (if r.1 = 0xFFFFFFFF then 6 else 0) s'
      | none => refused s) s

/-- SFREE (20 R379, 12 R240). Frees a drained stream. -/
def execSfree (src : PktSrc) (f : List PktField) (s : State) : Host.Outcome State Fault Refusal :=
  packetOp src f false .own [0xE] (fun ctx s =>
    match streamNamed s ctx (BitVec.ofNat 32 (fieldNum f 0xE 0)) with
    | some n => if (streamAt s n).state = .drained then .fin 0 (freeStream n s) else refused s
    | none => refused s) s

/-! ## Levels (20 R381) -/

/-- The level code and the identifier of LEVEL. -/
def levelCode (f : List PktField) : Nat := fieldNum f 0xC 0 % 4

/-- The identifier of LEVEL. -/
def levelIdent (f : List PktField) : Nat := fieldNum f 0xC 1

/-- A packet that opens a level: refused for another level code, or an identifier that repeats. -/
def openOp (code : Nat) (src : PktSrc) (f : List PktField) (body : Nat → Nat → State → PktEnd) (s : State) :
    Host.Outcome State Fault Refusal :=
  packetOp src f false .own [0xC] (fun ctx s =>
    if levelCode f ≠ code ∨ identTaken s ctx code (levelIdent f) then refused s else body ctx (levelIdent f) s) s

/-- A packet that closes a level, which completes when its counter is 0 (08 R166). -/
def closeOp (code : Nat) (src : PktSrc) (f : List PktField) (s : State) : Host.Outcome State Fault Refusal :=
  packetOp src f false .own [0xC] (fun ctx s =>
    match (if levelCode f = code then levelNamed s ctx code (levelIdent f) else none) with
    | none => refused s
    | some id =>
      let l := tgetD s.levels id default
      if l.closed then refused s
      else
        .fin 0 (endWaits (completeLevels 3 id { s with levels := tset s.levels id { l with closed := true } }))) s

/-- JOBOPEN (20 R381). Begins a job and restarts the watchdog; refused while a job is open. -/
def execJobopen (src : PktSrc) (f : List PktField) (s : State) : Host.Outcome State Fault Refusal :=
  openOp 3 src f (fun ctx ident s =>
    if (openJob s ctx).isSome then refused s
    else .fin 0 (modCtx ctx (fun x => { x with wdCount := 0 }) (newLevel .job ctx ident 0 s))) s

/-- JOBCLOSE (20 R381). -/
def execJobclose (src : PktSrc) (f : List PktField) (s : State) : Host.Outcome State Fault Refusal := closeOp 3 src f s

/-- PHASEOPEN (20 R381). Holds its parser until the job's previous phase has completed, then begins the phase. -/
def execPhaseopen (src : PktSrc) (f : List PktField) (s : State) : Host.Outcome State Fault Refusal :=
  openOp 2 src f (fun ctx ident s =>
    match openJob s ctx with
    | none => refused s
    | some job => .hold (.phase ctx ident job) s) s

/-- PHASECLOSE (20 R381). -/
def execPhaseclose (src : PktSrc) (f : List PktField) (s : State) : Host.Outcome State Fault Refusal := closeOp 2 src f s

/-- The open phase of a context. -/
def ctxPhase (s : State) (ctx : Nat) : Option Nat :=
  match (openJob s ctx).bind (openPhase s) with
  | some p => some p
  | none => (s.levels.find? (fun e => e.2.ctx == ctx && e.2.kind == .phase && !e.2.closed && !e.2.done)).map (·.1)

/-- GRAPHOPEN (20 R381). Opens a graph of the open phase. -/
def execGraphopen (src : PktSrc) (f : List PktField) (s : State) : Host.Outcome State Fault Refusal :=
  openOp 1 src f (fun ctx ident s =>
    match ctxPhase s ctx with
    | some p => .fin 0 (newLevel .graph ctx ident p s)
    | none => refused s) s

/-- GRAPHCLOSE (20 R381). -/
def execGraphclose (src : PktSrc) (f : List PktField) (s : State) : Host.Outcome State Fault Refusal := closeOp 1 src f s

/-! ## Launches (20 R382, 08 R168) -/

/-- Whether VIEWV meets 05 R118. -/
def viewVFits (w : Word) : Bool :=
  let n := bits w.toNat 26 20
  bits w.toNat 31 27 == 0 && bits w.toNat 6 0 == 0 &&
    decide (1 ≤ n ∧ n ≤ 96 ∧ bits w.toNat 19 7 * 128 + n * 128 ≤ 0x100000)

/-- Whether VIEWT or VIEWA meets 10 R193. -/
def viewTFits (w : Word) : Bool :=
  let n := bits w.toNat 27 24
  let b := bits w.toNat 19 16
  bits w.toNat 31 28 == 0 && bits w.toNat 23 20 == 0 && bits w.toNat 15 0 == 0 &&
    (n == 0 || decide (n ≤ 8 ∧ 4 ≤ b ∧ b + n ≤ 16))

/-- The stream that a launch names, when it can be the launch's: none for all ones or an absent field. -/
def launchStream (f : List PktField) : Option Word :=
  if (fieldWords f 0xE).isNone ∨ fieldNum f 0xE 0 = 0xFFFFFFFF then none else some (BitVec.ofNat 32 (fieldNum f 0xE 0))

/-- Whether a stream is open and no launch names it (20 R382, check 6). -/
def streamOpenTo (s : State) (ctx : Nat) : Option Word → Bool
  | none => true
  | some h =>
    match streamNamed s ctx h with
    | some n => (streamAt s n).state == .opened && !(streamAt s n).dispatch
    | none => false

/-- The checks of LAUNCH, in order: the status (20 R382). -/
def launchStatus (s : State) (ctx : Nat) (f : List PktField) : Nat :=
  let v := (fieldWords f 9).getD []
  let r := (fieldWords f 8).getD []
  let q := fieldNum f 0xA 0
  match levelNamed s ctx 1 (fieldNum f 0xD 0) with
  | none => 4
  | some g =>
    let l := tgetD s.levels g default
    if l.closed || l.done then 4
    else if levelCancelled s 3 g then 8
    else if !(viewVFits (v.getD 0 0) && viewTFits (v.getD 1 0) && viewTFits (v.getD 2 0)) then 4
    else if decide (64 ≤ q) || (queueAt s q).ctx != some ctx then 4
    else if !taskValid r (taskDet r) then 4
    else if !streamOpenTo s ctx (launchStream f) then 4
    else if levelCode f ≠ 0 ∨ identTaken s ctx 0 (levelIdent f) then 4
    else 0

/-- The launch that a packet describes; its ordinal and key are fixed when its seed is pushed. -/
def newLaunch (s : State) (ctx : Nat) (f : List PktField) : Launch :=
  let v := (fieldWords f 9).getD []
  { ctx := ctx, ident := levelIdent f, graph := (levelNamed s ctx 1 (fieldNum f 0xD 0)).getD 0, counter := 0, cancel := false,
    viewV := v.getD 0 0, viewT := v.getD 1 0, viewA := v.getD 2 0, det := taskDet ((fieldWords f 8).getD []), key := 0,
    ordinal := 0, stream := launchStream f,
    banks := if (fieldWords f 0xF).isSome then some (BitVec.ofNat 64 (field64 f 0xF 0)) else none,
    bankPerm := bitAt (fieldNum f 0xF 2) 0, visited := [], seams := 0, lateDie := 0, done := false }

/-- The status that a launch which waits has come to, in the order of the checks of 20 R382; 0 when it can still be pushed: its
graph has not completed (4) and is not cancelled (8; 08 R181), its queue is its context's, and its stream is still free to it
(4). -/
def seedStatus (s : State) (l : Launch) (q : Nat) : Nat :=
  if levelDone s 1 l.graph then 4
  else if levelCancelled s 3 l.graph then 8
  else if (queueAt s q).ctx == some l.ctx && streamOpenTo s l.ctx l.stream && !(identTaken s l.ctx 0 l.ident) then 0
  else 4

/-- A launch's stream is in dispatch mode from now on (12 R250). -/
def takeStream (l : Launch) (s : State) : State :=
  match l.stream.bind (streamNamed s l.ctx) with
  | some n => modStream n (fun x => { x with dispatch := true }) s
  | none => s

/-- The launch with the properties that its seed's push fixes: its ordinal, and the top of the seed stack. -/
def fixLaunch (s : State) (l : Launch) : Launch :=
  { l with ordinal := (tgetD s.levels l.graph default).made, key := (tgetD s.contexts l.ctx default).seeds.headD 0 }

/-- The state with a launch begun under number `s.uid`: its graph counts it (08 R166). -/
def beginLaunch (l : Launch) (s : State) : State :=
  takeStream l
    { s with
      uid := s.uid + 1
      launches := tset s.launches s.uid (fixLaunch s l)
      levels := tmod s.levels l.graph (fun g => { g with counter := g.counter + 1, made := g.made + 1 }) }

/-- A seed's push (20 R382): done, or what kept it from being made, with the asynchronous record of a sump page that fails
(08 R172) and nothing else. -/
def pushSeed (l : Launch) (q : Nat) (r : List Word) (s : State) : Pushed × State :=
  match pushTask q r s.uid (beginLaunch l s) with
  | (.done, s') => (.done, settleQueues s')
  | (.full, _) => (.full, s)
  | (.page, _) => (.page, postSump l.ctx ((queueAt s q).entry (queueAt s q).t) s)

/-- LAUNCH (20 R382). Pushes its seed, or waits until the task queue can take it. -/
def execLaunch (src : PktSrc) (f : List PktField) (s : State) : Host.Outcome State Fault Refusal :=
  packetOp src f false .own [8, 9, 0xA, 0xC, 0xD] (fun ctx s =>
    let st := launchStatus s ctx f
    if st ≠ 0 then .fin st s
    else
      let l := newLaunch s ctx f
      let r := (fieldWords f 8).getD []
      match pushSeed l (fieldNum f 0xA 0) r s with
      | (.done, s') => .fin 0 s'
      | (_, s') => .hold (.seed l (fieldNum f 0xA 0) r) s') s

/-- LAUNCH_SEED_PUSH (20 R382). A LAUNCH that waits pushes its seed as soon as the queue can take it, its parser running. -/
def execLaunchSeedPush (src : PktSrc) (s : State) : Host.Outcome State Fault Refusal :=
  .next (match heldBy s src with
    | some (.seed l q r) =>
      if !(runningSources s).contains src then s
      else if seedStatus s l q ≠ 0 then finishPacket src (seedStatus s l q) s
      else match pushSeed l q r s with
        | (.done, s') => finishPacket src 0 s'
        | _ => s
    | _ => s)

/-! ## CANCEL, WAIT, FENCE (20 R379, R383) -/

/-- CANCEL (20 R379, 08 R181). -/
def execCancel (src : PktSrc) (f : List PktField) (s : State) : Host.Outcome State Fault Refusal :=
  packetOp src f false .own [0xC] (fun ctx s =>
    match levelNamed s ctx (levelCode f) (levelIdent f) with
    | some id =>
      if levelDone s (levelCode f) id then refused s else .fin 0 (settleQueues (setCancel (levelCode f) id s))
    | none => refused s) s

/-- WAIT (20 R383). Holds its parser until the instance has completed. -/
def execWaitPacket (src : PktSrc) (f : List PktField) (s : State) : Host.Outcome State Fault Refusal :=
  packetOp src f false .own [0xC] (fun ctx s =>
    match levelNamed s ctx (levelCode f) (levelIdent f) with
    | some id => .hold (.level ctx (levelCode f) id) s
    | none => refused s) s

/-- FENCE (20 R383). The store and the event are made when the instance completes, or at once when it has. -/
def execFencePacket (src : PktSrc) (f : List PktField) (s : State) : Host.Outcome State Fault Refusal :=
  packetOp src f false .own [0xC, 0x10] (fun ctx s =>
    match levelNamed s ctx (levelCode f) (levelIdent f) with
    | some id =>
      let x : Fence := { ctx := ctx, level := levelCode f, target := id, ident := levelIdent f, va := field64 f 0x10 0,
                         value := BitVec.ofNat 64 (field64 f 0x10 2) }
      if levelDone s (levelCode f) id then .fin 0 (fireFence x s) else .fin 0 { s with fences := s.fences ++ [x] }
    | none => refused s) s

/-! ## The seed stack (20 R384) -/

/-- Puts a key on a context's seed stack; 0x0006 at depth 16. -/
def pushKey (ctx : Nat) (key : DWord) (s : State) : PktEnd :=
  if 16 ≤ (tgetD s.contexts ctx default).seeds.length then .fin 6 s
  else .fin 0 (modCtx ctx (fun x => { x with seeds := key :: x.seeds }) s)

/-- SEEDPUSH (20 R384). -/
def execSeedpush (src : PktSrc) (f : List PktField) (s : State) : Host.Outcome State Fault Refusal :=
  packetOp src f false .own [7] (fun ctx s => pushKey ctx (BitVec.ofNat 64 (field64 f 7 0)) s) s

/-- SEEDPOP (20 R384). -/
def execSeedpop (src : PktSrc) (f : List PktField) (s : State) : Host.Outcome State Fault Refusal :=
  packetOp src f false .own [] (fun ctx s =>
    if (tgetD s.contexts ctx default).seeds.length ≤ 1 then .fin 6 s
    else .fin 0 (modCtx ctx (fun x => { x with seeds := x.seeds.drop 1 }) s)) s

/-- The child key of a fork index (20 R384, 06 R142). -/
def childKey (key : DWord) (n : Word) : DWord :=
  let r := philox 10 n 0 0 0 (key.setWidth 32) ((key >>> 32).setWidth 32)
  r.2.1 ++ r.1

/-- SEEDFORK (20 R384). -/
def execSeedfork (src : PktSrc) (f : List PktField) (s : State) : Host.Outcome State Fault Refusal :=
  packetOp src f false .own [0x16] (fun ctx s =>
    pushKey ctx (childKey ((tgetD s.contexts ctx default).seeds.headD 0) (BitVec.ofNat 32 (fieldNum f 0x16 0))) s) s

end Sys2Proof.Machine
end

