-- ==== Sys2Proof/Machine/Background.lean ====
section
/-!
DEFINITION. What the device does of itself (log entry 1): for each kind of step, the one of that kind that is next to take
place, when there is one.
-/
namespace Sys2Proof.Machine

/-- A step of the device of some kind, when one is due: the state after it. -/
abbrev Due := State → Option State

/-- The state after a step that has taken place. -/
def Due.of (r : Host.Outcome State Fault Refusal) : Option State :=
  match r with
  | .next t => some t
  | _ => none

/-- The first entry of a list that meets a condition, with what is done for it. -/
def dueFor {α : Type} (l : List α) (ok : α → Bool) (act : α → Host.Outcome State Fault Refusal) : Option State :=
  (l.find? ok).bind (fun a => Due.of (act a))

/-- What is done for every entry of a list that meets a condition, one after another, when there is one. -/
def dueEach {α : Type} (l : List α) (ok : State → α → Bool) (act : α → State → Host.Outcome State Fault Refusal) (s : State) :
    Option State :=
  if l.any (ok s) then some (l.foldl (fun s a => if ok s a then (Due.of (act a s)).getD s else s) s) else none

/-- The crews with their threads. -/
def allThreads (s : State) : List (Nat × Crew × Nat × Thread) :=
  s.crews.flatMap (fun e => e.2.threads.map (fun t => (e.1, e.2, t.1, t.2)))

/-- Partitions with crews, as cluster × 4 + partition. -/
def usedPartitions (s : State) : List Nat := s.crews.foldl (fun l e => sadd l (e.1 / 48)) []

/-- The clusters that crews stand on, or whose record has changed. -/
def usedClusters (s : State) : List Nat :=
  s.crews.foldl (fun l e => sadd l (clusterOf e.1)) (s.clusters.map (·.1))

/-- Whether a context's crews are on the device and may issue. -/
def onDevice (s : State) (ctx : Nat) : Bool :=
  match tget s.contexts ctx with
  | some x => x.status == .resident && x.saved.isNone
  | none => false

/-! ## Threads and crews -/

/-- The operations that can end now, with their crews. -/
def endingOps (s : State) : List (Nat × Op) :=
  s.crews.flatMap (fun e => (e.2.ops.filter (fun o => !o.done && !(opStays s o) && !(opFlying s o.id))).map (fun o => (e.1, o)))

/-- The operation of a list that was issued first. -/
def oldestOp : List (Nat × Op) → Option (Nat × Op)
  | [] => none
  | x :: xs =>
    match oldestOp xs with
    | some y => if y.2.id < x.2.id then some y else some x
    | none => some x

/-- LOAD_RETURN: the oldest operation first, so that none is passed over for ever (05 R116). -/
def dueLoad (s : State) : Option State :=
  (oldestOp (endingOps s)).bind (fun x => Due.of (execLoadReturn x.1 x.2.id s))

/-- FAULT_RECORD_POST. -/
def duePost (s : State) : Option State :=
  dueFor s.contexts (fun e => !e.2.fq.produced.isEmpty) (fun e => execFaultRecordPost e.1 s)

/-- Whether the sleep of a thread's group is over. -/
def sleepOver (s : State) (slot k : Nat) (c : Crew) : Bool :=
  match (groupOf s slot k).bind (sleepsUntil s) with
  | some u => onDevice s c.ctx && (decide (u ≤ crewClock s c) || wakes c)
  | none => false

/-- The threads that sleep, by slot and key. -/
def sleepers (s : State) : List (Nat × Nat) :=
  (allThreads s).filterMap (fun x => (sleepEnd x.2.2.2).map (fun _ => (x.1, x.2.2.1)))

/-- SLEEP_EXPIRY, for every sleep that is over (05 R116). -/
def dueSleep (s : State) : Option State :=
  dueEach (sleepers s) (fun s x => sleepOver s x.1 x.2 (crewAt s x.1)) (fun x => execSleepExpiry x.1 (tidOf x.2)) s

/-- Whether a crew is to leave the active set. -/
def leavesActive (s : State) (slot : Nat) : Bool :=
  let c := crewAt s slot
  onDevice s c.ctx && c.active && idleCrew s slot c

/-- CREW_TO_PENDING, for every crew that leaves the active set. -/
def dueIdle (s : State) : Option State := dueEach (s.crews.map (·.1)) leavesActive execCrewToPending s

/-- Whether a crew enters a partition's active set. -/
def entersActive (s : State) (p : Nat) : Bool :=
  decide ((activeIn s (p / 4) (p % 4)).length < 8) && (longestReady s (p / 4) (p % 4)).isSome

/-- PENDING_CREW_ENTRY, for every partition with a free place. -/
def dueEntry (s : State) : Option State :=
  dueEach (usedPartitions s) entersActive (fun p => execPendingCrewEntry (p / 4) (p % 4)) s

/-- Whether a partition's active set is to rotate. -/
def rotates (s : State) (p : Nat) : Bool :=
  match longestReady s (p / 4) (p % 4) with
  | some r => decide (r.2 + 1024 ≤ s.clock ∧ 8 ≤ (activeIn s (p / 4) (p % 4)).length)
  | none => false

/-- ACTIVE_CREW_ROTATION, for every partition that is to rotate (05 R116). -/
def dueRotation (s : State) : Option State :=
  dueEach (usedPartitions s) rotates (fun p => execActiveCrewRotation (p / 4) (p % 4)) s

/-- HELPER_SUSPEND. -/
def dueSuspend (s : State) : Option State :=
  dueFor (allThreads s) (fun x => suspendable s x.1 x.2.2.1)
    (fun x => execHelperSuspend x.1 ((x.2.2.1 - 32) / 32) (x.2.2.1 % 32) s)

/-- Whether a suspended helper can take a lane. -/
def resumable (s : State) (slot k : Nat) (c : Crew) (t : Thread) : Bool :=
  match t.helper with
  | some h => onDevice s c.ctx && (suspendedOf c h.recruiter).contains k && (resumeLane s slot k h.recruiter).isSome
  | none => false

/-- HELPER_RESUME. -/
def dueResume (s : State) : Option State :=
  dueFor (allThreads s) (fun x => resumable s x.1 x.2.2.1 x.2.1 x.2.2.2)
    (fun x => execHelperResume x.1 ((x.2.2.1 - 32) / 32) (x.2.2.1 % 32) s)

/-- CREW_END. -/
def dueEnd (s : State) : Option State := dueFor s.crews (fun e => crewLeaves s e.1 e.2) (fun e => execCrewEnd e.1 s)

/-! ## Tasks -/

/-- SEAM_COMPLETE. -/
def dueSeam (s : State) : Option State :=
  dueFor s.seams (fun e => e.2.ended == e.2.crewCount) (fun e => execSeamComplete e.1 s)

/-- Whether a die's hoist has something to do: a record to discard, a head to refuse, or one that has room. -/
def hoistReady (s : State) (die : Nat) : Bool :=
  s.queues.any (fun e => discards s e.2) ||
    (match chosenQueue s die with
      | none => false
      | some q => (match (queueAt s q).chip with
        | [] => false
        | t :: _ =>
          let l := tgetD s.launches t.launch default
          let whole := taskCoop t.words || nextTicket s l != 0xFFFFFFFF
          let fit := fun rooms => (pickClusters rooms (taskCrews t.words) (taskClusters t.words) whole).isSome
          !(taskValid t.words l.det) || !(fit (dieEmptyRooms s die l)) || (mayDispatch s die l && fit (dieRooms s die l)) ||
            tget s.chosen die != some q))

/-- HOIST_DISPATCH. -/
def dueHoist (s : State) : Option State := dueFor [0, 1] (hoistReady s) (fun d => execHoistDispatch d s)

/-- CREW_PLACEMENT. -/
def duePlacement (s : State) : Option State :=
  dueFor s.seams (fun e => ctxReady s (tgetD s.launches e.2.launch default).ctx && nextHasRoom s e.1)
    (fun e => execCrewPlacement e.1 s)

/-- Whether a context has something to be placed, and a place for it. -/
def placeable (s : State) (ctx : Nat) (x : Context) : Bool :=
  x.status == .resident && (match x.saved with
    | some v => (match readSave s x v with
      | none => true
      | some v => (restorePlaces s ctx v).isSome)
    | none => !x.toPlace.isEmpty && (handlerCluster s ctx).isSome)

/-- HANDLER_PLACEMENT. -/
def dueHandler (s : State) : Option State :=
  dueFor s.contexts (fun e => placeable s e.1 e.2) (fun e => execHandlerPlacement e.1 s)

/-- WATCHDOG_EXPIRY. -/
def dueWatchdog (s : State) : Option State :=
  dueFor s.contexts (fun e => watchdogDue e.2) (fun e => execWatchdogExpiry e.1 s)

/-! ## Homes -/

/-- Whether an update is not held back by an older one of its crew to its home. -/
def updateFree (s : State) (u : Update) : Bool :=
  !((s.updates.takeWhile (fun x => x.id != u.id)).any (fun x => x.crew == u.crew && x.home == u.home))

/-- Whether a refused update would be accepted now. -/
def updateAccepted (s : State) (u : Update) : Bool :=
  match streamNamed s u.ctx u.handle with
  | none => true
  | some n => decide (u.ticket ≤ (streamAt s n).w) || bufferRoom s n u.home

/-- TICKET_UPDATE_ARRIVAL. -/
def dueUpdate (s : State) : Option State :=
  dueFor s.updates (fun u => u.tries == 0 && updateFree s u) (fun u => execTicketUpdateArrival u.id s)

/-- TICKET_UPDATE_RETRY. -/
def dueRetry (s : State) : Option State :=
  dueFor s.updates (fun u => u.tries != 0 && updateFree s u && updateAccepted s u) (fun u => execTicketUpdateRetry u.id s)

/-- TICKET_STALL_EXPIRY. -/
def dueStall (s : State) : Option State :=
  dueFor s.streams (fun e => stallCounts s e.2 && decide ((tgetD s.contexts e.2.ctx default).stallLimit ≤ e.2.stall))
    (fun e => execTicketStallExpiry e.1 s)

/-- ATOMIC_AT_HOME, unless the schedule lets atomics lag. -/
def dueAtom (s : State) : Option State :=
  if s.lag then none else dueFor s.atoms (fun _ => true) (fun a => execAtomicAtHome a.id s)

/-! ## Engines -/

/-- The copies of all crews. -/
def allCopies (s : State) : List (Nat × Copy) := s.crews.flatMap (fun e => e.2.copies.map (fun cp => (e.1, cp)))

/-- The next part of a copy that can be done. -/
def nextPart (s : State) (slot : Nat) (cp : Copy) : Option Nat :=
  if !(copyGoes s slot cp) then none
  else
    match cp.left.find? (fun r => decide (r.1 < r.2)) with
    | some r => some r.1
    | none => if cp.kind = .cpout ∨ !cp.net.isEmpty then cp.todo.head?.map (totalUnits cp + ·) else none

/-- COPY_ARRIVAL. -/
def dueCopy (s : State) : Option State :=
  ((allCopies s).findSome? (fun x => (nextPart s x.1 x.2).map (fun u => (x.1, x.2.id, u)))).bind (fun x => Due.of (execCopyArrival x.1 x.2.1 x.2.2 s))

/-- NET_RETRANSMIT_TIMEOUT. -/
def dueResend (s : State) : Option State :=
  dueFor (allCopies s) (fun x => resendDue s x.1 x.2) (fun x => execNetRetransmitTimeout x.1 x.2.id s)

/-- NET_TRANSPORT_FAILURE. -/
def dueFailure (s : State) : Option State :=
  dueFor (allCopies s) (fun x => failureDue s x.1 x.2) (fun x => execNetTransportFailure x.1 x.2.id s)

/-- MATRIX_STEP. -/
def dueMatrix (s : State) : Option State :=
  dueFor (usedClusters s) (fun cl => (nextServed s cl).isSome || (clusterAt s cl).served.isSome) (fun cl => execMatrixStep cl s)

/-- POST_OPERATOR. -/
def dueJob (s : State) : Option State :=
  dueFor s.crews (fun e => ctxSteps s e.2.ctx && postWaits e.2) (fun e => execPostOperator e.1 s)

/-- The ports of a cluster at which the oldest access of a direction can be performed. -/
def readyPorts (s : State) (push : Bool) : List (Nat × Nat) :=
  s.clusters.flatMap (fun e => (List.range 32).filterMap (fun b =>
    (fifoNext s push e.1 b).map (fun _ => (e.1, b))))

/-- FIFO_PUSH. -/
def duePush (s : State) : Option State := dueFor (readyPorts s true) (fun _ => true) (fun x => execFifoPush x.1 x.2 s)

/-- FIFO_POP. -/
def duePop (s : State) : Option State := dueFor (readyPorts s false) (fun _ => true) (fun x => execFifoPop x.1 x.2 s)

/-- Whether the switch that waits longest at a cluster is to take place or to fail. -/
def switchDue (s : State) (cl : Nat) : Bool :=
  match (clusterAt s cl).switches with
  | [] => false
  | r :: _ => (switches (clusterAt s cl) r.value && ownedByOther (clusterAt s cl) r.ctx) || switchReady s cl r.ctx r.value

/-- BANK_SWITCH. -/
def dueSwitch (s : State) : Option State := dueFor (s.clusters.map (·.1)) (switchDue s) (fun cl => execBankSwitch cl s)

/-! ## Contexts, pages, packets -/

/-- CONTEXT_SAVE. -/
def dueSave (s : State) : Option State :=
  dueFor s.contexts (fun e => e.2.status == .preempting && !(copiesOut s e.1)) (fun e => execContextSave e.1 s)

/-- KILL_COMPLETE. -/
def dueKill (s : State) : Option State :=
  dueFor s.contexts (fun e => e.2.status == .killing && e.2.fq.produced.isEmpty) (fun e => execKillComplete e.1 s)

/-- MIGRATION. -/
def dueMigration (s : State) : Option State :=
  dueFor s.migrations (fun e => !(migrationWaits s e.2)) (fun e => execMigration e.1 s)

/-- Whether a queue can take one more record (08 R172, R173). -/
def seedRoom (s : State) (l : Launch) (q : Nat) : Bool :=
  let x := queueAt s q
  (x.spilled == 0 && decide (x.chip.length < 32)) ||
    (decide (x.spilled < x.size) && pagesMeet s l.ctx (x.entry x.t) 64 (firmPage s))

/-- Whether a LAUNCH that waits can go on. -/
def seedDue (s : State) (src : PktSrc) : Bool :=
  match heldBy s src with
  | some (.seed l q _) => seedStatus s l q != 0 || seedRoom s l q
  | _ => false

/-- LAUNCH_SEED_PUSH. -/
def dueSeed (s : State) : Option State := dueFor (runningSources s) (seedDue s) (fun src => execLaunchSeedPush src s)

/-- Whether a QUNBIND that waits can end. -/
def unbindDue (s : State) (src : PktSrc) : Bool :=
  match heldBy s src with
  | some (.unbind ctx q) => (queueAt s q).ctx != some ctx || (queueAt s q).isEmpty
  | _ => false

/-- QUEUE_UNBIND_COMPLETE. -/
def dueUnbind (s : State) : Option State :=
  dueFor (runningSources s) (unbindDue s) (fun src => execQueueUnbindComplete src s)

/-- QUEUE_MAP. -/
def dueMap (s : State) : Option State :=
  if (freeHwSlot s).isSome && !(waitingQueues s).isEmpty && s.fabric.loaded then Due.of (execQueueMap s) else none

/-- QUEUE_IDLE_UNMAP. -/
def dueUnmap (s : State) : Option State :=
  if s.fabric.loaded then dueFor (s.fabric.slots.map (fun e => e.2.queue)) (idleDue s) (fun n => execQueueIdleUnmap n s)
  else none

/-- QUEUE_OVERDUE_SWAP. -/
def dueSwap (s : State) : Option State :=
  if s.fabric.loaded && (freeHwSlot s).isNone && (oldestOverdue s).isSome && (longestMapped s).isSome then
    Due.of (execQueueOverdueSwap s)
  else none

/-- Whether a turn of a mapped queue's parser would do something. -/
def pollDue (s : State) (n : Nat) : Bool :=
  let q := qcbAt s n
  q.en && !q.err && q.held.isNone &&
    (if q.kidx = q.ridx then q.state != 0 || s.fabric.slots.any (fun e => e.2.queue == n && e.2.idle.isNone)
     else
       match q.header, ringWord s q (q.ridx + 1).toNat with
       | some h, _ => q.state != 2 || decide (bits h.toNat 31 16 ≤ (q.kidx - q.ridx).toNat)
       | none, some g => g.toNat == bits q.ridx.toNat 15 0 || q.state != 1
       | none, none => true)

/-- PACKET_GUARD_POLL. -/
def duePoll (s : State) : Option State :=
  if s.fabric.loaded then dueFor (s.fabric.slots.map (fun e => e.2.queue)) (pollDue s) (fun n => execPacketGuardPoll n s)
  else none

/-- EVENT_RESEND. -/
def dueEvent (s : State) : Option State :=
  if (ownerOf s).isSome then
    dueFor s.events (fun e => e.sent == 0 || decide (e.last + 1000 ≤ s.wall)) (fun e => execEventResend e.num.toNat s)
  else none

/-- LEASE_LAPSE. -/
def dueLapse (s : State) : Option State :=
  dueFor [0] (fun _ => match leaseEnd s.owner with
    | some t => decide (t ≤ s.wall)
    | none => false) (fun _ => execLeaseLapse s)

/-- RECOVERY_SESSION_TIMEOUT. -/
def dueSession (s : State) : Option State :=
  dueFor [0] (fun _ => match s.boot.session with
    | some x => decide (x.last + 10000000 ≤ s.wall)
    | none => false) (fun _ => execRecoverySessionTimeout s)

/-- The kinds of step, in the order in which the device looks for them. -/
def dueKinds : List Due :=
  [dueLoad, duePost, dueSleep, dueIdle, dueEntry, dueRotation, dueSuspend, dueResume, dueEnd, dueSeam, dueHoist,
   duePlacement, dueHandler, dueWatchdog, dueUpdate, dueRetry, dueStall, dueAtom, dueCopy, dueMatrix, dueJob, duePush,
   duePop, dueSwitch, dueSave, dueKill, dueMigration, dueSeed, dueUnbind, dueMap, dueUnmap, dueSwap, duePoll, dueEvent,
   dueLapse, dueSession, dueResend, dueFailure]

/-- The first kind from number `n` on of which a step is due: its number, and the state after the step. -/
def dueFrom (s : State) (n : Nat) : List Due → Option (Nat × State)
  | [] => none
  | f :: fs =>
    match f s with
    | some t => some (n, t)
    | none => dueFrom s (n + 1) fs

end Sys2Proof.Machine
end

