-- ==== Sys2Proof/Machine/Floating.lean ====
section
/-!
DEFINITION. Meanings of the floating-point instructions (04 R83 to R99).
-/
namespace Sys2Proof.Machine

/-! ## Shapes -/

/-- The operand B of a floating-point instruction: with K = 1, the integer in the operand format (04 R87). -/
def operandF (f : FpFmt) (rd : Reader) (k : Bool) (b : Sel) : Nat := if k then f.ofInt b.toInt else (rd b.toNat).toNat

/-- The 64-bit operand B. -/
def operandD (rd : Reader) (k : Bool) (b : Sel) : Nat := if k then fp64.ofInt b.toInt else (pairOf rd b).toNat

/-- An FP32 result as a word. -/
def word32 (r : Nat × FpFlags) : List Word × FpFlags := ([BitVec.ofNat 32 r.1], r.2)

/-- An FP64 result as a pair. -/
def word64 (r : Nat × FpFlags) : List Word × FpFlags := (splitWords (BitVec.ofNat 64 r.1), r.2)

/-- FP32 of A and B (04 R88). -/
def fp2 (i : Instr) (d a b : Sel) (k : Bool) (f : Nat → Nat → Nat → Nat × FpFlags) (s : State) :
    Host.Outcome State Fault Refusal :=
  fpOp i d (fun rm rd => word32 (f rm (rd a.toNat).toNat (operandF fp32 rd k b))) s

/-- FUNARY (04 R91). -/
def fp1 (i : Instr) (d a : Sel) (f : Nat → Nat → Nat × FpFlags) (s : State) : Host.Outcome State Fault Refusal :=
  fpOp i d (fun rm rd => word32 (f rm (rd a.toNat).toNat)) s

/-- FP64 of A and B (04 R97). -/
def dp2 (i : Instr) (d a b : Sel) (k : Bool) (f : Nat → Nat → Nat → Nat × FpFlags) (s : State) :
    Host.Outcome State Fault Refusal :=
  fpOp i d (fun rm rd => word64 (f rm (pairOf rd a).toNat (operandD rd k b))) s

/-- Both halves of packed operands, with their flags together (04 R83, R92). -/
def halves (f : Nat → Nat → Nat → Nat × FpFlags) (d a b : Nat) : List Word × FpFlags :=
  let lo := f (d % 65536) (a % 65536) (b % 65536)
  let hi := f (d / 65536) (a / 65536) (b / 65536)
  ([BitVec.ofNat 32 (lo.1 + hi.1 * 65536)], lo.2.or hi.2)

/-- Packed 16-bit arithmetic of D, A and B; with K = 1 the constant stands in both halves (04 R87, R92). -/
def packed (i : Instr) (fm : FpFmt) (d a b : Sel) (k : Bool) (f : Nat → Nat → Nat → Nat → Nat × FpFlags) (s : State) :
    Host.Outcome State Fault Refusal :=
  fpOp i d (fun rm rd =>
    halves (f rm) (rd d.toNat).toNat (rd a.toNat).toNat
      (if k then fm.ofInt b.toInt * 65537 else (rd b.toNat).toNat)) s

/-- The further checks of registers that only a control word names (04 R96, R99): assay mode, and poison. `rs` are read
and `ws` written, as selectors. -/
def namedTrap (s : State) (slot t : Nat) (rs ws : List Nat) : Option Trap :=
  let c := crewAt s slot
  let out := fun (n : Nat) => decide (n < 96) && !isHelperKey t && decide (vcount c ≤ n)
  if (rs ++ ws).any out then some (trapC 0x01)
  else if assayOn c t && (rs.any (fun n => readsEarly c s.clock t (place t n)) || ws.any (fun n => writesEarly c t (place t n)))
  then some (trapC 0x03)
  else if rs.any (poisonedReg c t) then some (trapC 0x0B)
  else none

/-- FCVT and DCVT: each thread's own check, then its conversion; the flags of the threads that convert go to FPCTL
(04 R94, R96, R99). -/
def convertOp (i : Instr) (d : Sel) (b : Sel) (chk : Reader → Option Trap) (more : Reader → List Nat × List Nat) (val : Nat → Reader → List Word × FpFlags)
    (s : State) : Host.Outcome State Fault Refusal :=
  issue i (fun g s =>
    let once := isScalar d && isScalar b
    let one := fun t =>
      match chk (reader s g t) with
      | some x => some x
      | none => namedTrap s g.slot t (more (reader s g t)).1 (more (reader s g t)).2
    let fails := spread once g (failures one (workers once g))
    proceed (fun g s' =>
      let f := fun t => val (roundMode s g.slot) (reader s g t)
      let ks := workers (isScalar d) g
      advance i g (holdFloat i g <| raiseFlags g.slot (ks.foldl (fun a t => a.or (f t).2) FpFlags.none)
        (writeResult i d (fun t => (f t).1) g s'))) (settle g fails s)) s

/-! ## Meanings -/

/-- FADD (04 R88). D ← A + B. -/
def execFadd (d a b : Sel) (k : Bool) (st : BitVec 3) (s : State) : Host.Outcome State Fault Refusal :=
  fp2 (.fadd d a b k st) d a b k fp32.add s

/-- FSUB (04 R88). D ← A − B. -/
def execFsub (d a b : Sel) (k : Bool) (st : BitVec 3) (s : State) : Host.Outcome State Fault Refusal :=
  fp2 (.fsub d a b k st) d a b k fp32.sub s

/-- FMUL (04 R88). D ← A × B. -/
def execFmul (d a b : Sel) (k : Bool) (st : BitVec 3) (s : State) : Host.Outcome State Fault Refusal :=
  fp2 (.fmul d a b k st) d a b k fp32.mul s

/-- FFMA (04 R88). D ← A × B + D, one rounding. -/
def execFfma (d a b : Sel) (k : Bool) (st : BitVec 3) (s : State) : Host.Outcome State Fault Refusal :=
  fpOp (.ffma d a b k st) d (fun rm rd =>
    word32 (fp32.fma rm (rd a.toNat).toNat (operandF fp32 rd k b) (rd d.toNat).toNat)) s

/-- FMIN (04 R89). minimumNumber. -/
def execFmin (d a b : Sel) (k : Bool) (st : BitVec 3) (s : State) : Host.Outcome State Fault Refusal :=
  fp2 (.fmin d a b k st) d a b k (fun _ x y => fp32.minMax false x y) s

/-- FMAX (04 R89). maximumNumber. -/
def execFmax (d a b : Sel) (k : Bool) (st : BitVec 3) (s : State) : Host.Outcome State Fault Refusal :=
  fp2 (.fmax d a b k st) d a b k (fun _ x y => fp32.minMax true x y) s

/-- FCMP (04 R90). P ← the condition on A and B. -/
def execFcmp (p : BitVec 3) (c : BitVec 4) (a b : Sel) (k : Bool) (st : BitVec 3) (s : State) : Host.Outcome State Fault Refusal :=
  fpPredOp (.fcmp p c a b k st) p (fun rd => fp32.compare c.toNat (rd a.toNat).toNat (operandF fp32 rd k b)) s

/-- FABS (04 R91). Bit 31 cleared, no flags. -/
def execFabs (d a : Sel) (st : BitVec 3) (s : State) : Host.Outcome State Fault Refusal :=
  fp1 (.fabs d a st) d a (fun _ x => (x % 2 ^ 31, .none)) s

/-- FNEG (04 R91). Bit 31 inverted, no flags. -/
def execFneg (d a : Sel) (st : BitVec 3) (s : State) : Host.Outcome State Fault Refusal :=
  fp1 (.fneg d a st) d a (fun _ x => ((x + 2 ^ 31) % 2 ^ 32, .none)) s

/-- FRCP (04 R91). 1 / A in RM. -/
def execFrcp (d a : Sel) (st : BitVec 3) (s : State) : Host.Outcome State Fault Refusal :=
  fp1 (.frcp d a st) d a recip s

/-- FRSQ (04 R91). 1 / √A, nearest even. -/
def execFrsq (d a : Sel) (st : BitVec 3) (s : State) : Host.Outcome State Fault Refusal :=
  fp1 (.frsq d a st) d a (fun _ x => recipSqrt x) s

/-- FSQRT (04 R91). √A in RM. -/
def execFsqrt (d a : Sel) (st : BitVec 3) (s : State) : Host.Outcome State Fault Refusal :=
  fp1 (.fsqrt d a st) d a sqrtFp s

/-- FEXP2 (04 R91). 2^A, nearest even. -/
def execFexp2 (d a : Sel) (st : BitVec 3) (s : State) : Host.Outcome State Fault Refusal :=
  fp1 (.fexp2 d a st) d a (fun _ x => exp2Fp x) s

/-- FLOG2 (04 R91). log2 A, nearest even. -/
def execFlog2 (d a : Sel) (st : BitVec 3) (s : State) : Host.Outcome State Fault Refusal :=
  fp1 (.flog2 d a st) d a (fun _ x => log2Fp x) s

/-- FSIN (04 R91). sin(π × A), nearest even. -/
def execFsin (d a : Sel) (st : BitVec 3) (s : State) : Host.Outcome State Fault Refusal :=
  fp1 (.fsin d a st) d a (fun _ x => sinPi x) s

/-- FCOS (04 R91). cos(π × A), nearest even. -/
def execFcos (d a : Sel) (st : BitVec 3) (s : State) : Host.Outcome State Fault Refusal :=
  fp1 (.fcos d a st) d a (fun _ x => cosPi x) s

/-- FFLOOR (04 R91). The greatest integral value not above A. -/
def execFfloor (d a : Sel) (st : BitVec 3) (s : State) : Host.Outcome State Fault Refusal :=
  fp1 (.ffloor d a st) d a (fun _ x => roundIntegral 3 x) s

/-- FCEIL (04 R91). The least integral value not below A. -/
def execFceil (d a : Sel) (st : BitVec 3) (s : State) : Host.Outcome State Fault Refusal :=
  fp1 (.fceil d a st) d a (fun _ x => roundIntegral 2 x) s

/-- FTRUNC (04 R91). A rounded toward zero to an integral value. -/
def execFtrunc (d a : Sel) (st : BitVec 3) (s : State) : Host.Outcome State Fault Refusal :=
  fp1 (.ftrunc d a st) d a (fun _ x => roundIntegral 1 x) s

/-- FRINT (04 R91). A rounded in RM to an integral value. -/
def execFrint (d a : Sel) (st : BitVec 3) (s : State) : Host.Outcome State Fault Refusal :=
  fp1 (.frint d a st) d a roundIntegral s

/-- FCLASS (04 R91). One bit for the class of A, no flags. -/
def execFclass (d a : Sel) (st : BitVec 3) (s : State) : Host.Outcome State Fault Refusal :=
  fp1 (.fclass d a st) d a (fun _ x => (classify x, .none)) s

/-- HADD2 (04 R92). Each half on its own, rounded in RM. -/
def execHadd2 (d a b : Sel) (k : Bool) (st : BitVec 3) (s : State) : Host.Outcome State Fault Refusal :=
  packed (.hadd2 d a b k st) fp16 d a b k (fun rm _ x y => fp16.add rm x y) s

/-- HMUL2 (04 R92). Each half on its own, rounded in RM. -/
def execHmul2 (d a b : Sel) (k : Bool) (st : BitVec 3) (s : State) : Host.Outcome State Fault Refusal :=
  packed (.hmul2 d a b k st) fp16 d a b k (fun rm _ x y => fp16.mul rm x y) s

/-- HFMA2 (04 R92). Each half on its own, rounded in RM. -/
def execHfma2 (d a b : Sel) (k : Bool) (st : BitVec 3) (s : State) : Host.Outcome State Fault Refusal :=
  packed (.hfma2 d a b k st) fp16 d a b k (fun rm z x y => fp16.fma rm x y z) s

/-- BADD2 (04 R92). Each half on its own, rounded in RM. -/
def execBadd2 (d a b : Sel) (k : Bool) (st : BitVec 3) (s : State) : Host.Outcome State Fault Refusal :=
  packed (.badd2 d a b k st) bf16 d a b k (fun rm _ x y => bf16.add rm x y) s

/-- BMUL2 (04 R92). Each half on its own, rounded in RM. -/
def execBmul2 (d a b : Sel) (k : Bool) (st : BitVec 3) (s : State) : Host.Outcome State Fault Refusal :=
  packed (.bmul2 d a b k st) bf16 d a b k (fun rm _ x y => bf16.mul rm x y) s

/-- BFMA2 (04 R92). Each half on its own, rounded in RM. -/
def execBfma2 (d a b : Sel) (k : Bool) (st : BitVec 3) (s : State) : Host.Outcome State Fault Refusal :=
  packed (.bfma2 d a b k st) bf16 d a b k (fun rm z x y => bf16.fma rm x y z) s

/-- FCVT (04 R93 to R96). Converts an element as each thread's control word says; a bad control word takes 0x01. -/
def execFcvt (d a b : Sel) (st : BitVec 3) (s : State) : Host.Outcome State Fault Refusal :=
  convertOp (.fcvt d a b st) d b
    (fun rd => if fcvtOk (rd b.toNat).toNat then none else some (trapC 0x01))
    (fun rd => (if fmtWidth (bits (rd b.toNat).toNat 12 8) = 32 then [] else [d.toNat], []))
    (fun rm rd => word32 (fcvtWord (rd b.toNat).toNat rm (rd a.toNat).toNat (rd d.toNat).toNat)) s

/-- DADD (04 R97). D ← A + B. -/
def execDadd (d a b : Sel) (k : Bool) (st : BitVec 3) (s : State) : Host.Outcome State Fault Refusal :=
  dp2 (.dadd d a b k st) d a b k fp64.add s

/-- DMUL (04 R97). D ← A × B. -/
def execDmul (d a b : Sel) (k : Bool) (st : BitVec 3) (s : State) : Host.Outcome State Fault Refusal :=
  dp2 (.dmul d a b k st) d a b k fp64.mul s

/-- DFMA (04 R97). D ← A × B + D, one rounding. -/
def execDfma (d a b : Sel) (k : Bool) (st : BitVec 3) (s : State) : Host.Outcome State Fault Refusal :=
  fpOp (.dfma d a b k st) d (fun rm rd =>
    word64 (fp64.fma rm (pairOf rd a).toNat (operandD rd k b) (pairOf rd d).toNat)) s

/-- DCMP (04 R98). P ← the condition on two FP64 values. -/
def execDcmp (p : BitVec 3) (c : BitVec 4) (a b : Sel) (k : Bool) (st : BitVec 3) (s : State) : Host.Outcome State Fault Refusal :=
  fpPredOp (.dcmp p c a b k st) p (fun rd => fp64.compare c.toNat (pairOf rd a).toNat (operandD rd k b)) s

/-- DCVT (04 R99). Converts to or from FP64; the control word names which of D and A is a pair, and an odd one takes 0x04. -/
def execDcvt (d a b : Sel) (st : BitVec 3) (s : State) : Host.Outcome State Fault Refusal :=
  convertOp (.dcvt d a b st) d b
    (fun rd =>
      let w := (rd b.toNat).toNat
      if !dcvtOk w then some (trapC 0x01)
      else if (bits w 4 0 == 0x1F && a.toNat % 2 == 1) || (bits w 12 8 == 0x1F && d.toNat % 2 == 1) then some (trapC 0x04)
      else none)
    (fun rd => pairSeconds d a (rd b.toNat).toNat)
    (fun rm rd =>
      let w := (rd b.toNat).toNat
      let x := if bits w 4 0 = 0x1F then (pairOf rd a).toNat else (rd a.toNat).toNat
      let r := convertElem (bits w 4 0) (bits w 12 8) (controlMode w rm) (bitAt w 16) x
      if bits w 12 8 = 0x1F then word64 r else word32 r) s

end Sys2Proof.Machine
end

