-- ==== Sys2Proof/Machine/Integer.lean ====
section
/-!
DEFINITION. Meanings of the integer, logic, address, bit-field, move, compare and predicate instructions (03 R44 to R56).
-/
namespace Sys2Proof.Machine

/-! ## The functions of the tables -/

/-- The high word of a signed product (03 R45). -/
def mulHigh (a b : Word) : Word := ((a.signExtend 64 * b.signExtend 64) >>> 32).setWidth 32

/-- The high word of an unsigned product (03 R45). -/
def mulHighU (a b : Word) : Word := ((a.setWidth 64 * b.setWidth 64) >>> 32).setWidth 32

/-- SHL: 0 for an amount of 32 or more (03 R45). -/
def shiftL (a b : Word) : Word := if b.toNat < 32 then a <<< b.toNat else 0

/-- SHR (03 R45). -/
def shiftR (a b : Word) : Word := if b.toNat < 32 then a >>> b.toNat else 0

/-- SAR: the sign for an amount of 32 or more (03 R45). -/
def shiftRA (a b : Word) : Word := if b.toNat < 32 then a.sshiftRight b.toNat else a.sshiftRight 31

/-- The lesser as signed values. -/
def minS (a b : Word) : Word := if b.slt a then b else a

/-- The greater as signed values. -/
def maxS (a b : Word) : Word := if a.slt b then b else a

/-- The lesser as unsigned values. -/
def minU (a b : Word) : Word := if b.ult a then b else a

/-- The greater as unsigned values. -/
def maxU (a b : Word) : Word := if a.ult b then b else a

/-- The field width that BFE and BFI use (03 R49). -/
def fieldWidth (b : Word) : Nat :=
  let pos := bits b.toNat 7 0
  let w := bits b.toNat 15 8
  if 32 ≤ pos ∨ w = 0 then 0 else min w (32 - pos)

/-- BFE (03 R49). -/
def extractField (a b : Word) : Word :=
  let n := fieldWidth b
  let f := (a.toNat >>> bits b.toNat 7 0) % 2 ^ n
  if bitAt b.toNat 16 ∧ 0 < n ∧ bitAt f (n - 1) then BitVec.ofNat 32 (f + 2 ^ 32 - 2 ^ n) else
    if n = 0 then 0 else BitVec.ofNat 32 f

/-- BFI: the field of D replaced by the low bits of A (03 R49). -/
def insertField (d a b : Word) : Word :=
  let pos := bits b.toNat 7 0
  let m := BitVec.ofNat 32 ((2 ^ fieldWidth b - 1) * 2 ^ pos)
  if fieldWidth b = 0 then d else (d &&& ~~~m) ||| ((a <<< pos) &&& m)

/-- POPC (03 R50). -/
def popCount (a : Word) : Word := BitVec.ofNat 32 ((List.range 32).filter (fun j => a.getLsbD j)).length

/-- Leading zero bits among the `n` lowest bits; `n` when there is no set bit. -/
def leadingZeros (a : Word) : Nat → Nat
  | 0 => 0
  | n + 1 => if a.getLsbD n then 0 else leadingZeros a n + 1

/-- CLZ (03 R50). -/
def clzWord (a : Word) : Word := BitVec.ofNat 32 (leadingZeros a 32)

/-- BREV (03 R50). -/
def bitReverse (a : Word) : Word :=
  BitVec.ofNat 32 (((List.range 32).map (fun j => if a.getLsbD (31 - j) then 2 ^ j else 0)).sum)

/-- CTZ: the leading zeros of the reversed word (03 R50). -/
def ctzWord (a : Word) : Word := clzWord (bitReverse a)

/-- BSWAP (03 R50). -/
def byteSwap (a : Word) : Word :=
  (a.extractLsb' 0 8 ++ a.extractLsb' 8 8 ++ a.extractLsb' 16 8 ++ a.extractLsb' 24 8 : BitVec 32)

/-- IABS (03 R50). -/
def absWord (a : Word) : Word := if a.getLsbD 31 then 0 - a else a

/-- One signed byte product of IDOT4, as a word (03 R51). -/
def byteProduct (a b : Word) (j : Nat) : Word :=
  (a.extractLsb' (8 * j) 8).signExtend 32 * (b.extractLsb' (8 * j) 8).signExtend 32

/-- IDOT4: four signed byte products added to D (03 R51). -/
def dot4 (d a b : Word) : Word :=
  d + byteProduct a b 0 + byteProduct a b 1 + byteProduct a b 2 + byteProduct a b 3

/-- LEA (03 R48). -/
def leaSum (base : DWord) (ix : Word) (sc : BitVec 2) (u : Bool) : DWord :=
  base + ((if u then ix.setWidth 64 else ix.signExtend 64) <<< sc.toNat)

/-! ## Shapes of instruction -/

/-- Format R with a result of A and B. -/
def binOp (i : Instr) (d a b : Sel) (k : Bool) (f : Word → Word → Word) (s : State) : Host.Outcome State Fault Refusal :=
  regOp i d (fun rd => [f (rd a.toNat) (operandB rd k b)]) s

/-- Format R with a result of the old D, A and B (03 R44). -/
def accOp (i : Instr) (d a b : Sel) (k : Bool) (f : Word → Word → Word → Word) (s : State) :
    Host.Outcome State Fault Refusal :=
  regOp i d (fun rd => [f (rd d.toNat) (rd a.toNat) (operandB rd k b)]) s

/-- A result of A alone. -/
def unOp (i : Instr) (d a : Sel) (f : Word → Word) (s : State) : Host.Outcome State Fault Refusal :=
  regOp i d (fun rd => [f (rd a.toNat)]) s

/-- Format R over pairs (03 R47). -/
def pairOp (i : Instr) (d a b : Sel) (k : Bool) (f : DWord → DWord → DWord) (s : State) :
    Host.Outcome State Fault Refusal :=
  regOp i d (fun rd => splitWords (f (pairOf rd a) (operandB64 rd k b))) s

/-! ## Meanings -/

/-- IADD (03 R45). D ← A + B. -/
def execIadd (d a b : Sel) (k : Bool) (st : BitVec 3) (s : State) : Host.Outcome State Fault Refusal :=
  binOp (.iadd d a b k st) d a b k (fun x y => x + y) s

/-- ISUB (03 R45). D ← A − B. -/
def execIsub (d a b : Sel) (k : Bool) (st : BitVec 3) (s : State) : Host.Outcome State Fault Refusal :=
  binOp (.isub d a b k st) d a b k (fun x y => x - y) s

/-- IMUL (03 R45). The low word of A × B. -/
def execImul (d a b : Sel) (k : Bool) (st : BitVec 3) (s : State) : Host.Outcome State Fault Refusal :=
  binOp (.imul d a b k st) d a b k (fun x y => x * y) s

/-- IMULHI (03 R45). The high word of the signed product. -/
def execImulhi (d a b : Sel) (k : Bool) (st : BitVec 3) (s : State) : Host.Outcome State Fault Refusal :=
  binOp (.imulhi d a b k st) d a b k mulHigh s

/-- IMULHU (03 R45). The high word of the unsigned product. -/
def execImulhu (d a b : Sel) (k : Bool) (st : BitVec 3) (s : State) : Host.Outcome State Fault Refusal :=
  binOp (.imulhu d a b k st) d a b k mulHighU s

/-- AND (03 R45). D ← A AND B. -/
def execAnd (d a b : Sel) (k : Bool) (st : BitVec 3) (s : State) : Host.Outcome State Fault Refusal :=
  binOp (.and d a b k st) d a b k (fun x y => x &&& y) s

/-- OR (03 R45). D ← A OR B. -/
def execOr (d a b : Sel) (k : Bool) (st : BitVec 3) (s : State) : Host.Outcome State Fault Refusal :=
  binOp (.or d a b k st) d a b k (fun x y => x ||| y) s

/-- XOR (03 R45). D ← A XOR B. -/
def execXor (d a b : Sel) (k : Bool) (st : BitVec 3) (s : State) : Host.Outcome State Fault Refusal :=
  binOp (.xor d a b k st) d a b k (fun x y => x ^^^ y) s

/-- ANDN (03 R45). D ← A AND NOT B. -/
def execAndn (d a b : Sel) (k : Bool) (st : BitVec 3) (s : State) : Host.Outcome State Fault Refusal :=
  binOp (.andn d a b k st) d a b k (fun x y => x &&& ~~~y) s

/-- SHL (03 R45). Shift left; 0 from 32 up. -/
def execShl (d a b : Sel) (k : Bool) (st : BitVec 3) (s : State) : Host.Outcome State Fault Refusal :=
  binOp (.shl d a b k st) d a b k shiftL s

/-- SHR (03 R45). Logical shift right; 0 from 32 up. -/
def execShr (d a b : Sel) (k : Bool) (st : BitVec 3) (s : State) : Host.Outcome State Fault Refusal :=
  binOp (.shr d a b k st) d a b k shiftR s

/-- SAR (03 R45). Arithmetic shift right; the sign from 32 up. -/
def execSar (d a b : Sel) (k : Bool) (st : BitVec 3) (s : State) : Host.Outcome State Fault Refusal :=
  binOp (.sar d a b k st) d a b k shiftRA s

/-- IMIN (03 R45). The lesser, signed. -/
def execImin (d a b : Sel) (k : Bool) (st : BitVec 3) (s : State) : Host.Outcome State Fault Refusal :=
  binOp (.imin d a b k st) d a b k minS s

/-- IMAX (03 R45). The greater, signed. -/
def execImax (d a b : Sel) (k : Bool) (st : BitVec 3) (s : State) : Host.Outcome State Fault Refusal :=
  binOp (.imax d a b k st) d a b k maxS s

/-- UMIN (03 R45). The lesser, unsigned. -/
def execUmin (d a b : Sel) (k : Bool) (st : BitVec 3) (s : State) : Host.Outcome State Fault Refusal :=
  binOp (.umin d a b k st) d a b k minU s

/-- UMAX (03 R45). The greater, unsigned. -/
def execUmax (d a b : Sel) (k : Bool) (st : BitVec 3) (s : State) : Host.Outcome State Fault Refusal :=
  binOp (.umax d a b k st) d a b k maxU s

/-- IMAD (03 R45). D ← D + the low word of A × B. -/
def execImad (d a b : Sel) (k : Bool) (st : BitVec 3) (s : State) : Host.Outcome State Fault Refusal :=
  accOp (.imad d a b k st) d a b k (fun z x y => z + x * y) s

/-- IADDI (03 R46). D ← A + sext(IMM8). -/
def execIaddi (d a : Sel) (imm : BitVec 8) (st : BitVec 3) (s : State) : Host.Outcome State Fault Refusal :=
  unOp (.iaddi d a imm st) d a (fun x => x + imm.signExtend 32) s

/-- ANDI (03 R46). D ← A AND zext(IMM8). -/
def execAndi (d a : Sel) (imm : BitVec 8) (st : BitVec 3) (s : State) : Host.Outcome State Fault Refusal :=
  unOp (.andi d a imm st) d a (fun x => x &&& imm.setWidth 32) s

/-- ORI (03 R46). D ← A OR zext(IMM8). -/
def execOri (d a : Sel) (imm : BitVec 8) (st : BitVec 3) (s : State) : Host.Outcome State Fault Refusal :=
  unOp (.ori d a imm st) d a (fun x => x ||| imm.setWidth 32) s

/-- XORI (03 R46). D ← A XOR zext(IMM8). -/
def execXori (d a : Sel) (imm : BitVec 8) (st : BitVec 3) (s : State) : Host.Outcome State Fault Refusal :=
  unOp (.xori d a imm st) d a (fun x => x ^^^ imm.setWidth 32) s

/-- SHLI (03 R46). Shift left by IMM8[4:0]. -/
def execShli (d a : Sel) (imm : BitVec 5) (st : BitVec 3) (s : State) : Host.Outcome State Fault Refusal :=
  unOp (.shli d a imm st) d a (fun x => x <<< imm.toNat) s

/-- SHRI (03 R46). Logical shift right. -/
def execShri (d a : Sel) (imm : BitVec 5) (st : BitVec 3) (s : State) : Host.Outcome State Fault Refusal :=
  unOp (.shri d a imm st) d a (fun x => x >>> imm.toNat) s

/-- SARI (03 R46). Arithmetic shift right. -/
def execSari (d a : Sel) (imm : BitVec 5) (st : BitVec 3) (s : State) : Host.Outcome State Fault Refusal :=
  unOp (.sari d a imm st) d a (fun x => x.sshiftRight imm.toNat) s

/-- IMULI (03 R46). The low word of A × sext(IMM8). -/
def execImuli (d a : Sel) (imm : BitVec 8) (st : BitVec 3) (s : State) : Host.Outcome State Fault Refusal :=
  unOp (.imuli d a imm st) d a (fun x => x * imm.signExtend 32) s

/-- IADD64 (03 R47). D ← A + B over pairs. -/
def execIadd64 (d a b : Sel) (k : Bool) (st : BitVec 3) (s : State) : Host.Outcome State Fault Refusal :=
  pairOp (.iadd64 d a b k st) d a b k (fun x y => x + y) s

/-- ISUB64 (03 R47). D ← A − B over pairs. -/
def execIsub64 (d a b : Sel) (k : Bool) (st : BitVec 3) (s : State) : Host.Outcome State Fault Refusal :=
  pairOp (.isub64 d a b k st) d a b k (fun x y => x - y) s

/-- LEA (03 R48). D ← the base pair plus the extended index shifted left by SC. -/
def execLea (d a b : Sel) (c : BitVec 2) (u : Bool) (s : State) : Host.Outcome State Fault Refusal :=
  regOp (.lea d a b c u) d (fun rd => splitWords (leaSum (pairOf rd a) (rd b.toNat) c u)) s

/-- BFE (03 R49). Extracts a field. -/
def execBfe (d a b : Sel) (k : Bool) (st : BitVec 3) (s : State) : Host.Outcome State Fault Refusal :=
  binOp (.bfe d a b k st) d a b k extractField s

/-- BFI (03 R49). Inserts a field into D. -/
def execBfi (d a b : Sel) (k : Bool) (st : BitVec 3) (s : State) : Host.Outcome State Fault Refusal :=
  accOp (.bfi d a b k st) d a b k insertField s

/-- POPC (03 R50). Number of set bits. -/
def execPopc (d a : Sel) (st : BitVec 3) (s : State) : Host.Outcome State Fault Refusal :=
  unOp (.popc d a st) d a popCount s

/-- CLZ (03 R50). Leading zeros; 32 for 0. -/
def execClz (d a : Sel) (st : BitVec 3) (s : State) : Host.Outcome State Fault Refusal :=
  unOp (.clz d a st) d a clzWord s

/-- CTZ (03 R50). Trailing zeros; 32 for 0. -/
def execCtz (d a : Sel) (st : BitVec 3) (s : State) : Host.Outcome State Fault Refusal :=
  unOp (.ctz d a st) d a ctzWord s

/-- BREV (03 R50). Bits reversed. -/
def execBrev (d a : Sel) (st : BitVec 3) (s : State) : Host.Outcome State Fault Refusal :=
  unOp (.brev d a st) d a bitReverse s

/-- BSWAP (03 R50). Bytes reversed. -/
def execBswap (d a : Sel) (st : BitVec 3) (s : State) : Host.Outcome State Fault Refusal :=
  unOp (.bswap d a st) d a byteSwap s

/-- IABS (03 R50). Absolute value, wrapping. -/
def execIabs (d a : Sel) (st : BitVec 3) (s : State) : Host.Outcome State Fault Refusal :=
  unOp (.iabs d a st) d a absWord s

/-- INEG (03 R50). D ← 0 − A. -/
def execIneg (d a : Sel) (st : BitVec 3) (s : State) : Host.Outcome State Fault Refusal :=
  unOp (.ineg d a st) d a (fun x => 0 - x) s

/-- NOT (03 R50). D ← NOT A. -/
def execNot (d a : Sel) (st : BitVec 3) (s : State) : Host.Outcome State Fault Refusal :=
  unOp (.not d a st) d a (fun x => ~~~x) s

/-- IDOT4 (03 R51). D ← D + four signed byte products. -/
def execIdot4 (d a b : Sel) (k : Bool) (st : BitVec 3) (s : State) : Host.Outcome State Fault Refusal :=
  accOp (.idot4 d a b k st) d a b k dot4 s

/-- MOV (03 R52). D ← A. -/
def execMov (d a : Sel) (st : BitVec 3) (s : State) : Host.Outcome State Fault Refusal :=
  unOp (.mov d a st) d a (fun x => x) s

/-- MOVI (03 R52). D ← sext(IMM15). -/
def execMovi (d : Sel) (imm : BitVec 15) (st : BitVec 3) (s : State) : Host.Outcome State Fault Refusal :=
  regOp (.movi d imm st) d (fun _ => [imm.signExtend 32]) s

/-- LIT (03 R52). D ← the literal word. -/
def execLit (d : Sel) (st : BitVec 3) (lit : Word) (s : State) : Host.Outcome State Fault Refusal :=
  regOp (.lit d st lit) d (fun _ => [lit]) s

/-- ICMP (03 R53). P ← the condition on A and B. -/
def execIcmp (p : BitVec 3) (c : BitVec 4) (a b : Sel) (k : Bool) (st : BitVec 3) (s : State) : Host.Outcome State Fault Refusal :=
  predOp (.icmp p c a b k st) p (fun rd => icmpCond c.toNat (rd a.toNat) (operandB rd k b)) s

/-- SEL (03 R54). D ← A or B by a predicate. -/
def execSel (d a b : Sel) (p : BitVec 3) (n : Bool) (s : State) : Host.Outcome State Fault Refusal :=
  issue (.sel d a b p n) (fun g s => advance (.sel d a b p n) g (writeResult (.sel d a b p n) d (fun t =>
    [if readPred s g.slot t p.toNat ^^ n then readReg s g.slot t a.toNat else readReg s g.slot t b.toNat]) g s)) s

/-- PLOP (03 R55). P ← a truth table of two predicates. -/
def execPlop (p : BitVec 3) (c : BitVec 4) (a b st : BitVec 3) (s : State) : Host.Outcome State Fault Refusal :=
  issue (.plop p c a b st) (fun g s => advance (.plop p c a b st) g (writePred (.plop p c a b st) p (fun t =>
    plopBit c (readPred s g.slot t a.toNat) (readPred s g.slot t b.toNat)) g s)) s

/-- PGET (03 R56). D ← the eight predicates as bits. -/
def execPget (d : Sel) (s : State) : Host.Outcome State Fault Refusal :=
  issue (.pget d) (fun g s => advance (.pget d) g (writeResult (.pget d) d (fun t =>
    [BitVec.ofNat 32 (((List.range 8).map (fun j => if readPred s g.slot t j then 2 ^ j else 0)).sum)]) g s)) s

/-- PSET (03 R56). p0 to p6 ← bits of A. -/
def execPset (a : Sel) (s : State) : Host.Outcome State Fault Refusal :=
  issue (.pset a) (fun g s =>
    let v := fun t => readReg s g.slot t a.toNat
    advance (.pset a) g ([0, 1, 2, 3, 4, 5, 6].foldl (fun st (j : PSel) =>
      writePred (.pset a) j (fun t => (v t).getLsbD j.toNat) g st) s)) s

end Sys2Proof.Machine
end

