-- ==== Sys2Proof/Machine/Net.lean ====
section
/-!
DEFINITION. Inbound RoCEv2 requests: RDMA WRITE, RDMA READ and SEND (19 R363 to R367, 20 R393).
-/
namespace Sys2Proof.Machine

/-! ## Who serves a request (19 R363) -/

/-- ADDR of a peer entry. -/
def Peer.addr (p : Peer) : Nat :=
  recWord p.words 0 + recWord p.words 1 * 2 ^ 32 + recWord p.words 2 * 2 ^ 64 + recWord p.words 3 * 2 ^ 96

/-- Whether a request is accepted by the queue pair that it names. -/
def acceptsFrom (s : State) (h : NetHdr) : Bool :=
  let p := peerAt s (h.dqp / 4096) (h.dqp % 4096)
  p.valid && p.addr == h.addr && bits (recWord p.words 4) 23 0 == h.sqp

/-- An answer goes out. -/
def answer (h : NetHdr) (a : Answer) (s : State) : State := { s with outbox := s.outbox ++ [.answer h.dqp a] }

/-- A message of `n` bytes has been performed: its packets are expected no more, and it is acknowledged. -/
def acknowledge (h : NetHdr) (n : Nat) (data : List Byte) (s : State) : State :=
  let p := peerAt s (h.dqp / 4096) (h.dqp % 4096)
  let p' := { p with expected := BitVec.ofNat 32 ((p.expected.toNat + packetsOf n) % 2 ^ 24) }
  answer h (.ack data) (modCtx (h.dqp / 4096) (fun x => { x with peers := tset x.peers (h.dqp % 4096) p' }) s)

/-- A request that is accepted is served by its context; one for a context that is being killed is refused, and any other is
dropped (19 R363, R366). A port that is down brings none (19 R365). -/
def serve (h : NetHdr) (body : Nat → State → State) (s : State) : Host.Outcome State Fault Refusal :=
  .next (match tget s.contexts (h.dqp / 4096) with
    | none => s
    | some x =>
      if !(acceptsFrom s h && portUp s (peerAt s (h.dqp / 4096) (h.dqp % 4096))) then s
      else if x.status = .killing then answer h .accessNak s
      else body (h.dqp / 4096) s)

/-! ## Checks (19 R366) -/

/-- The cause of a page that a message cannot use, with RETRY (17 R335): 0x06 without a valid translation; 0x07 when it is not
normal or not pinned, or is written and not writable or is copy-on-write shared. -/
def pageCause (s : State) (ctx : Nat) (write : Bool) (a : Nat) : Option (Nat × Bool) :=
  match leafAt s ctx a with
  | none => some (0x06, decide (a < 2 ^ 52))
  | some l => if !(normalLeaf s a l) || !l.pinned || (write && (!l.writable || l.cow)) then some (0x07, l.cow) else none

/-- The lowest page of a range that a message cannot use: cause, RETRY and address. -/
def rangeCause (s : State) (ctx va n : Nat) (write : Bool) : Option (Nat × Bool × Nat) :=
  (pageStarts va n).findSome? (fun a => (pageCause s ctx write a).map (fun c => (c.1, c.2, a)))

/-- The checks of a message on its range of a context's addresses: a range that reaches the window region is refused without
a record, and one with a page that cannot be used with one; the walk up to that page sets AC (10 R213). -/
def withRange (h : NetHdr) (ctx va n : Nat) (write : Bool) (body : State → State) (s : State) : State :=
  if (pageStarts va n).any inRegion then answer h .accessNak s
  else
    match rangeCause s ctx va n write with
    | some c => answer h .accessNak (postAsyncRetry c.2.1 ctx 0xFFFF 0 c.1 c.2.2 0 0 (BitVec.ofNat 32 h.sqp)
        (cacheStarts ctx ((pageStarts va n).filter (· ≤ c.2.2)) s))
    | none => body s

/-- The checks of the exported window (19 R364): its key, its length, and its permission, bit `perm` of w5. -/
def windowAllows (s : State) (ctx off n : Nat) (rkey : Word) (perm : Nat) : Bool :=
  let w := (tgetD s.contexts ctx default).window
  w.getD 4 0 == rkey && decide (off + n ≤ recWord w 2 + recWord w 3 * 2 ^ 32) && bitAt (recWord w 5) perm

/-- The VA of offset `off` of a context's exported window. -/
def windowVa (s : State) (ctx off : Nat) : Nat :=
  let w := (tgetD s.contexts ctx default).window
  recWord w 0 + recWord w 1 * 2 ^ 32 + off

/-! ## Messages -/

/-- RDMA_WRITE (19 R365 to R367, 11 R228). Writes the bytes, or none of them. -/
def execRdmaWrite (h : NetHdr) (off : Nat) (rkey : Word) (data : List Byte) (s : State) :
    Host.Outcome State Fault Refusal :=
  serve h (fun ctx s =>
    let va := windowVa s ctx off
    if !windowAllows s ctx off data.length rkey 1 then answer h .accessNak s
    else withRange h ctx va data.length true (fun s =>
      match storeCtx ctx va data s with
      | some s' => acknowledge h data.length [] s'
      | none => answer h .accessNak s) s) s

/-- A WRITE or SEND with immediate, or an atomic, that a queue pair accepts: it is an invalid request (19 R365). -/
def refuseMessage (h : NetHdr) (s : State) : Host.Outcome State Fault Refusal :=
  serve h (fun _ s => answer h .invalidNak s) s

/-- Bytes that a message reads; those of a poisoned sector, or of one that a link corrupts, are free values. -/
def readRange (s : State) (ctx va n : Nat) : List Byte :=
  (pageParts va n).flatMap (fun p => match leafAt s ctx p.1 with
    | some l => (List.range p.2).map (fun j =>
        let pa := l.target p.1 + j
        if s.memPoison.contains pa || spoiltRead s pa 1 then (Config.freeWord s.nonce pa).setWidth 8 else seenByte s l pa)
    | none => [])

/-- RDMA_READ (19 R365 to R367). -/
def execRdmaRead (h : NetHdr) (off : Nat) (rkey : Word) (len : Nat) (s : State) : Host.Outcome State Fault Refusal :=
  serve h (fun ctx s =>
    let va := windowVa s ctx off
    if !windowAllows s ctx off len rkey 0 then answer h .accessNak s
    else withRange h ctx va len false (fun s =>
      acknowledge h len (readRange s ctx va len) (cacheStarts ctx (pageStarts va len) (takeCtxReads ctx va len s))) s) s

/-- The sequence word of message `j` of a receive ring (20 R393). -/
def ringSequence (j : Nat) : Nat := if (j + 1) % 2 ^ 32 = 0 then 1 else (j + 1) % 2 ^ 32

/-- Stores to a range whose pages have been checked. -/
def storeChecked (ctx va : Nat) (bs : List Byte) (s : State) : State := (storeCtx ctx va bs s).getD s

/-- A message goes into a slot of the receive ring; its sequence word is written last. -/
def fillSlot (h : NetHdr) (ctx va j : Nat) (data : List Byte) (s : State) : State :=
  let tail := bytesOf 4 data.length ++ bytesOf 4 h.sqp ++ bytesOf 4 0
  let s := storeChecked ctx (va + 4080) tail (storeChecked ctx va data s)
  modCtx ctx (fun x => { x with rxCount := j + 1 }) (storeChecked ctx (va + 4092) (bytesOf 4 (ringSequence j)) s)

/-- Whether the slot at an address is full (20 R393). -/
def slotInUse (s : State) (ctx va : Nat) : Bool := loadWords s ctx (va + 4092) 1 != some [0]

/-- SEND (19 R365, R366, 20 R393). The message goes to the next slot of the receive ring. A message of more than 4,080 bytes
is an invalid request; one for which there is no free slot, or no ring, finds the receiver not ready. -/
def execSendMsg (h : NetHdr) (data : List Byte) (s : State) : Host.Outcome State Fault Refusal :=
  serve h (fun ctx s =>
    let x := tgetD s.contexts ctx default
    let va := x.rxBase + x.rxCount % x.rxSize * 4096
    if 4080 < data.length then answer h .invalidNak s
    else if x.rxSize = 0 then answer h .rnrNak s
    else withRange h ctx va 4096 true (fun s =>
      let full := slotInUse s ctx va
      let s := takeCtxReads ctx (va + 4092) 4 (cacheStarts ctx (pageStarts va 4096) s)
      if full then answer h .rnrNak s
      else acknowledge h data.length [] (fillSlot h ctx va x.rxCount data s)) s) s

end Sys2Proof.Machine
end

