-- ==== Sys2Proof/Machine/Dispatch.lean ====
section
/-! DEFINITION. The dispatch: one arm per instruction, step, packet or message of the opcode table. -/
namespace Sys2Proof.Machine

def exec (i : Instr) (s : State) : Host.Outcome State Fault Refusal :=
  match i with
  | .iadd d a b k st => Sys2Proof.Machine.execIadd d a b k st s
  | .isub d a b k st => Sys2Proof.Machine.execIsub d a b k st s
  | .imul d a b k st => Sys2Proof.Machine.execImul d a b k st s
  | .imulhi d a b k st => Sys2Proof.Machine.execImulhi d a b k st s
  | .imulhu d a b k st => Sys2Proof.Machine.execImulhu d a b k st s
  | .imad d a b k st => Sys2Proof.Machine.execImad d a b k st s
  | .and d a b k st => Sys2Proof.Machine.execAnd d a b k st s
  | .or d a b k st => Sys2Proof.Machine.execOr d a b k st s
  | .xor d a b k st => Sys2Proof.Machine.execXor d a b k st s
  | .andn d a b k st => Sys2Proof.Machine.execAndn d a b k st s
  | .shl d a b k st => Sys2Proof.Machine.execShl d a b k st s
  | .shr d a b k st => Sys2Proof.Machine.execShr d a b k st s
  | .sar d a b k st => Sys2Proof.Machine.execSar d a b k st s
  | .imin d a b k st => Sys2Proof.Machine.execImin d a b k st s
  | .imax d a b k st => Sys2Proof.Machine.execImax d a b k st s
  | .umin d a b k st => Sys2Proof.Machine.execUmin d a b k st s
  | .umax d a b k st => Sys2Proof.Machine.execUmax d a b k st s
  | .iaddi d a imm st => Sys2Proof.Machine.execIaddi d a imm st s
  | .andi d a imm st => Sys2Proof.Machine.execAndi d a imm st s
  | .ori d a imm st => Sys2Proof.Machine.execOri d a imm st s
  | .xori d a imm st => Sys2Proof.Machine.execXori d a imm st s
  | .shli d a imm st => Sys2Proof.Machine.execShli d a imm st s
  | .shri d a imm st => Sys2Proof.Machine.execShri d a imm st s
  | .sari d a imm st => Sys2Proof.Machine.execSari d a imm st s
  | .imuli d a imm st => Sys2Proof.Machine.execImuli d a imm st s
  | .iadd64 d a b k st => Sys2Proof.Machine.execIadd64 d a b k st s
  | .isub64 d a b k st => Sys2Proof.Machine.execIsub64 d a b k st s
  | .lea d a b c u => Sys2Proof.Machine.execLea d a b c u s
  | .bfe d a b k st => Sys2Proof.Machine.execBfe d a b k st s
  | .bfi d a b k st => Sys2Proof.Machine.execBfi d a b k st s
  | .popc d a st => Sys2Proof.Machine.execPopc d a st s
  | .clz d a st => Sys2Proof.Machine.execClz d a st s
  | .ctz d a st => Sys2Proof.Machine.execCtz d a st s
  | .brev d a st => Sys2Proof.Machine.execBrev d a st s
  | .bswap d a st => Sys2Proof.Machine.execBswap d a st s
  | .iabs d a st => Sys2Proof.Machine.execIabs d a st s
  | .ineg d a st => Sys2Proof.Machine.execIneg d a st s
  | .not d a st => Sys2Proof.Machine.execNot d a st s
  | .idot4 d a b k st => Sys2Proof.Machine.execIdot4 d a b k st s
  | .mov d a st => Sys2Proof.Machine.execMov d a st s
  | .movi d imm st => Sys2Proof.Machine.execMovi d imm st s
  | .lit d st lit => Sys2Proof.Machine.execLit d st lit s
  | .icmp p c a b k st => Sys2Proof.Machine.execIcmp p c a b k st s
  | .sel d a b p n => Sys2Proof.Machine.execSel d a b p n s
  | .plop p c a b st => Sys2Proof.Machine.execPlop p c a b st s
  | .pget d => Sys2Proof.Machine.execPget d s
  | .pset a => Sys2Proof.Machine.execPset a s
  | .sreg d imm st => Sys2Proof.Machine.execSreg d imm st s
  | .fadd d a b k st => Sys2Proof.Machine.execFadd d a b k st s
  | .fsub d a b k st => Sys2Proof.Machine.execFsub d a b k st s
  | .fmul d a b k st => Sys2Proof.Machine.execFmul d a b k st s
  | .ffma d a b k st => Sys2Proof.Machine.execFfma d a b k st s
  | .fmin d a b k st => Sys2Proof.Machine.execFmin d a b k st s
  | .fmax d a b k st => Sys2Proof.Machine.execFmax d a b k st s
  | .fcmp p c a b k st => Sys2Proof.Machine.execFcmp p c a b k st s
  | .fabs d a st => Sys2Proof.Machine.execFabs d a st s
  | .fneg d a st => Sys2Proof.Machine.execFneg d a st s
  | .frcp d a st => Sys2Proof.Machine.execFrcp d a st s
  | .frsq d a st => Sys2Proof.Machine.execFrsq d a st s
  | .fsqrt d a st => Sys2Proof.Machine.execFsqrt d a st s
  | .fexp2 d a st => Sys2Proof.Machine.execFexp2 d a st s
  | .flog2 d a st => Sys2Proof.Machine.execFlog2 d a st s
  | .fsin d a st => Sys2Proof.Machine.execFsin d a st s
  | .fcos d a st => Sys2Proof.Machine.execFcos d a st s
  | .ffloor d a st => Sys2Proof.Machine.execFfloor d a st s
  | .fceil d a st => Sys2Proof.Machine.execFceil d a st s
  | .ftrunc d a st => Sys2Proof.Machine.execFtrunc d a st s
  | .frint d a st => Sys2Proof.Machine.execFrint d a st s
  | .fclass d a st => Sys2Proof.Machine.execFclass d a st s
  | .hadd2 d a b k st => Sys2Proof.Machine.execHadd2 d a b k st s
  | .hmul2 d a b k st => Sys2Proof.Machine.execHmul2 d a b k st s
  | .hfma2 d a b k st => Sys2Proof.Machine.execHfma2 d a b k st s
  | .badd2 d a b k st => Sys2Proof.Machine.execBadd2 d a b k st s
  | .bmul2 d a b k st => Sys2Proof.Machine.execBmul2 d a b k st s
  | .bfma2 d a b k st => Sys2Proof.Machine.execBfma2 d a b k st s
  | .fcvt d a b st => Sys2Proof.Machine.execFcvt d a b st s
  | .dadd d a b k st => Sys2Proof.Machine.execDadd d a b k st s
  | .dmul d a b k st => Sys2Proof.Machine.execDmul d a b k st s
  | .dfma d a b k st => Sys2Proof.Machine.execDfma d a b k st s
  | .dcmp p c a b k st => Sys2Proof.Machine.execDcmp p c a b k st s
  | .dcvt d a b st => Sys2Proof.Machine.execDcvt d a b st s
  | .ldb d a off sb => Sys2Proof.Machine.execLdb d a off sb s
  | .ldbs d a off sb => Sys2Proof.Machine.execLdbs d a off sb s
  | .ldh d a off sb => Sys2Proof.Machine.execLdh d a off sb s
  | .ldhs d a off sb => Sys2Proof.Machine.execLdhs d a off sb s
  | .ldw d a off sb => Sys2Proof.Machine.execLdw d a off sb s
  | .ldd d a off sb => Sys2Proof.Machine.execLdd d a off sb s
  | .ldq d a off sb => Sys2Proof.Machine.execLdq d a off sb s
  | .stb d a off sb => Sys2Proof.Machine.execStb d a off sb s
  | .sth d a off sb => Sys2Proof.Machine.execSth d a off sb s
  | .stw d a off sb => Sys2Proof.Machine.execStw d a off sb s
  | .std d a off sb => Sys2Proof.Machine.execStd d a off sb s
  | .stq d a off sb => Sys2Proof.Machine.execStq d a off sb s
  | .stnt d a off sb => Sys2Proof.Machine.execStnt d a off sb s
  | .drain => Sys2Proof.Machine.execDrain s
  | .fence => Sys2Proof.Machine.execFence s
  | .pref lvl a off => Sys2Proof.Machine.execPref lvl a off s
  | .cctlIinv a off => Sys2Proof.Machine.execCctlIinv a off s
  | .cctlIinvall a off => Sys2Proof.Machine.execCctlIinvall a off s
  | .cctlEvict a off => Sys2Proof.Machine.execCctlEvict a off s
  | .cctlZero a off => Sys2Proof.Machine.execCctlZero a off s
  | .aadd d a b q sb => Sys2Proof.Machine.execAadd d a b q sb s
  | .aand d a b q sb => Sys2Proof.Machine.execAand d a b q sb s
  | .aor d a b q sb => Sys2Proof.Machine.execAor d a b q sb s
  | .axor d a b q sb => Sys2Proof.Machine.execAxor d a b q sb s
  | .amin d a b q sb => Sys2Proof.Machine.execAmin d a b q sb s
  | .amax d a b q sb => Sys2Proof.Machine.execAmax d a b q sb s
  | .aumin d a b q sb => Sys2Proof.Machine.execAumin d a b q sb s
  | .aumax d a b q sb => Sys2Proof.Machine.execAumax d a b q sb s
  | .axchg d a b q sb => Sys2Proof.Machine.execAxchg d a b q sb s
  | .acas d a b q sb => Sys2Proof.Machine.execAcas d a b q sb s
  | .afadd d a b q sb => Sys2Proof.Machine.execAfadd d a b q sb s
  | .afaddt d a b sb => Sys2Proof.Machine.execAfaddt d a b sb s
  | .tsopen d a => Sys2Proof.Machine.execTsopen d a s
  | .tclose a b => Sys2Proof.Machine.execTclose a b s
  | .tdrain a => Sys2Proof.Machine.execTdrain a s
  | .tdrainF a => Sys2Proof.Machine.execTdrainF a s
  | .tsbind a => Sys2Proof.Machine.execTsbind a s
  | .bra p n off f => Sys2Proof.Machine.execBra p n off f s
  | .call p n off f => Sys2Proof.Machine.execCall p n off f s
  | .jmpr a => Sys2Proof.Machine.execJmpr a s
  | .jmprL d a => Sys2Proof.Machine.execJmprL d a s
  | .ret a => Sys2Proof.Machine.execRet a s
  | .msplit d p m => Sys2Proof.Machine.execMsplit d p m s
  | .mjoin m => Sys2Proof.Machine.execMjoin m s
  | .exit => Sys2Proof.Machine.execExit s
  | .waitsb m st => Sys2Proof.Machine.execWaitsb m st s
  | .nop st => Sys2Proof.Machine.execNop st s
  | .shfli d a b m => Sys2Proof.Machine.execShfli d a b m s
  | .shflu d a b m => Sys2Proof.Machine.execShflu d a b m s
  | .shfld d a b m => Sys2Proof.Machine.execShfld d a b m s
  | .shflx d a b m => Sys2Proof.Machine.execShflx d a b m s
  | .vote p q n off m => Sys2Proof.Machine.execVote p q n off m s
  | .ballot d p n m => Sys2Proof.Machine.execBallot d p n m s
  | .scan d a ex off m => Sys2Proof.Machine.execScan d a ex off m s
  | .redux d a off m => Sys2Proof.Machine.execRedux d a off m s
  | .elect p m => Sys2Proof.Machine.execElect p m s
  | .bar => Sys2Proof.Machine.execBar s
  | .barSeam => Sys2Proof.Machine.execBarSeam s
  | .matchW d a m => Sys2Proof.Machine.execMatchW d a m s
  | .matchD d a m => Sys2Proof.Machine.execMatchD d a m s
  | .rand d => Sys2Proof.Machine.execRand d s
  | .randQ d => Sys2Proof.Machine.execRandQ d s
  | .randF d => Sys2Proof.Machine.execRandF d s
  | .recruit d a b k st lit => Sys2Proof.Machine.execRecruit d a b k st lit s
  | .hnext d p n => Sys2Proof.Machine.execHnext d p n s
  | .hrelease d => Sys2Proof.Machine.execHrelease d s
  | .hstat d => Sys2Proof.Machine.execHstat d s
  | .hstatNext d => Sys2Proof.Machine.execHstatNext d s
  | .hstatCount d => Sys2Proof.Machine.execHstatCount d s
  | .cpin a => Sys2Proof.Machine.execCpin a s
  | .cpinr a => Sys2Proof.Machine.execCpinr a s
  | .cpout a => Sys2Proof.Machine.execCpout a s
  | .cpgath a b => Sys2Proof.Machine.execCpgath a b s
  | .cpmc a b => Sys2Proof.Machine.execCpmc a b s
  | .cpnet a b => Sys2Proof.Machine.execCpnet a b s
  | .cppf a b => Sys2Proof.Machine.execCppf a b s
  | .syinit a b => Sys2Proof.Machine.execSyinit a b s
  | .syarr a b => Sys2Proof.Machine.execSyarr a b s
  | .sywait a b => Sys2Proof.Machine.execSywait a b s
  | .sytest a b => Sys2Proof.Machine.execSytest a b s
  | .waitc c n => Sys2Proof.Machine.execWaitc c n s
  | .cntrd a c => Sys2Proof.Machine.execCntrd a c s
  | .mma a b => Sys2Proof.Machine.execMma a b s
  | .mmas a b => Sys2Proof.Machine.execMmas a b s
  | .mrast a b => Sys2Proof.Machine.execMrast a b s
  | .mfilt a b => Sys2Proof.Machine.execMfilt a b s
  | .mzero t n => Sys2Proof.Machine.execMzero t n s
  | .mstat a => Sys2Proof.Machine.execMstat a s
  | .mstatC a => Sys2Proof.Machine.execMstatC a s
  | .spawn a b => Sys2Proof.Machine.execSpawn a b s
  | .spawnn a b => Sys2Proof.Machine.execSpawnn a b s
  | .cancelchk a => Sys2Proof.Machine.execCancelchk a s
  | .lvlrd a b => Sys2Proof.Machine.execLvlrd a b s
  | .lvlcancel b => Sys2Proof.Machine.execLvlcancel b s
  | .seedrd a => Sys2Proof.Machine.execSeedrd a s
  | .qhold b => Sys2Proof.Machine.execQhold b s
  | .qrun b => Sys2Proof.Machine.execQrun b s
  | .shpset a b => Sys2Proof.Machine.execShpset a b s
  | .shpfree b => Sys2Proof.Machine.execShpfree b s
  | .shprd a b => Sys2Proof.Machine.execShprd a b s
  | .trap b => Sys2Proof.Machine.execTrap b s
  | .bkpt b => Sys2Proof.Machine.execBkpt b s
  | .cregr a b => Sys2Proof.Machine.execCregr a b s
  | .cregw a b => Sys2Proof.Machine.execCregw a b s
  | .yield => Sys2Proof.Machine.execYield s
  | .sleep b => Sys2Proof.Machine.execSleep b s
  | .fqpop a b => Sys2Proof.Machine.execFqpop a b s
  | .resume a b => Sys2Proof.Machine.execResume a b s
  | .tlbinv a b => Sys2Proof.Machine.execTlbinv a b s
  | .bankSwitch cl => Sys2Proof.Machine.execBankSwitch cl s
  | .clauseFetch => Sys2Proof.Machine.execClauseFetch s
  | .loadReturn crew op => Sys2Proof.Machine.execLoadReturn crew op s
  | .faultRecordPost ctx => Sys2Proof.Machine.execFaultRecordPost ctx s
  | .sleepExpiry crew who => Sys2Proof.Machine.execSleepExpiry crew who s
  | .crewToPending crew => Sys2Proof.Machine.execCrewToPending crew s
  | .pendingCrewEntry cl part => Sys2Proof.Machine.execPendingCrewEntry cl part s
  | .activeCrewRotation cl part => Sys2Proof.Machine.execActiveCrewRotation cl part s
  | .helperSuspend crew lane worker => Sys2Proof.Machine.execHelperSuspend crew lane worker s
  | .helperResume crew lane worker => Sys2Proof.Machine.execHelperResume crew lane worker s
  | .crewEnd crew => Sys2Proof.Machine.execCrewEnd crew s
  | .seamComplete seam => Sys2Proof.Machine.execSeamComplete seam s
  | .hoistDispatch die => Sys2Proof.Machine.execHoistDispatch die s
  | .crewPlacement seam => Sys2Proof.Machine.execCrewPlacement seam s
  | .handlerPlacement ctx => Sys2Proof.Machine.execHandlerPlacement ctx s
  | .watchdogExpiry ctx => Sys2Proof.Machine.execWatchdogExpiry ctx s
  | .ticketUpdateArrival upd => Sys2Proof.Machine.execTicketUpdateArrival upd s
  | .ticketUpdateRetry upd => Sys2Proof.Machine.execTicketUpdateRetry upd s
  | .ticketStallExpiry slot => Sys2Proof.Machine.execTicketStallExpiry slot s
  | .atomicAtHome atom => Sys2Proof.Machine.execAtomicAtHome atom s
  | .copyArrival crew copy part => Sys2Proof.Machine.execCopyArrival crew copy part s
  | .netRetransmitTimeout crew copy => Sys2Proof.Machine.execNetRetransmitTimeout crew copy s
  | .netTransportFailure crew copy => Sys2Proof.Machine.execNetTransportFailure crew copy s
  | .cpnetComplete crew copy data => Sys2Proof.Machine.execCpnetComplete crew copy data s
  | .matrixStep cl => Sys2Proof.Machine.execMatrixStep cl s
  | .postOperator crew => Sys2Proof.Machine.execPostOperator crew s
  | .fifoPush cl bank => Sys2Proof.Machine.execFifoPush cl bank s
  | .fifoPop cl bank => Sys2Proof.Machine.execFifoPop cl bank s
  | .pageWalk ctx va => Sys2Proof.Machine.execPageWalk ctx va s
  | .contextSave ctx => Sys2Proof.Machine.execContextSave ctx s
  | .killComplete ctx => Sys2Proof.Machine.execKillComplete ctx s
  | .migration mig => Sys2Proof.Machine.execMigration mig s
  | .launchSeedPush src => Sys2Proof.Machine.execLaunchSeedPush src s
  | .queueUnbindComplete src => Sys2Proof.Machine.execQueueUnbindComplete src s
  | .packetGuardPoll queue => Sys2Proof.Machine.execPacketGuardPoll queue s
  | .queueMap => Sys2Proof.Machine.execQueueMap s
  | .queueIdleUnmap queue => Sys2Proof.Machine.execQueueIdleUnmap queue s
  | .queueOverdueSwap => Sys2Proof.Machine.execQueueOverdueSwap s
  | .kick queue w => Sys2Proof.Machine.execKick queue w s
  | .pktgo len => Sys2Proof.Machine.execPktgo len s
  | .queueEnable queue w => Sys2Proof.Machine.execQueueEnable queue w s
  | .queueDisable queue => Sys2Proof.Machine.execQueueDisable queue s
  | .pwrcap w => Sys2Proof.Machine.execPwrcap w s
  | .registerWrite off w => Sys2Proof.Machine.execRegisterWrite off w s
  | .throttleAdjust mhz throttled => Sys2Proof.Machine.execThrottleAdjust mhz throttled s
  | .eventResend event => Sys2Proof.Machine.execEventResend event s
  | .leaseLapse => Sys2Proof.Machine.execLeaseLapse s
  | .recoverySessionTimeout => Sys2Proof.Machine.execRecoverySessionTimeout s
  | .deviceStart => Sys2Proof.Machine.execDeviceStart s
  | .rdmaWrite h off rkey data => Sys2Proof.Machine.execRdmaWrite h off rkey data s
  | .rdmaRead h off rkey len => Sys2Proof.Machine.execRdmaRead h off rkey len s
  | .sendMsg h data => Sys2Proof.Machine.execSendMsg h data s
  | .regrd r off count => Sys2Proof.Machine.execRegrd r off count s
  | .regwr r off ws => Sys2Proof.Machine.execRegwr r off ws s
  | .claim r => Sys2Proof.Machine.execClaim r s
  | .renew r => Sys2Proof.Machine.execRenew r s
  | .handover r target => Sys2Proof.Machine.execHandover r target s
  | .releaseOwner r => Sys2Proof.Machine.execReleaseOwner r s
  | .halt r ctx attach => Sys2Proof.Machine.execHalt r ctx attach s
  | .stepThread r ctx crew who => Sys2Proof.Machine.execStepThread r ctx crew who s
  | .stepcrew r ctx crew => Sys2Proof.Machine.execStepcrew r ctx crew s
  | .runCtx r ctx => Sys2Proof.Machine.execRunCtx r ctx s
  | .dread r ctx crew off len => Sys2Proof.Machine.execDread r ctx crew off len s
  | .attquery r nonce => Sys2Proof.Machine.execAttquery r nonce s
  | .recbegin r kind => Sys2Proof.Machine.execRecbegin r kind s
  | .recdata r off data => Sys2Proof.Machine.execRecdata r off data s
  | .reccommit r => Sys2Proof.Machine.execReccommit r s
  | .recreset r => Sys2Proof.Machine.execRecreset r s
  | .recinfo r => Sys2Proof.Machine.execRecinfo r s
  | .evack r event => Sys2Proof.Machine.execEvack r event s
  | .nopPacket src f => Sys2Proof.Machine.execNopPacket src f s
  | .ctxnew src f => Sys2Proof.Machine.execCtxnew src f s
  | .ctxkill src f => Sys2Proof.Machine.execCtxkill src f s
  | .preempt src f => Sys2Proof.Machine.execPreempt src f s
  | .ctxrun src f => Sys2Proof.Machine.execCtxrun src f s
  | .qbind src f => Sys2Proof.Machine.execQbind src f s
  | .qunbind src f => Sys2Proof.Machine.execQunbind src f s
  | .recact src f => Sys2Proof.Machine.execRecact src f s
  | .limits src f => Sys2Proof.Machine.execLimits src f s
  | .wdrestart src f => Sys2Proof.Machine.execWdrestart src f s
  | .peers src f => Sys2Proof.Machine.execPeers src f s
  | .exportWin src f => Sys2Proof.Machine.execExportWin src f s
  | .rxring src f => Sys2Proof.Machine.execRxring src f s
  | .migrate src f => Sys2Proof.Machine.execMigrate src f s
  | .evict src f => Sys2Proof.Machine.execEvict src f s
  | .sopen src f => Sys2Proof.Machine.execSopen src f s
  | .sfree src f => Sys2Proof.Machine.execSfree src f s
  | .jobopen src f => Sys2Proof.Machine.execJobopen src f s
  | .jobclose src f => Sys2Proof.Machine.execJobclose src f s
  | .phaseopen src f => Sys2Proof.Machine.execPhaseopen src f s
  | .phaseclose src f => Sys2Proof.Machine.execPhaseclose src f s
  | .graphopen src f => Sys2Proof.Machine.execGraphopen src f s
  | .graphclose src f => Sys2Proof.Machine.execGraphclose src f s
  | .launch src f => Sys2Proof.Machine.execLaunch src f s
  | .cancel src f => Sys2Proof.Machine.execCancel src f s
  | .waitPacket src f => Sys2Proof.Machine.execWaitPacket src f s
  | .fencePacket src f => Sys2Proof.Machine.execFencePacket src f s
  | .seedpush src f => Sys2Proof.Machine.execSeedpush src f s
  | .seedpop src f => Sys2Proof.Machine.execSeedpop src f s
  | .seedfork src f => Sys2Proof.Machine.execSeedfork src f s
  | .pendingStoreEvent crew who idx => Sys2Proof.Machine.execPendingStoreEvent crew who idx s
  | .uncorrectableError pa => Sys2Proof.Machine.execUncorrectableError pa s

end Sys2Proof.Machine
end

