-- ==== Sys2Proof/Machine/Schedule.lean ====
section
/-!
DEFINITION. Which happening is next (log entry 1): the turns that the state lists, else the groups that can issue on this clock,
longest-ready first, and then the steps of the device, after which a clock passes.
-/
namespace Sys2Proof.Machine

/-! ## Which group can go on (01 R20 to R23, 05 R105, 07 R160, 17 R331, R347, R353) -/

/-- Whether a crew has been placed, and every crew of its seam, when that is cooperative (05 R102): none waits for lanes (07
R160). -/
def isPlaced (s : State) (slot : Nat) (c : Crew) : Bool :=
  !c.entering && ((seamClusters s c).isEmpty || (seamCrews s slot).all (fun n => !(crewAt s n).entering))

/-- Whether the threads of a crew issue: its context is on the device, it has its lanes and is active; and, for an ordinary crew,
the context is not halted and its handler crews have been placed. -/
def runnable (s : State) (slot : Nat) : Bool :=
  match tget s.crews slot with
  | none => false
  | some c =>
    let x := tgetD s.contexts c.ctx default
    onDevice s c.ctx && c.active && isPlaced s slot c && (runsSystem c || (!x.halted && x.toPlace.isEmpty))

/-- Whether an operation holds the issue of a thread of a group. -/
def opBlocks (s : State) (c : Crew) (ks : List Nat) : Bool :=
  ks.any (fun k => match threadAt c k with
    | some t => opHolds s c k t
    | none => false)

/-- Whether a wait ends by the instruction's being looked at again. -/
def polled (w : Wait) : Bool :=
  match w with
  | .slots => true
  | .join _ _ => true
  | .bar _ _ => true
  | .engine => true
  | .release => true
  | .close _ _ => true
  | .yields _ => true
  | _ => false

/-- Whether a thread has waited out the wait mask of its clause, or could (01 R23). -/
def maskClear (c : Crew) (k : Nat) : Bool :=
  match (threadAt c k).bind liveClause with
  | some cl => cl.waited || slotsClear c k cl.wait
  | none => true

/-- Whether a thread's wait is over, so that its instruction is to be looked at again. -/
def waitOver (s : State) (slot : Nat) (c : Crew) (k : Nat) : Bool :=
  match threadAt c k with
  | some u => (match u.run with
    | .waiting w => polled w && couldGo s slot c k u
    | _ => false)
  | none => false

/-- Whether a YIELD at a clock is over because every other ready group on its slices has issued since (17 R342). -/
def othersServed (s : State) (g : Group) (until_ : Nat) : Bool :=
  let mine := slicesOf (crewAt s g.slot) g.keys
  !(s.crews.any (fun e => e.1 / 48 == g.slot / 48 && runnable s e.1 && e.2.threads.any (fun t =>
    !(e.1 == g.slot && g.keys.contains t.1) && (slicesOf e.2 [t.1]).any mine.contains && decide (t.2.ready + 64 ≤ until_) &&
      couldGo s e.1 e.2 t.1 t.2)))

/-- Whether a thread stands at EXIT. -/
def atExit (t : Thread) : Bool :=
  match instrAt t with
  | some .exit => true
  | _ => false

/-- Whether a group can fetch its clause, issue, or end its wait. It waits for its slowest thread (05 R105), but each of its
joins is released, or fails, by itself (05 R111, R112), and each of its threads at EXIT exits by itself (03 R73). -/
def canAct (s : State) (g : Group) : Bool :=
  let c := crewAt s g.slot
  match threadAt c g.lead with
  | none => false
  | some t =>
    !(opBlocks s c g.keys) &&
    (match t.run with
      | .running => g.keys.all (maskClear c)
      | .waiting (.join _ _) => g.keys.any (waitOver s g.slot c)
      | .waiting .release => if atExit t then g.keys.any (waitOver s g.slot c) else g.keys.all (waitOver s g.slot c)
      | .waiting (.yields u) => g.keys.all (waitOver s g.slot c) || othersServed s g u
      | .waiting _ => g.keys.all (waitOver s g.slot c)
      | _ => false)

/-- Lanes of a group that helpers hold and have not been told to give back. -/
def uncalledLanes (s : State) (g : Group) : List Nat :=
  (lentLanes s g.slot g.keys).filter (fun k => (laneHolders s g.slot (crewAt s g.slot).half k).any (fun e =>
    match (threadAt (crewAt s e.1) e.2).bind (·.helper) with
    | some h => h.due.isNone
    | none => false))

/-- Whether something can be done for a group now: it goes on, or calls back its lanes. -/
def groupDue (s : State) (g : Group) : Bool :=
  canAct s g && ((lentLanes s g.slot g.keys).isEmpty || !(uncalledLanes s g).isEmpty)

/-- Whether a group only gets ready: it fetches its clause, or calls back its lanes. -/
def onlyPrepares (s : State) (g : Group) : Bool := !(lentLanes s g.slot g.keys).isEmpty || wantsClause s g

/-- A thread has waited out the wait mask of its clause (01 R23). -/
def passThread (slot k : Nat) (s : State) : State :=
  match (threadAt (crewAt s slot) k).bind liveClause with
  | some cl =>
    if cl.waited then s
    else modThread slot k (fun t => { t with clause := some { cl with waited := true } }) (waitedSlots slot k cl.wait s)
  | none => s

/-- A group that runs has waited out the wait mask of its clause. -/
def passMask (g : Group) (s : State) : State := g.keys.foldl (fun s k => passThread g.slot k s) s

/-- The instruction word at a group's address is executed; one that encodes nothing raises 0x01 (02 R38). -/
def runWord (g : Group) (s : State) : Host.Outcome State Fault Refusal :=
  match (threadAt (crewAt s g.slot) g.lead).bind instrAt with
  | some i => exec i s
  | none => .next (failAll g (trapC 0x01) (atIssue (.nop 0) g s))

/-- The instruction word at a group's address, decoded. -/
def nextInstr (s : State) (g : Group) : Option Instr := (threadAt (crewAt s g.slot) g.lead).bind instrAt

/-- The extra delay of the instruction that a running group is to issue, while the group has it still to wait out (05 R120). -/
def delayLeft (s : State) (g : Group) : Nat :=
  match threadAt (crewAt s g.slot) g.lead, nextInstr s g with
  | some t, some i => if t.run == .running then farDelay s g i else 0
  | _, _ => 0

/-- A group waits out the extra delay of its instruction. -/
def takeDelay (n : Nat) (g : Group) (s : State) : State :=
  modGroup g (fun t => { t with ready := s.clock + n, farAt := some (t.pc, s.clock + n) }) s

/-- What is done for the group in focus. -/
def actGroup (g : Group) (s : State) : Host.Outcome State Fault Refusal :=
  if !(lentLanes s g.slot g.keys).isEmpty then
    .next ((uncalledLanes s g).foldl (fun s k => callLane g.slot (crewAt s g.slot).half k s) s)
  else if wantsClause s g then exec .clauseFetch s
  else if delayLeft s g ≠ 0 then .next (takeDelay (delayLeft s g) g s)
  else runWord g (passMask g s)

/-- Whether a group's time has come: its stall count has elapsed (01 R20), and its slices are free on this clock. -/
def isDue (s : State) (g : Group) : Bool :=
  groupDue s g && decide (readyClock s g ≤ s.clock) &&
    (onlyPrepares s g || delayLeft s g != 0 || issueClock s g ((nextInstr s g).getD (.nop 0)) == s.clock)

/-! ## The slice sequencer (05 R109, R116) -/

/-- Whether a group runs inside its clause: it has issued an instruction of it, so that it has waited out its wait mask (01 R23). -/
def inClause (s : State) (g : Group) : Bool :=
  match threadAt (crewAt s g.slot) g.lead with
  | some t => t.run == .running && (liveClause t).any (·.waited)
  | none => false

/-- The groups of a crew. -/
def groupsOf (s : State) (slot : Nat) : List Group :=
  ((crewAt s slot).threads.filterMap (fun e => groupOf s slot e.1)).eraseDups

/-- Whether two groups of a partition have a slice in common. -/
def sharesSlice (s : State) (g h : Group) : Bool :=
  (slicesOf (crewAt s g.slot) g.keys).any (slicesOf (crewAt s h.slot) h.keys).contains

/-- Whether a group has waited longer than another of its crew, with ties to the lower lane (05 R109). -/
def longer (s : State) (h g : Group) : Bool :=
  decide (readyClock s h < readyClock s g ∨ readyClock s h = readyClock s g ∧ h.lead < g.lead)

/-- Whether some slice of two groups serves the clause of the first: that group stands inside it and issued last there. -/
def holdsSlice (s : State) (h g : Group) : Bool :=
  inClause s h && (crewAt s h.slot).lastOn.any (fun x =>
    (slicesOf (crewAt s h.slot) h.keys).contains x.slice && (slicesOf (crewAt s g.slot) g.keys).contains x.slice &&
      h.keys.contains x.lead)

/-- Whether another group of its crew goes before a group on a slice of both: one whose clause the slice serves, up to the clause's
end, unless it has to wait; else one inside a clause, before one that would enter one; else the one that has waited longer (05
R109). -/
def yieldsTo (s : State) (g h : Group) : Bool :=
  sharesSlice s g h &&
    (if holdsSlice s h g then groupDue s h
     else if holdsSlice s g h then false
     else if inClause s h && !(inClause s g) then groupDue s h
     else inClause s h == inClause s g && isDue s h && longer s h g)

/-- Whether a group may be served now, as far as its crew's other groups go. -/
def servable (s : State) (g : Group) : Bool := (groupsOf s g.slot).all (fun h => h.lead == g.lead || !(yieldsTo s g h))

/-- Clocks for which a ready group may be passed over: with the turns of the other crews on its slices, it issues within 64 (05
R116). -/
def patience : Nat := 8

/-- Whether a ready group has been passed over on some slices for as long as it may be. -/
def starves (s : State) (g : Group) : Bool :=
  s.crews.any (fun e => e.1 / 48 == g.slot / 48 && runnable s e.1 && (groupsOf s e.1).any (fun h =>
    decide (readyClock s h + patience ≤ s.clock ∧ readyClock s h < readyClock s g) && sharesSlice s g h && isDue s h &&
      servable s h))

/-- The clock at which a wait ends by itself: a sleep, while its crew's clock runs, or a YIELD (17 R342). -/
def waitEnd (s : State) (c : Crew) (t : Thread) : Option Nat :=
  match t.run with
  | .waiting (.sleep u _) => if crewClock s c = s.clock then some u else none
  | .waiting (.yields u) => some u
  | _ => none

/-- Whether clocks may pass at once: no ready group would wait too long, none whose wait ends meanwhile, nor a pending crew that is
ready. -/
def mayPass (s : State) (n : Nat) : Bool :=
  s.crews.all (fun e =>
    (!(runnable s e.1) || (groupsOf s e.1).all (fun g =>
      !(groupDue s g) || decide (s.clock + n ≤ readyClock s g + patience))) &&
    (!(onDevice s e.2.ctx) || e.2.threads.all (fun t =>
      (waitEnd s e.2 t.2).all (fun u => decide (s.clock + n ≤ max s.clock u + patience)))) &&
    (e.2.active || e.2.readyAt.all (fun t => decide (s.clock + n ≤ t + 2048))))

/-! ## The round (log entry 1) -/

/-- Numbers from here up stand for the device's own places in the round. -/
def deviceSeat : Nat := 24576

/-- Whether a thread leads a group for which something is to be done on this clock. -/
def seatReady (s : State) (slot k : Nat) : Bool :=
  runnable s slot && (match groupOf s slot k with
    | some g => g.lead == k && isDue s g && servable s g
    | none => false)

/-- The first of a list with the least rank. -/
def firstMin {α : Type} (f : α → Nat) : List α → Option α
  | [] => none
  | k :: ks =>
    match firstMin f ks with
    | some j => if f j < f k then some j else some k
    | none => some k

/-- The groups for which something is to be done on this clock. -/
def readySeats (s : State) : List Group :=
  s.crews.flatMap (fun e => e.2.threads.filterMap (fun t => if seatReady s e.1 t.1 then groupOf s e.1 t.1 else none))

/-- The group that is served next: the one that has been ready longest, with ties to the lower slot and lane; else the device's
first place. -/
def nextSeat (s : State) : Focus :=
  match firstMin (readyClock s) (readySeats s) with
  | some g => ⟨g.slot, tidOf g.lead⟩
  | none => ⟨deviceSeat, .lane 0⟩

/-- The focus moves on. -/
def moveFocus (s : State) : State := { s with focus := nextSeat s }

/-- Changes the state that an outcome goes on with. -/
def afterwards (f : State → State) (r : Host.Outcome State Fault Refusal) : Host.Outcome State Fault Refusal :=
  match r with
  | .next t => .next (f t)
  | .fault e => .fault e
  | .refused e => .refused e

/-- Free values are fresh for what comes next. -/
def tick (s : State) : State := { s with nonce := s.nonce + 16 }

/-- The device's turn in the round, from its place `n` on: the first step that is due; with none, a clock passes and the
round begins again. -/
def deviceTurn (n : Nat) (s : State) : State :=
  let s := tick s
  match dueFrom s n (dueKinds.drop n) with
  | some (k, t) => { t with focus := ⟨deviceSeat + k + 1, .lane 0⟩ }
  | none => moveFocus { s with clock := s.clock + 1 }

/-- The thread in focus goes on. -/
def threadTurn (s : State) : Host.Outcome State Fault Refusal :=
  match focusGroup s with
  | some g => afterwards moveFocus (actGroup g s)
  | none => .next (moveFocus s)

/-- The next of the round: the thread in focus, or the next one that is ready, or the device. -/
def roundTurn (s : State) : Host.Outcome State Fault Refusal :=
  if deviceSeat ≤ s.focus.crew then .next (deviceTurn (s.focus.crew - deviceSeat) s)
  else if seatReady s s.focus.crew (tkey s.focus.who) then threadTurn s
  else
    let s := moveFocus s
    if deviceSeat ≤ s.focus.crew then .next (deviceTurn 0 s) else threadTurn s

/-! ## Turns -/

/-- Whether a step that a debugger has asked for can be made no more: its thread is gone, parked or exited. -/
def stepOver (s : State) (slot : Nat) (who : Tid) : Bool :=
  !(onDevice s (crewAt s slot).ctx) || !(canStep (crewAt s slot) (tkey who))

/-- Whether a group may be served out of the order of the round: its time has come, the slice sequencer lets it be served, and
it passes over nobody for too long. -/
def servedOutOfTurn (s : State) (g : Group) : Bool := isDue s g && servable s g && !(starves s g)

/-- Whether a turn can take place now. A step waits for its thread, for its crew to have its lanes and be active and for its
context's handler crews to have been placed (17 R331, R354, 05 R114); a read for the crew's slots (17 R353). In a context that is
not halted, an issue takes place only where the slice sequencer may serve it (05 R109, R116). -/
def turnReady (s : State) (t : Turn) : Bool :=
  match t with
  | .issue slot who =>
    let c := crewAt s slot
    let x := tgetD s.contexts c.ctx default
    stepOver s slot who || (c.active && isPlaced s slot c && (runsSystem c || x.toPlace.isEmpty) && (match groupOf s slot (tkey who) with
      | some g => if x.halted && !(runsSystem c) then isDue s g else servedOutOfTurn s g
      | none => false))
  | .read _ ctx slot _ _ => !(readWaits s ctx slot)
  | .elapse clocks _ => mayPass s clocks
  | _ => true

/-- The crew that a turn steps. -/
def Turn.crew (t : Turn) : Option Nat :=
  match t with
  | .issue slot _ => some slot
  | _ => none

/-- The first turn that can take place, and the others. The steps of a crew keep their order (17 R354): none of those in `held` is
taken. -/
def takeTurn (s : State) (held : List Nat) : List Turn → Option (Turn × List Turn)
  | [] => none
  | t :: ts =>
    if turnReady s t && !(t.crew.any held.contains) then some (t, ts)
    else (takeTurn s (t.crew.toList ++ held) ts).map (fun r => (r.1, t :: r.2))

/-- A packet is performed, by its type (20 R376, R379). -/
def performPacket (type : Nat) (src : PktSrc) (f : List PktField) (s : State) : Host.Outcome State Fault Refusal :=
  match type with
  | 0x000 => execNopPacket src f s
  | 0x001 => execCtxnew src f s
  | 0x002 => execCtxkill src f s
  | 0x003 => execPreempt src f s
  | 0x004 => execCtxrun src f s
  | 0x005 => execQbind src f s
  | 0x006 => execQunbind src f s
  | 0x007 => execRecact src f s
  | 0x008 => execLimits src f s
  | 0x009 => execWdrestart src f s
  | 0x00A => execPeers src f s
  | 0x00B => execExportWin src f s
  | 0x00C => execRxring src f s
  | 0x00D => execMigrate src f s
  | 0x00E => execEvict src f s
  | 0x00F => execSopen src f s
  | 0x010 => execSfree src f s
  | 0x020 => execJobopen src f s
  | 0x021 => execJobclose src f s
  | 0x022 => execPhaseopen src f s
  | 0x023 => execPhaseclose src f s
  | 0x024 => execGraphopen src f s
  | 0x025 => execGraphclose src f s
  | 0x026 => execLaunch src f s
  | 0x027 => execCancel src f s
  | 0x028 => execWaitPacket src f s
  | 0x029 => execFencePacket src f s
  | 0x030 => execSeedpush src f s
  | 0x031 => execSeedpop src f s
  | 0x032 => execSeedfork src f s
  | _ => .next s

/-- The step of a thread's group by a debugger (17 R354): it issues one instruction; until it has its clause and its lanes,
the turn stays. The focus of the round is kept. -/
def stepTurn (slot : Nat) (who : Tid) (s : State) : Host.Outcome State Fault Refusal :=
  if stepOver s slot who then .next s
  else
    match groupOf s slot (tkey who) with
    | none => .next s
    | some g =>
      let again := if onlyPrepares s g || delayLeft s g != 0 then [Turn.issue slot who] else []
      let back := s.focus
      afterwards (fun t => { t with focus := back, turns := again ++ t.turns }) (actGroup g { s with focus := ⟨slot, who⟩ })

/-- The clock from which a thread may issue, when nothing else withholds it. -/
def readyFrom (s : State) (t : Thread) : Nat := max s.clock t.ready

/-- Whole groups of one crew that stand at one address, in one clause, and are ready on the same clock are ganged (05 R105); in a
halted context they are not (17 R353). -/
def gangThreads (slot : Nat) (keys : List Nat) (s : State) : State :=
  let c := crewAt s slot
  match threadAt c (keys.headD 0) with
  | none => s
  | some t =>
    if !(tgetD s.contexts c.ctx default).halted && t.run == .running && keys.all (fun k => decide (k < 32) &&
        (match threadAt c k with
          | some u => u.pc == t.pc && u.run == t.run && decide (liveClause u = liveClause t) && couldGo s slot c k u &&
              readyFrom s u == readyFrom s t
          | none => false) && (match groupOf s slot k with
          | some g => g.keys.all keys.contains
          | none => false)) then regroup slot keys s
    else s

/-- Whether a group that may be served now is about to issue an instruction. -/
def issuesNow (s : State) (g : Group) : Bool :=
  runnable s g.slot && servedOutOfTurn s g && !(onlyPrepares s g) && delayLeft s g == 0

/-- Whether the groups of two crews can be one issue group: of lanes in the two halves of one partition, at one address, in one
clause, and both about to issue an instruction on this clock (05 R105). A helper is ganged with its recruitment's alone (07
R153). -/
def pairable (s : State) (g h : Group) : Bool :=
  let c := crewAt s g.slot
  let d := crewAt s h.slot
  g.slot != h.slot && g.slot / 48 == h.slot / 48 && c.half != d.half && g.pc == h.pc && !(isHelperKey g.lead) &&
    !(isHelperKey h.lead) && issuesNow s g && issuesNow s h &&
    (match threadAt c g.lead, threadAt d h.lead with
      | some t, some u => t.run == .running && u.run == .running && decide (liveClause t = liveClause u)
      | _, _ => false)

/-- An issue group of two crews issues its instruction on one clock: every effect is taken once for each crew, with its own scalar
registers (05 R106). The second group goes on as the first has left it. -/
def issuePair (g h : Group) (s : State) : Host.Outcome State Fault Refusal :=
  let back := s.focus
  let at_ := fun (x : Group) (s : State) => { s with focus := (⟨x.slot, tidOf x.lead⟩ : Focus) }
  match actGroup g (at_ g s) with
  | .next t =>
    (match groupOf t h.slot h.lead with
      | some x => afterwards (fun u => { u with focus := back }) (actGroup x (at_ h t))
      | none => .next { t with focus := back })
  | .fault e => .fault e
  | .refused e => .refused e

/-- Two groups are ganged for one instruction, where they can be (05 R105, R106); what they push arrives in the order of their
slots (08 R174). -/
def pairTurn (a b : Nat) (who other : Tid) (s : State) : Host.Outcome State Fault Refusal :=
  match groupOf s a (tkey who), groupOf s b (tkey other) with
  | some g, some h => if pairable s g h then (if a ≤ b then issuePair g h s else issuePair h g s) else .next s
  | _, _ => .next s

/-- Time passes: clocks and µs, with what counts them (08 R183, 12 R252, 21 R402). A store on its way is performed before a µs has
passed (11 R220). -/
def elapse (clocks us : Nat) (s : State) : State :=
  let s := if us = 0 then s else performLateOps (fun _ _ => true) s
  { s with
    clock := s.clock + clocks
    wall := s.wall + us
    contexts := s.contexts.map (fun e => (e.1, if e.2.counts then { e.2 with wdCount := e.2.wdCount + us } else e.2))
    streams := s.streams.map (fun e => (e.1, if stallCounts s e.2 then { e.2 with stall := e.2.stall + us } else e.2))
    fabric := { s.fabric with thrTime := if s.fabric.throttled then s.fabric.thrTime + us else s.fabric.thrTime } }

/-- A turn takes place. Instruction words issue only from their clauses. -/
def runTurn (t : Turn) (s : State) : Host.Outcome State Fault Refusal :=
  match t with
  | .act i => if i.isWord || i == .clauseFetch then .next s else exec i s
  | .packet type src f => performPacket type src f s
  | .issue slot who => stepTurn slot who s
  | .gang slot keys => .next (gangThreads slot keys s)
  | .pair a b who other => pairTurn a b who other s
  | .read r ctx slot off len => execDread r ctx slot off len s
  | .unknown type r => unknownMessage type r s
  | .nak crew copy => .next (takeNak crew copy s)
  | .unserved h => refuseMessage h s
  | .elapse clocks us => .next (elapse clocks us s)
  | .lag b => .next { s with lag := b }
  | .reset => .next (resetDevice s)

/-! ## The step -/

/-- Crews whose lanes helpers hold no longer have been placed (07 R160). -/
def finishEntries (s : State) : State :=
  { s with crews := s.crews.map (fun e => (e.1, { e.2 with entering := e.2.entering && lanesCalled s e.1 e.2.half })) }

/-- What every step ends with: what has been on its way long enough is performed (11 R220), halts that the step began take place
(17 R355), crews that waited for lanes only are placed (07 R160), pending crews that have become able to issue are noted, and the
ages of queue heads count on (05 R115, 08 R175). -/
def keepTime (s : State) : State :=
  let s := takeHalts (performOverdue s)
  let s := if s.crews.any (·.2.entering) then finishEntries s else s
  refreshAges ((usedPartitions s).foldl (fun s p =>
    if s.crews.any (fun e => e.1 / 48 == p && !e.2.active) then noteReady (p / 4) (p % 4) s else s) s)

/-- What happens next: a turn, the start of the device, or the next of the round. -/
def happen (s : State) : Host.Outcome State Fault Refusal :=
  match takeTurn s [] s.turns with
  | some (t, ts) => runTurn t (tick { s with turns := ts })
  | none => if s.boot.begun then roundTurn s else execDeviceStart s

end Sys2Proof.Machine
end

