-- ==== Sys2Proof/Machine/Step.lean ====
section
/-!
DEFINITION. The step of the machine, and the placing of an instruction where the next step runs it.
-/
namespace Sys2Proof.Machine

/-- One step (log entry 1). -/
def step (s : State) : Host.Outcome State Fault Refusal := afterwards keepTime (happen s)

/-- The state with an instruction of `nbits` bits `w` where the next step fetches it (log entry 37). -/
def State.withFetchWord (s : State) (nbits w : Nat) : State := placeProgram s nbits w

end Sys2Proof.Machine
end

