-- ==== Sys2Proof/Safety.lean ====
section
/-!
DEFINITION. The terms in which statements speak of runs: outcomes that go on, canonical forms, instructions that are ready
to take effect, and what an instruction leaves unchanged.
-/
namespace Sys2Proof.Machine

/-! ## Outcomes and canonical forms -/

/-- The canonical form of physical memory: addresses strictly rise. No entry can equal what an unlisted address reads as,
since that is a free value (log entry 3). -/
abbrev Memory.wf (m : List Host.Cell) : Bool := trises m

/-- The outcome goes on: it is a next state, no fault and no refusal. -/
def goesOn (r : Host.Outcome State Fault Refusal) : Bool :=
  match r with
  | .next _ => true
  | .fault _ => false
  | .refused _ => false

/-- A safe step: the machine goes on. -/
def safeStep (s : State) : Bool := goesOn (step s)

/-! ## Readiness -/

/-- A group in focus whose instruction passes the checks of its issue (02 R39, 05 R118, 07 R150, R152, 01 R13, R24, 03
R63). -/
def Ready (i : Instr) (g : Group) (s : State) : Prop :=
  focusGroup s = some g ∧ groupTrap i g (atIssue i g s) = none ∧
    ∀ k ∈ g.keys, threadTrap (atIssue i g s) g.slot i k = none

/-- A key that names a thread of its kind: below 32 a lane, from 32 up a helper. -/
def keyFits (c : Crew) (k : Nat) : Bool := ((threadAt c k).bind (·.helper)).isSome == decide (32 ≤ k)

/-- A register that thread `k` can write: a lane's are all but s31 (01 R12), a helper's are v32 to v63 (07 R150). -/
def writable (c : Crew) (k sel : Nat) : Bool :=
  match (threadAt c k).bind (·.helper) with
  | some _ => decide (32 ≤ sel ∧ sel < 64)
  | none => decide (sel < 127)

/-- No counted operation that has returned unwaited wrote the place, so that a write to it stays (01 R23). -/
def landed (c : Crew) (pl : Nat) : Bool :=
  c.ops.all (fun o => (landedWord o pl).isNone)

/-! ## Frames -/

/-- A thread without what writes to its registers change: a helper's own registers. -/
def Thread.bare (t : Thread) : Thread := { t with helper := t.helper.map (fun h => { h with priv := [] }) }

/-- A thread without that and without its predicates. -/
def Thread.bareP (t : Thread) : Thread := { t.bare with preds := 0 }

/-- Where a thread that has gone on after instruction `i` at `pc` stands. -/
def goneOn (i : Instr) (pc : Nat) (t u : Thread) : Prop :=
  u.pc = nextPc pc i.words ∧ u.run = .running ∧ { u.bareP with pc := t.pc, run := t.run, ready := t.ready } = t.bareP

/-- A counted operation without what register writes note in it: the places that they wrote, and the values that reads there may
still give (01 R23). -/
def Op.plain (o : Op) : Op := { o with clobbered := [], olds := [] }

/-- Crews differ at most in registers and predicates, in the flags of 10 R196, in poison that a write has covered (14 R308)
or replaced (17 R350), and in the timing tables, the latest issues among them. -/
def sameButRegs (c c' : Crew) : Prop :=
  c' = { c with
    sregs := c'.sregs, space := c'.space, spacePoison := c'.spacePoison, sregPoison := c'.sregPoison, cover := c'.cover, inUse := c'.inUse,
    dirty := c'.dirty, hazards := c'.hazards, ops := c'.ops, floatUntil := c'.floatUntil, last := c'.last, lastOn := c'.lastOn,
    threads := c'.threads } ∧
  c'.ops.map Op.plain = c.ops.map Op.plain

/-- States differ at most in the crew of a slot, the clock and the index of free values: memory, every other crew, and the
rest of the device are as before. -/
def onlyCrew (slot : Nat) (s t : State) : Prop :=
  t = { s with crews := t.crews, clock := t.clock, nonce := t.nonce } ∧ ∀ x, x ≠ slot → tget t.crews x = tget s.crews x

/-- Registers outside the given places are as before. -/
def regsKept (places : List Nat) (c c' : Crew) : Prop :=
  ∀ k n, keyFits c k = true → n < 128 → place k n ∉ places → rawReg c' k n = rawReg c k n

/-- Predicates outside the given places are as before. -/
def predsKept (places : List Nat) (c c' : Crew) : Prop :=
  ∀ k p, p < 8 → predPlace k p ∉ places → rawPred c' k p = rawPred c k p

/-- No thread comes or goes; the threads of a group have gone on after instruction `i`, the others are as before. -/
def groupWent (i : Instr) (g : Group) (c c' : Crew) : Prop :=
  (∀ k, threadAt c k = none → threadAt c' k = none) ∧
    ∀ k u, threadAt c k = some u →
      ∃ u', threadAt c' k = some u' ∧ (k ∈ g.keys → goneOn i g.pc u u') ∧ (k ∉ g.keys → u' = u)

/-- The frame of an instruction that writes registers and predicates at `places` and goes on, with the group's crew `c`
before it. -/
def crewFrame (i : Instr) (g : Group) (places : List Nat) (c : Crew) (s t : State) : Prop :=
  onlyCrew g.slot s t ∧ sameButRegs c (crewAt t g.slot) ∧ regsKept places (crewAt s g.slot) (crewAt t g.slot) ∧
    predsKept places (crewAt s g.slot) (crewAt t g.slot) ∧ groupWent i g (crewAt s g.slot) (crewAt t g.slot)

/-- The frame of an instruction that writes registers and predicates at `places` and nothing else, and goes on. -/
def regFrame (i : Instr) (g : Group) (places : List Nat) (s t : State) : Prop :=
  crewFrame i g places (crewAt s g.slot) s t

/-- The frame of one that also ORs flags into FPCTL (04 R83). -/
def fpFrame (i : Instr) (g : Group) (places : List Nat) (f : FpFlags) (s t : State) : Prop :=
  crewFrame i g places { crewAt s g.slot with fpctl := (crewAt s g.slot).fpctl ||| f.toWord } s t

/-- The places of `n` registers from selector `d` on, in every thread of a group. -/
def resultPlaces (g : Group) (d n : Nat) : List Nat := g.keys.flatMap (fun k => (List.range n).map (fun j => place k (d + j)))

/-- The places of a predicate in every thread of a group. -/
def predResultPlaces (g : Group) (p : Nat) : List Nat := g.keys.map (fun k => predPlace k p)

/-! ## Results -/

/-- A result of `n` words in every thread of a group: each register that the thread can write, and that no counted
operation stands returned and unwaited on, holds its word; a scalar destination takes the lowest thread's (01 R14, R23). -/
def resultIs (g : Group) (s t : State) (d : Sel) (n : Nat) (val : Nat → Nat → Word) : Prop :=
  ∀ k ∈ g.keys, ∀ j, j < n → writable (crewAt s g.slot) k (d.toNat + j) = true →
    landed (crewAt s g.slot) (place k (d.toNat + j)) = true →
    rawReg (crewAt t g.slot) k (d.toNat + j) = val (if isScalar d then g.lead else k) j

/-- What thread `k` of a group reads registers as when instruction `i` issues. -/
abbrev reads (i : Instr) (g : Group) (s : State) (k : Nat) : Reader := reader (atIssue i g s) g k

/-- A predicate result in every thread of a group; a write to p7 is discarded (01 R12). -/
def predIs (g : Group) (t : State) (p : PSel) (val : Nat → Bool) : Prop :=
  ∀ k ∈ g.keys, p.toNat ≠ 7 → rawPred (crewAt t g.slot) k p.toNat = val k

/-- The threads of a group that compute a register result: one when the destination is scalar (01 R14). -/
def computing (g : Group) (d : Sel) : List Nat := if isScalar d then [g.lead] else g.keys

/-- The flags that the threads of a list raise together. -/
def flagsOf (f : Nat → FpFlags) (ks : List Nat) : FpFlags := ks.foldl (fun a k => a.or (f k)) FpFlags.none

end Sys2Proof.Machine
end

