-- ==== Sys2Proof/Certificates/Slice0/Obligations.lean ====
section
/-!
DEFINITION. The statements for the provers, and the tables from the rules of spec/ that they speak of.
-/

namespace Sys2Proof.Claim
open Sys2Proof Sys2Proof.Machine

/-- The exact quotient toward minus infinity of a number by a power of two, as a word. -/
def scaled (x : Int) (n : Nat) : Word := BitVec.ofInt 32 (x / 2 ^ n)

/-- Format R instructions that write a word computed from A and B (03 R45, R49). Arithmetic is on the numbers that the
words stand for. -/
def wordOfAB : List ((Sel → Sel → Sel → Bool → BitVec 3 → Instr) × (Word → Word → Word)) :=
  [(.iadd, fun x y => BitVec.ofNat 32 (x.toNat + y.toNat)),
   (.isub, fun x y => BitVec.ofInt 32 (x.toNat - y.toNat)),
   (.imul, fun x y => BitVec.ofNat 32 (x.toNat * y.toNat)),
   (.imulhi, fun x y => scaled (x.toInt * y.toInt) 32),
   (.imulhu, fun x y => BitVec.ofNat 32 (x.toNat * y.toNat / 2 ^ 32)),
   (.and, fun x y => x &&& y),
   (.or, fun x y => x ||| y),
   (.xor, fun x y => x ^^^ y),
   (.andn, fun x y => x &&& ~~~y),
   (.shl, fun x y => BitVec.ofNat 32 (x.toNat * 2 ^ y.toNat)),
   (.shr, fun x y => BitVec.ofNat 32 (x.toNat / 2 ^ y.toNat)),
   (.sar, fun x y => scaled x.toInt y.toNat),
   (.imin, fun x y => if x.toInt ≤ y.toInt then x else y),
   (.imax, fun x y => if y.toInt ≤ x.toInt then x else y),
   (.umin, fun x y => if x.toNat ≤ y.toNat then x else y),
   (.umax, fun x y => if y.toNat ≤ x.toNat then x else y),
   (.bfe, extractField)]

/-- Format R instructions that also read D, with values of D, A and B (03 R45, R49, R51). -/
def wordOfDAB : List ((Sel → Sel → Sel → Bool → BitVec 3 → Instr) × (Word → Word → Word → Word)) :=
  [(.imad, fun z x y => BitVec.ofNat 32 (z.toNat + x.toNat * y.toNat)),
   (.bfi, insertField),
   (.idot4, dot4)]

/-- Format I instructions with an immediate of 8 bits (03 R46). -/
def wordOfImm8 : List ((Sel → Sel → BitVec 8 → BitVec 3 → Instr) × (Word → BitVec 8 → Word)) :=
  [(.iaddi, fun x n => BitVec.ofInt 32 (x.toNat + n.toInt)),
   (.andi, fun x n => x &&& BitVec.ofNat 32 n.toNat),
   (.ori, fun x n => x ||| BitVec.ofNat 32 n.toNat),
   (.xori, fun x n => x ^^^ BitVec.ofNat 32 n.toNat),
   (.imuli, fun x n => BitVec.ofInt 32 (x.toInt * n.toInt))]

/-- Shifts by an immediate of 5 bits (03 R46). -/
def wordOfImm5 : List ((Sel → Sel → BitVec 5 → BitVec 3 → Instr) × (Word → BitVec 5 → Word)) :=
  [(.shli, fun x n => BitVec.ofNat 32 (x.toNat * 2 ^ n.toNat)),
   (.shri, fun x n => BitVec.ofNat 32 (x.toNat / 2 ^ n.toNat)),
   (.sari, fun x n => scaled x.toInt n.toNat)]

/-- Instructions of one operand (03 R50, R52). -/
def wordOfA : List ((Sel → Sel → BitVec 3 → Instr) × (Word → Word)) :=
  [(.popc, popCount), (.clz, clzWord), (.ctz, ctzWord), (.brev, bitReverse), (.bswap, byteSwap),
   (.iabs, fun x => BitVec.ofInt 32 x.toInt.natAbs),
   (.ineg, fun x => BitVec.ofInt 32 (-x.toInt)),
   (.not, fun x => ~~~x),
   (.mov, fun x => x)]

/-- An instruction that writes one word: when it is ready it goes on with the word in every thread's destination, and with
nothing else changed. -/
def WritesWord (i : Instr) (d : Sel) (f : Reader → Word) : Prop :=
  ∀ (g : Group) (s : State), Ready i g s →
    ∃ t, exec i s = .next t ∧ regFrame i g (resultPlaces g d.toNat 1) s t ∧
      resultIs g s t d 1 (fun k _ => f (reads i g s k))

/-- An instruction that writes a double to a pair, low word in the even register. -/
def WritesPair (i : Instr) (d : Sel) (f : Reader → DWord) : Prop :=
  ∀ (g : Group) (s : State), Ready i g s →
    ∃ t, exec i s = .next t ∧ regFrame i g (resultPlaces g d.toNat 2) s t ∧
      resultIs g s t d 2 (fun k j => (f (reads i g s k)).extractLsb' (32 * j) 32)

/-- An instruction that writes a predicate in every thread. -/
def WritesPred (i : Instr) (p : PSel) (f : Reader → Bool) : Prop :=
  ∀ (g : Group) (s : State), Ready i g s →
    ∃ t, exec i s = .next t ∧ regFrame i g (predResultPlaces g p.toNat) s t ∧ predIs g t p (fun k => f (reads i g s k))

/-- The threads of a group, with a trap each. -/
def allFail (g : Group) (t : Trap) : List (Nat × Trap) := g.keys.map (fun k => (k, t))

/-- A group in focus that does not stand waiting within an instruction that it has issued. -/
def arrives (g : Group) (s : State) : Prop := focusGroup s = some g ∧ hasIssued (crewAt s g.slot) g.lead = false

/-- An instruction that every group which issues it takes a cause for, with all of its threads. -/
def TakesTrap (i : Instr) (cause : Nat) : Prop :=
  ∀ (g : Group) (s : State), arrives g s →
    exec i s = .next (takeFault g.slot g.pc (allFail g (trapC cause)) (atIssue i g s))

/-- What the conditions of ICMP say of two words, by CC (03 R53). -/
def icmpMeans (c : Nat) (x y : Word) : Prop :=
  [x = y, x ≠ y, x.toInt < y.toInt, x.toInt ≤ y.toInt, x.toInt > y.toInt, x.toInt ≥ y.toInt, x.toNat < y.toNat,
    x.toNat ≤ y.toNat, x.toNat > y.toNat, x.toNat ≥ y.toNat, x &&& y ≠ 0].getD c False

/-- What the conditions of FCMP and DCMP say of the order of two values, by CC (04 R90). -/
def fcmpMeans (c : Nat) (o : FpOrder) : Prop :=
  [o = .eq, o ≠ .eq, o = .lt, o = .lt ∨ o = .eq, o = .gt, o = .gt ∨ o = .eq, o ≠ .un, o = .un, o = .lt ∨ o = .un,
    o ≠ .gt, o = .gt ∨ o = .un, o ≠ .lt].getD c False

/-- Which compares raise NV: LT, LE, GT and GE on any NaN, the others on a signalling one (04 R90). -/
def compareFlags (c : Nat) (x y : FpVal) : FpFlags :=
  { FpFlags.none with
    nv := x.isSignalling || y.isSignalling || ([2, 3, 4, 5].contains c && (x.isNan || y.isNan)) }

/-- An instruction that writes a floating-point result of `n` words, computed from the rounding mode and the registers:
when it is ready it goes on with the result in every thread's destination, with the flags of its threads ORed into FPCTL
(04 R83), and with nothing else changed. -/
def WritesFloat (i : Instr) (d : Sel) (n : Nat) (f : Nat → Reader → Nat × FpFlags) : Prop :=
  ∀ (g : Group) (s : State), Ready i g s →
    ∃ t, exec i s = .next t ∧
      fpFrame i g (resultPlaces g d.toNat n)
        (flagsOf (fun k => (f (roundMode (atIssue i g s) g.slot) (reads i g s k)).2) (computing g d)) s t ∧
      resultIs g s t d n (fun k j =>
        BitVec.ofNat 32 ((f (roundMode (atIssue i g s) g.slot) (reads i g s k)).1 / 2 ^ (32 * j)))

/-- A floating-point compare of two values. -/
def WritesCompare (i : Instr) (p : PSel) (c : Nat) (x y : Reader → FpVal) : Prop :=
  ∀ (g : Group) (s : State), Ready i g s →
    ∃ t, exec i s = .next t ∧
      fpFrame i g (predResultPlaces g p.toNat)
        (flagsOf (fun k => compareFlags c (x (reads i g s k)) (y (reads i g s k))) g.keys) s t ∧
      ∀ k ∈ g.keys, p.toNat ≠ 7 →
        (rawPred (crewAt t g.slot) k p.toNat = true ↔ fcmpMeans c (compareVal (x (reads i g s k)) (y (reads i g s k))))

/-- FP32 instructions of A and B, by rounding mode (04 R88, R89). -/
def floatOfAB : List ((Sel → Sel → Sel → Bool → BitVec 3 → Instr) × (Nat → Nat → Nat → Nat × FpFlags)) :=
  [(.fadd, fp32.add), (.fsub, fp32.sub), (.fmul, fp32.mul), (.fmin, fun _ => fp32.minMax false),
   (.fmax, fun _ => fp32.minMax true)]

/-- The sub-operations of FUNARY (04 R91). -/
def floatOfA : List ((Sel → Sel → BitVec 3 → Instr) × (Nat → Nat → Nat × FpFlags)) :=
  [(.fabs, fun _ x => (x % 2 ^ 31, .none)),
   (.fneg, fun _ x => ((x + 2 ^ 31) % 2 ^ 32, .none)),
   (.frcp, recip), (.frsq, fun _ => recipSqrt), (.fsqrt, sqrtFp), (.fexp2, fun _ => exp2Fp), (.flog2, fun _ => log2Fp),
   (.fsin, fun _ => sinPi), (.fcos, fun _ => cosPi), (.ffloor, fun _ => roundIntegral 3), (.fceil, fun _ => roundIntegral 2),
   (.ftrunc, fun _ => roundIntegral 1), (.frint, roundIntegral), (.fclass, fun _ x => (classify x, .none))]

/-- Packed instructions: the format of the halves, and what each half becomes from halves of D, A and B (04 R92). -/
def packedOps : List ((Sel → Sel → Sel → Bool → BitVec 3 → Instr) × FpFmt × (Nat → Nat → Nat → Nat → Nat × FpFlags)) :=
  [(.hadd2, fp16, fun m _ x y => fp16.add m x y), (.hmul2, fp16, fun m _ x y => fp16.mul m x y),
   (.hfma2, fp16, fun m z x y => fp16.fma m x y z), (.badd2, bf16, fun m _ x y => bf16.add m x y),
   (.bmul2, bf16, fun m _ x y => bf16.mul m x y), (.bfma2, bf16, fun m z x y => bf16.fma m x y z)]

/-- The low and the high half of a packed result, with the flags of both. -/
def bothHalves (f : Nat → Nat → Nat → Nat × FpFlags) (z x y : Nat) : Nat × FpFlags :=
  let lo := f (z % 65536) (x % 65536) (y % 65536)
  let hi := f (z / 65536) (x / 65536) (y / 65536)
  (lo.1 + hi.1 * 65536, lo.2.or hi.2)

/-- Whether a × 2^p lies below b × 2^q. -/
def below (x y : Nat × Int) : Bool := decide (x.1 * 2 ^ (x.2 - y.2).toNat < y.1 * 2 ^ (y.2 - x.2).toNat)

/-- The magnitude that a finite encoding without its sign stands for, as a multiple of the unit in its last place. -/
def magnitude (f : FpFmt) (x : Nat) : Nat × Int :=
  match f.value x with
  | .fin _ m e => (m, e)
  | _ => (0, 0)

/-- The result and the flags of one rounding of (−1)^neg × m × 2^e to a format are those of 04 R84 and R86. -/
def roundsRight (f : FpFmt) (mode : Nat) (sat neg : Bool) (m : Nat) (e : Int) : Prop :=
  let v := (m, e)
  let r := f.round mode sat neg m e false
  let away := mode = 2 ∧ neg = false ∨ mode = 3 ∧ neg = true
  let near := mode = 0
  let nx := { FpFlags.none with nx := true }
  let tiny := { FpFlags.none with uf := true, nx := true }
  let least := 2 ^ f.mbits
  (∀ lo, lo < f.maxFinite → below v (magnitude f lo) = false → below v (magnitude f (lo + 1)) = true →
    let x := magnitude f lo
    let mid := (2 * x.1 + 1, x.2 - 1)
    let up := away ∨ near ∧ (below mid v = true ∨ below v mid = false ∧ lo % 2 = 1)
    let small := near ∧ below v (4 * least - 1, f.emin - 2) = true ∨ ¬near ∧ ¬away ∨
      away ∧ below (2 * least - 1, f.emin - 1) v = false
    (below x v = false → r = (f.signed neg lo, .none)) ∧
    (below x v = true →
      (up → r.1 = f.signed neg (lo + 1)) ∧ (¬up → r.1 = f.signed neg lo) ∧
      (lo + 1 < least ∨ lo + 1 = least ∧ small → r.2 = tiny) ∧ (least ≤ lo ∨ lo + 1 = least ∧ ¬small → r.2 = nx))) ∧
  (below v (magnitude f f.maxFinite) = false →
    let x := magnitude f f.maxFinite
    let mid := (2 * x.1 + 1, x.2 - 1)
    let beyond := away ∧ below x v = true ∨ near ∧ (below mid v = true ∨ below v mid = false ∧ x.1 % 2 = 1) ∨
      ¬near ∧ ¬away ∧ below v (x.1 + 1, x.2) = false
    (below x v = false → r = (f.signed neg f.maxFinite, .none)) ∧
    (below x v = true → ¬beyond → r = (f.signed neg f.maxFinite, nx)) ∧
    (beyond → r = (if near ∨ away then f.infinity sat neg else f.signed neg f.maxFinite,
      { FpFlags.none with of := true, nx := true })))

/-- A conversion passes its checks for every thread of a group: its control word, and the registers that only that word
names (04 R94, R96, R99). -/
def converts (chk : Reader → Option Trap) (more : Reader → List Nat × List Nat) (i : Instr) (g : Group) (s : State) : Prop :=
  ∀ k ∈ g.keys, chk (reads i g s k) = none ∧
    namedTrap (atIssue i g s) g.slot k (more (reads i g s k)).1 (more (reads i g s k)).2 = none

/-- Loads: size in bytes, and whether the value is sign-extended (03 R61). -/
def loadKinds : List ((Sel → Sel → BitVec 8 → BitVec 3 → Instr) × Nat × Bool) :=
  [(.ldb, 1, false), (.ldbs, 1, true), (.ldh, 2, false), (.ldhs, 2, true), (.ldw, 4, false), (.ldd, 8, false),
   (.ldq, 16, false)]

/-- Stores: size in bytes, and whether the store is STNT (03 R61, R66). -/
def storeKinds : List ((Sel → Sel → BitVec 8 → BitVec 3 → Instr) × Nat × Bool) :=
  [(.stb, 1, false), (.sth, 2, false), (.stw, 4, false), (.std, 8, false), (.stq, 16, false), (.stnt, 16, true)]

/-- Registers that an access of a size takes: one for a byte, a half or a word, else one for each word. -/
def accessRegs (size : Nat) : Nat := if size ≤ 4 then 1 else size / 4

/-- Word `j` of what a load gives, from its bytes, lowest address first (00 R4, 03 R61). -/
def loadWord (size : Nat) (signed : Bool) (bs : List Byte) (j : Nat) : Word :=
  if signed then (BitVec.ofNat (8 * size) (ofBytes bs)).signExtend 32 else BitVec.ofNat 32 (ofBytes bs / 2 ^ (32 * j))

/-- The virtual address of a thread's access: A plus the offset in units of the size (03 R62). -/
abbrev accessVa (i : Instr) (g : Group) (s : State) (k : Nat) (a : Sel) (off : BitVec 8) (size : Nat) : Nat :=
  addressM (reads i g s k) a off size

/-- The clusters that a crew's seam windows reach: those of its seam when that is cooperative (05 R104). -/
def coopClusters (s : State) (slot : Nat) : List Nat :=
  match (crewAt s slot).role with
  | .seam id _ _ =>
    let m := tgetD s.seams id default
    if bitAt (m.words.getD 6 0).toNat 18 = true then m.clusters else []
  | .handler _ => []

/-- What an access at an offset of a cluster's window reaches (10 R201 to R204). -/
def reachesBank (s : State) (slot cl o va size : Nat) (u : Use) (sys : Bool) : Prop :=
  let c := clusterAt s cl
  let bs := (List.range 32).filter (fun b => bankModeOf c b == 1)
  let fifo := fun (b : Nat) => bankModeOf c b = 2
  let b := (o - 0x3FF000) / 128
  let r := (reach s slot va size u sys).1
  (o < 0x3FF000 ∨ (∀ j, j < 32 → ¬fifo j) →
    (o + size ≤ bs.length * 0x20000 →
      r = .inr (.bank cl (bs.getD (o / 64 % bs.length) 0 * 0x20000 + o / 64 / bs.length * 64 + o % 64))) ∧
    (bs.length * 0x20000 < o + size → r = .inl ⟨0x06, va, 0, 0, false⟩)) ∧
  (0x3FF000 ≤ o → (∃ j, j < 32 ∧ fifo j) →
    (u = .store → fifo b → o % 128 = 0 → size ∈ [4, 8, 16] → r = .inr (.port cl b 0)) ∧
    (u = .load → fifo b → o % 128 = 0 → size = 4 → r = .inr (.port cl b 0)) ∧
    (u = .load → fifo b → o % 128 = 64 → size ∈ [4, 8, 16] → r = .inr (.port cl b 64)) ∧
    (u = .load → fifo b → o % 128 = 0 → size ≠ 4 → r = .inl ⟨0x06, va, 0, 0, false⟩) ∧
    (u = .store → fifo b → o % 128 = 64 → r = .inl ⟨0x06, va, 0, 0, false⟩) ∧
    (u = .atomic → fifo b → o % 128 = 0 ∨ o % 128 = 64 → r = .inl ⟨0x09, va, 0, 0, false⟩) ∧
    (¬fifo b ∨ o % 128 ≠ 0 ∧ o % 128 ≠ 64 ∨ u = .zero → r = .inl ⟨0x06, va, 0, 0, false⟩))

/-- A thread's load consumes data that is poisoned, or that a link returns corrupted: none that its own pending stores cover (03
R63, check 7). -/
def consumes (s : State) (slot k : Nat) (r : Reach) (size : Nat) : Prop :=
  match r with
  | .mem pa _ => spoiltRead s pa size = true ∨ ∃ j, j < size ∧ pa + j ∈ s.memPoison ∧ pendingByte (pendOf s slot k) none (pa + j) = none
  | .bank cl key =>
    ∃ j, j < size ∧ key + j ∈ (clusterAt s cl).poison ∧ pendingByte (pendOf s slot k) (some cl) (key + j) = none
  | _ => False

/-- What a thread's load at issue reaches. -/
abbrev loadReach (i : Instr) (g : Group) (s : State) (k : Nat) (a : Sel) (off : BitVec 8) (size : Nat) :
    (Trap ⊕ Reach) × State :=
  reach (atIssue i g s) g.slot (accessVa i g s k a off size) size .load (runsSystem (crewAt (atIssue i g s) g.slot))

/-- A thread's load at issue, once its address has been translated, has nothing to do before it reads: no pending store must
become an event, and no byte is poisoned. -/
def settledAt (w : State) (g : Group) (a : Sel) (k size : Nat) (r : Reach) : Prop :=
  beforeAccess g.slot (receivers (isScalar a) g k) r w = w ∧
    (isScalar a = true → settleShared g.slot g.keys r size w = w) ∧ loadPoisoned w g.slot k r size = false

/-- Loads of some threads, one after another from a state `u` on: each passes every check of 03 R63, in the state that the walks
before it and its own have left, so that a translation that is not cached yet is (10 R213); none waits behind another access of the
instruction, none is a pop, and with a slot none is strongly ordered. `v` gives the bytes that each reads; `t` is the state after
them. -/
def settledLoads (i : Instr) (g : Group) (s : State) (a : Sel) (off : BitVec 8) (size : Nat) (sb : BitVec 3) :
    List Nat → State → (Nat → List Byte) → State → Prop
  | [], u, _, t => t = u
  | k :: ks, u, v, t => ∃ r w,
      reach u g.slot (accessVa i g s k a off size) size .load (runsSystem (crewAt u g.slot)) = (.inr r, w) ∧
        standsBehind u g (atIssue i g s).nonce k = false ∧ (∀ cl b, r ≠ .port cl b 64) ∧ (sb = 0 ∨ r.strong = false) ∧
        settledAt w g a k size r ∧ v k = loadBytes w g.slot k r size ∧ settledLoads i g s a off size sb ks w v t

/-- The counted operations of a crew bear numbers below the next one. -/
def opsNumbered (s : State) (slot : Nat) : Prop := ∀ o ∈ (crewAt s slot).ops, o.id < s.uid

/-- A counted operation of a slot stands for a group, returned or not, that writes words at the destinations of its threads. -/
def standsFor (g : Group) (t : State) (sb : BitVec 3) (d : Sel) (n : Nat) (done : Bool) (val : Nat → Nat → Word) : Prop :=
  ∃ o ∈ (crewAt t g.slot).ops, o.slot = sb.toNat ∧ o.done = done ∧ o.members = g.keys ∧
    ∀ k ∈ g.keys, ∀ j, j < n →
      (place (if isScalar d then g.lead else k) (d.toNat + j), val (if isScalar d then g.lead else k) j) ∈ o.writes

/-- The state in which a store of some threads through a leaf takes place: D is set, and their pending stores to its bytes are
events (10 R213, 03 R66). -/
def storing (slot : Nat) (ks : List Nat) (pa size : Nat) (l : Leaf) (s : State) : State :=
  settleBytes slot ks none pa size (openLeaf l pa size s)

/-- A run of bytes reads and is stored as it stands: the mappings of its page agree (10 R210), and each byte was stored through
the transform of the leaf (10 R215). -/
def plainBytes (s : State) (l : Leaf) (pa n : Nat) : Prop :=
  (∀ j, j < n → blurred s l (pa + j) = false) ∧ disputed (openLeaf l pa n s) pa = false

/-- The thread that makes the access whose result thread `k` takes: the lowest for all with a scalar address (02 R33). -/
def workerOf (g : Group) (a : Sel) (k : Nat) : Nat := if isScalar a then g.lead else k

/-- The runs of physical memory that pending stores of a crew take when those that `sel` picks become events: theirs, and
those of the stores that cannot come after them (00 R7, 11 R225). -/
def pendingRuns (s : State) (slot : Nat) (sel : Pending → Bool) : List (Nat × Nat) :=
  (splitPending sel (crewAt s slot).pend).1.filterMap (fun p =>
    if p.cluster = none then some (p.pa, p.data.length) else none)

/-- Whether a pending store is one of some threads. -/
def storeOf (ks : List Nat) (p : Pending) : Bool := p.who.any (fun k => ks.contains k)

/-- The runs of physical memory that an access for some threads may change: the bytes at its own address, the leaf entry that
takes AC or D (10 R213), and the threads' pending stores (11 R223, R224). -/
def footprint (s : State) (slot : Nat) (ks : List Nat) (va size : Nat) (u : Use) : List (Nat × Nat) :=
  (match (reach s slot va size u (runsSystem (crewAt s slot))).1 with
    | .inr (.mem pa l) => [(pa, size), (l.addr, 8)]
    | .inr (.reg _ l) => [(l.addr, 8)]
    | _ => []) ++
  pendingRuns s slot (storeOf ks)

/-- The runs of physical memory that stores of a crew which are still to take place change, each with its leaf entry; an access
that stands behind a port access has yet to find what it reaches. -/
def lateRuns (c : Crew) : List (Nat × Nat) :=
  c.ops.flatMap (fun o => o.late.flatMap (fun x => match x.reach with
    | some (.mem pa l) => [(pa, x.size), (l.addr, 8)]
    | some (.reg _ l) => [(l.addr, 8)]
    | _ => []))

/-- No access of a thread is on its way to the banks of a cluster. -/
def quietBanks (s : State) (cl : Nat) : Prop :=
  (∀ a ∈ s.atoms, a.reach.inBanks cl = false) ∧
    ∀ e ∈ s.crews, (∀ p ∈ (crewAt s e.1).pend, p.cluster ≠ some cl) ∧
      ∀ o ∈ (crewAt s e.1).ops ++ e.2.ops, ∀ x ∈ o.late, x.reach.any (Reach.inBanks cl) = false

/-- The footprints of accesses made thread after thread, each in the state that the one before left. -/
def footprints {α : Type} (one : Nat → α → α) (fp : Nat → α → List (Nat × Nat)) : List Nat → α → List (Nat × Nat)
  | [], _ => []
  | k :: ks, s => fp k s ++ footprints one fp ks (one k s)

/-- Every byte of memory outside some runs reads as before. -/
def memoryKept (runs : List (Nat × Nat)) (s t : State) : Prop :=
  ∀ x, (∀ r ∈ runs, x < r.1 ∨ r.1 + r.2 ≤ x) → memByte t x = memByte s x

/-- The threads of a group have gone on after `i`, with registers and predicates outside the given places as before. -/
def wentKeeping (i : Instr) (g : Group) (places : List Nat) (s t : State) : Prop :=
  (∀ k ∈ g.keys, ∃ u, threadAt (crewAt t g.slot) k = some u ∧ u.pc = nextPc g.pc i.words ∧ u.run = .running) ∧
    regsKept places (crewAt s g.slot) (crewAt t g.slot) ∧ predsKept [] (crewAt s g.slot) (crewAt t g.slot)

/-- The atomics, with what the word in memory becomes from what it was, B, and the register after B (12 R232, R235). -/
def atomicKinds : List ((Sel → Sel → Sel → Bool → BitVec 3 → Instr) × AtomKind × (Word → Word → Word → Word)) :=
  [(.aadd, .add, fun w b _ => BitVec.ofNat 32 (w.toNat + b.toNat)),
   (.aand, .and, fun w b _ => w &&& b), (.aor, .or, fun w b _ => w ||| b), (.axor, .xor, fun w b _ => w ^^^ b),
   (.amin, .imin, fun w b _ => if w.toInt ≤ b.toInt then w else b),
   (.amax, .imax, fun w b _ => if b.toInt ≤ w.toInt then w else b),
   (.aumin, .umin, fun w b _ => if w.toNat ≤ b.toNat then w else b),
   (.aumax, .umax, fun w b _ => if b.toNat ≤ w.toNat then w else b),
   (.axchg, .xchg, fun _ b _ => b), (.acas, .cas, fun w b b2 => if w = b then b2 else w),
   (.afadd, .fadd, fun w b _ => BitVec.ofNat 32 (fp32.add 0 w.toNat b.toNat).1)]

/-- The control registers of a crew that no instruction but CREGW writes, with its views and its key. -/
def controls (c : Crew) : List Word × List DWord :=
  ([c.viewV, c.viewT, c.viewA, c.crewctl, c.tstream, c.mstatus], [c.spill, c.key])

/-- Threads of a group after a jump: each at its target with no clause, or at the next word; those that stand at one address
are one group still, and only those (05 R109). -/
def jumped (i : Instr) (g : Group) (target : Nat → Option Nat) (t : State) : Prop :=
  (∀ k ∈ g.keys, ∃ u, threadAt (crewAt t g.slot) k = some u ∧ u.run = .running ∧
    u.pc = (target k).getD (nextPc g.pc i.words) ∧ ((target k).isSome = true → u.clause = none)) ∧
  ∀ k ∈ g.keys, ∀ j ∈ g.keys, ∀ u v, threadAt (crewAt t g.slot) k = some u → threadAt (crewAt t g.slot) j = some v →
    (u.group = v.group ↔ u.pc = v.pc)

/-- Nothing but threads, registers at the given places, the crew's own tables, the clock and the index of free values has
changed. -/
def elsewhereKept (g : Group) (places ppreds : List Nat) (s t : State) : Prop :=
  onlyCrew g.slot s t ∧ regsKept places (crewAt s g.slot) (crewAt t g.slot) ∧
    predsKept ppreds (crewAt s g.slot) (crewAt t g.slot) ∧ controls (crewAt t g.slot) = controls (crewAt s g.slot) ∧
    (crewAt t g.slot).fpctl = (crewAt s g.slot).fpctl

/-- The address of a relative branch: the instruction's own plus four times the signed offset, in 64 bits. -/
def relative (pc : Nat) (off : BitVec 18) : Nat := (((pc : Int) + 4 * off.toInt) % 2 ^ 64).toNat

/-- The link of a CALL or JMPR.L: the address of the word after its clause. -/
def linkOf (i : Instr) (g : Group) (j : Nat) : Word := BitVec.ofNat 32 (nextPc g.pc i.words / 2 ^ (32 * j))

/-- The threads of a group whose predicate p, inverted with n, holds. -/
def holds (i : Instr) (g : Group) (s : State) (p : PSel) (n : Bool) (k : Nat) : Bool :=
  readPred (atIssue i g s) g.slot k p.toNat != n

/-- The threads of a group, ready for a mask instruction with mask w, are those that w names, and no lane of theirs is lent
to a helper. -/
def meets (i : Instr) (m : BitVec 4) (w : Word) (g : Group) (s : State) : Prop :=
  Ready i g s ∧ issueClock s g i < 2 ^ 64 ∧ (∀ k ∈ g.keys, joinMask (atIssue i g s) g m k = w) ∧
    named (crewAt s g.slot) w = g.keys ∧ lentLanes s g.slot g.keys = []

/-- The threads of a group have left a meeting as one issue group (05 R113), with registers and predicates outside the given
places, memory and every other crew as before. -/
def leftTogether (i : Instr) (g : Group) (places ppreds : List Nat) (s t : State) : Prop :=
  (∀ k ∈ g.keys, ∃ u, threadAt (crewAt t g.slot) k = some u ∧ u.pc = nextPc g.pc i.words ∧ u.run = .running ∧
    u.group = (crewAt s g.slot).nextGroup) ∧
  regsKept places (crewAt s g.slot) (crewAt t g.slot) ∧ predsKept ppreds (crewAt s g.slot) (crewAt t g.slot) ∧
  controls (crewAt t g.slot) = controls (crewAt s g.slot) ∧ t.mem = s.mem ∧
  ∀ x, x ≠ g.slot → tget t.crews x = tget s.crews x

/-- A mask instruction that gives each participant a word, computed from the participants' registers and predicates. -/
def MeetsWithWord (i : Instr) (m : BitVec 4) (d : Sel) (f : Group → State → Nat → Word) : Prop :=
  ∀ (w : Word) (g : Group) (s : State), meets i m w g s →
    ∃ t, exec i s = .next t ∧ leftTogether i g (resultPlaces g d.toNat 1) [] s t ∧
      (crewAt t g.slot).fpctl = (crewAt s g.slot).fpctl ∧ resultIs g s t d 1 (fun k _ => f g s k)

/-- One that gives each participant a predicate. -/
def MeetsWithPred (i : Instr) (m : BitVec 4) (p : PSel) (f : Group → State → Nat → Bool) : Prop :=
  ∀ (w : Word) (g : Group) (s : State), meets i m w g s →
    ∃ t, exec i s = .next t ∧ leftTogether i g [] (predResultPlaces g p.toNat) s t ∧
      (crewAt t g.slot).fpctl = (crewAt s g.slot).fpctl ∧ predIs g t p (f g s)

/-- The mask register that a mask instruction names (06 R123). -/
def maskReg (i : Instr) : Option (BitVec 4) :=
  match i with
  | .msplit _ _ m => some m
  | .mjoin m => some m
  | .shfli _ _ _ m => some m
  | .shflu _ _ _ m => some m
  | .shfld _ _ _ m => some m
  | .shflx _ _ _ m => some m
  | .vote _ _ _ _ m => some m
  | .ballot _ _ _ m => some m
  | .scan _ _ _ _ m => some m
  | .redux _ _ _ m => some m
  | .elect _ m => some m
  | .matchW _ _ m => some m
  | .matchD _ _ m => some m
  | _ => none

/-- A thread is parked at an address with a record of cause 0x11 that its context has produced. -/
def parkedAt (t : State) (slot k pc : Nat) : Prop :=
  ∃ u n, threadAt (crewAt t slot) k = some u ∧ u.run = .parked n ∧ u.pc = pc ∧
    ∃ r ∈ (tgetD t.contexts (crewAt t slot).ctx default).fq.produced, r.seq = n ∧ (r.words.getD 0 0).toNat % 256 = 0x11

/-- The word with the bits of the lanes of a group that satisfy a condition. -/
def laneBits (g : Group) (h : Nat → Bool) : Word := BitVec.ofNat 32 (((g.keys.filter h).map (fun j => 2 ^ j)).sum)

/-- The source lane of a shuffle, from the thread's lane and the control value; none where it leaves the crew (06 R132). -/
def shuffles : List ((Sel → Sel → Sel → BitVec 4 → Instr) × (Nat → Nat → Option Nat)) :=
  [(.shfli, fun _ c => some c), (.shflu, fun l c => if c ≤ l then some (l - c) else none), (.shfld, fun l c => some (l + c)),
   (.shflx, fun l c => if c < 32 then some (l ^^^ c) else none)]

/-- The operations of SCAN and REDUX, with their identities, by OP (06 R135). -/
def foldOps : List ((Word → Word → Word × FpFlags) × Word) :=
  [(fun a x => (a + x, .none), 0),
   (fun a x => (if a.toInt ≤ x.toInt then a else x, .none), 0x7FFFFFFF),
   (fun a x => (if x.toInt ≤ a.toInt then a else x, .none), 0x80000000),
   (fun a x => (if a.toNat ≤ x.toNat then a else x, .none), 0xFFFFFFFF),
   (fun a x => (if x.toNat ≤ a.toNat then a else x, .none), 0),
   (fun a x => (a &&& x, .none), 0xFFFFFFFF),
   (fun a x => (a ||| x, .none), 0),
   (fun a x => (a ^^^ x, .none), 0),
   (fun a x => (BitVec.ofNat 32 (fp32.add 0 a.toNat x.toNat).1, (fp32.add 0 a.toNat x.toNat).2), 0x80000000),
   (fun a x => (BitVec.ofNat 32 (fp32.minMax false a.toNat x.toNat).1, (fp32.minMax false a.toNat x.toNat).2), 0x7F800000),
   (fun a x => (BitVec.ofNat 32 (fp32.minMax true a.toNat x.toNat).1, (fp32.minMax true a.toNat x.toNat).2), 0xFF800000)]

/-- The first value of a fold with its flags: in the floating-point ones a NaN becomes canonical (06 R136). -/
def foldStart (op : Nat) (x : Word) : Word × FpFlags :=
  if 8 ≤ op ∧ (fp32.value x.toNat).isNan = true then
    (0x7FC00000, { FpFlags.none with nv := (fp32.value x.toNat).isSignalling })
  else (x, .none)

/-- The fold of a list of words from the first on, with the flags of every step; the identity for no words. -/
def foldOf (op : Nat) : List Word → Word × FpFlags
  | [] => ((foldOps.getD op default).2, .none)
  | x :: xs => xs.foldl (fun a y =>
      let r := (foldOps.getD op default).1 a.1 y
      (r.1, a.2.or r.2)) (foldStart op x)

/-- One round of Philox-4x32 on four words with two key words (06 R142). -/
def philoxRound (c : Nat × Nat × Nat × Nat) (k : Nat × Nat) : Nat × Nat × Nat × Nat :=
  let p := 0xD2511F53 * c.1
  let q := 0xCD9E8D57 * c.2.2.1
  ((q / 2 ^ 32).xor (c.2.1.xor k.1), q % 2 ^ 32, (p / 2 ^ 32).xor (c.2.2.2.xor k.2), p % 2 ^ 32)

/-- Philox-4x32-10: ten rounds, the key words growing by their constants after each. -/
def philoxTen (c : Nat × Nat × Nat × Nat) (key : Nat) : Nat × Nat × Nat × Nat :=
  (List.range 10).foldl (fun c n =>
    philoxRound c ((key + n * 0x9E3779B9) % 2 ^ 32, (key / 2 ^ 32 + n * 0xBB67AE85) % 2 ^ 32)) c

/-- The words that a draw instruction writes, from the draw. -/
def draws : List ((Sel → Instr) × Nat × (Nat × Nat × Nat × Nat → Nat → Nat)) :=
  [(.rand, 1, fun w _ => w.1), (.randQ, 4, fun w j => [w.1, w.2.1, w.2.2.1, w.2.2.2].getD j 0),
   (.randF, 1, fun w _ => (fp32.round 0 false false (w.1 / 256) (-24) false).1)]

/-- The counter of a thread's next draw: launch, thread, count, and 0; in a helper's iteration the thread with bit 31 set,
the iteration's own count, and its index (06 R142). -/
def drawOf (s : State) (slot : Nat) (u : Thread) (k : Nat) : Nat × Nat × Nat × Nat :=
  let c := crewAt s slot
  match u.iter with
  | none => ((launchWord s c).toNat, (gtidOf s c (identityLane u k)).toNat, u.draws.toNat, 0)
  | some (ix, e) => ((launchWord s c).toNat, (gtidOf s c (identityLane u k) ||| 0x80000000).toNat, e.toNat, ix.toNat)

/-- A thread after one draw. -/
def drawn (u : Thread) : Thread :=
  match u.iter with
  | none => { u with draws := u.draws + 1 }
  | some (ix, e) => { u with iter := some (ix, e + 1) }

/-- Word 6 of the record of a crew's seam, whose bits 9 to 0 are its crews less one and bit 18 COOP; 0 in a handler crew. -/
def seamWord6 (s : State) (slot : Nat) : Nat :=
  match (crewAt s slot).role with
  | .seam id _ _ => ((tgetD s.seams id default).words.getD 6 0).toNat
  | .handler _ => 0

/-- Whether a barrier is one of a whole seam of several crews (06 R140). -/
def wide (i : Instr) (s : State) (slot : Nat) : Bool := i == .barSeam && decide (0 < bits (seamWord6 s slot) 9 0)

/-- Registers of lanes outside the given places are as before. -/
def lanesKept (places : List Nat) (c c' : Crew) : Prop :=
  ∀ k n, k < 32 → keyFits c k = true → n < 128 → place k n ∉ places → rawReg c' k n = rawReg c k n

/-- The recruitment that a thread of a group serves or has opened, as it stands at issue. -/
def servedRecruit (g : Group) (s : State) (k : Nat) : Option Recruit :=
  tget (crewAt s g.slot).recruits (servedBy (crewAt s g.slot) k).1

/-- FORCED, HFAULT, GRANTED and HANDED of a recruitment (07 R157). -/
def statusOf (r : Recruit) : Nat :=
  (if r.forced then 2 ^ 25 else 0) + (if r.hfault then 2 ^ 24 else 0) + r.granted * 65536 + min r.handed 65535

/-- A thread of a group has gone on after an HNEXT: its index and count of draws in the iteration are as given, the rest of
it, its predicates apart, is as before. -/
def nextIteration (i : Instr) (g : Group) (k : Nat) (it : Option (Word × Word)) (s t : State) : Prop :=
  ∃ u u', threadAt (crewAt s g.slot) k = some u ∧ threadAt (crewAt t g.slot) k = some u' ∧
    goneOn i g.pc { u with iter := it } u'

/-- The last record that a context has produced, if it has produced one more than before (17 R337). -/
def newRecord (ctx : Nat) (s t : State) (r : FaultRec) : Prop :=
  ∀ x, tget s.contexts ctx = some x →
    ∃ y, tget t.contexts ctx = some y ∧ y.fq.produced = x.fq.produced ++ [r] ∧ r.seq = x.fq.nextSeq ∧
      y.fq.nextSeq = (x.fq.nextSeq + 1) % 2 ^ 31

/-- Nothing but a group's crew, the clock, the index of free values and one ticket stream has changed. -/
def onlyStream (n slot : Nat) (s t : State) : Prop :=
  t = { s with crews := t.crews, clock := t.clock, nonce := t.nonce, streams := t.streams } ∧
    (∀ x, x ≠ slot → tget t.crews x = tget s.crews x) ∧ ∀ m, m ≠ n → streamAt t m = streamAt s m

/-- The lowest free stream slot. -/
def lowestFree (s : State) (n : Nat) : Prop :=
  n < 256 ∧ (streamAt s n).state = .free ∧ ∀ m, m < n → (streamAt s m).state ≠ .free

/-- A thread of a group has sent an update that passes its checks: the slot of its stream, the physical address with its
leaf, and the state after its translation. -/
def updateReaches (i : Instr) (a d : Sel) (g : Group) (s : State) (k n pa : Nat) (l : Leaf) (s' : State) : Prop :=
  let va := (pairOf (reads i g s k) a).toNat
  let h := boundHandle s (crewAt s g.slot)
  updateTrap (atIssue i g s) (crewAt (atIssue i g s) g.slot) h (reads i g s k d.toNat).toNat va = none ∧
    streamNamed s (crewAt s g.slot).ctx h = some n ∧
    reachTicket (atIssue i g s) g.slot va (runsSystem (crewAt s g.slot)) = (.inr (pa, l), s')


/-- The members of the COPY family that count, with their counter, how they take the location word, and their plan of
checks 3 to 5 of 13 R269. -/
def copyForms :
    List ((Sel → Sel → Instr) × Nat × (Word → Nat) ×
      (Sel → State → Group → Geom → (Nat → Word) → Trap ⊕ CopyPlan)) :=
  [(fun a _ => .cpin a, 0, refOffset, fun _ => cpinPlan),
   (fun a _ => .cpinr a, 0, fun w => w.toNat, fun _ => cpinrPlan),
   (fun a _ => .cpout a, 1, refOffset, fun _ => cpoutPlan),
   (.cpgath, 0, refOffset, fun b s g => cpgathPlan (reader s g g.lead b.toNat) s g),
   (.cpmc, 0, refOffset, fun b s g => cpmcPlan (reader s g g.lead b.toNat) s g),
   (.cpnet, 3, fun _ => 0, fun b s g => cpnetPlan (pairOf (reader s g g.lead) b) s g)]

/-- A sync word at a place of a scratchpad: TARGET, ARRIVED, GEN, and OVER with WAITERS (13 R278). -/
def syncAt (s : State) (r : ScratchRef) (j : Nat) : Nat :=
  (syncField (clusterAt s r.cl) (scratchKey (clusterAt s r.cl) r.off) j).toNat

/-- The loop instructions of the MATRIX family, with the kind of their job and their checks. -/
def loopForms : List ((Sel → Sel → Instr) × JobKind × (Crew → List Word → BlockCheck)) :=
  [(.mma, .mma, fun c j => mmaCheck c false j), (.mmas, .mmas, fun c j => mmaCheck c true j), (.mrast, .mrast, rastCheck),
   (.mfilt, .mfilt, filtCheck)]

/-- The job and post words of a loop instruction; s31 as its second operand stands for words of zero. -/
def jobWords (i : Instr) (a b : Sel) (g : Group) (s : State) : List Word × List Word :=
  ((List.range 16).map (fun n => reads i g s g.lead (a.toNat + n)),
   (List.range 8).map (fun n => if b.toNat = 127 then 0 else reads i g s g.lead (b.toNat + n)))


/-- The launch of a crew of a seam, with its identity (08 R166). -/
def launchIs (s : State) (slot id : Nat) (l : Launch) : Prop :=
  ∃ m ix k, (crewAt s slot).role = .seam m ix k ∧ id = (tgetD s.seams m default).launch ∧ l = tgetD s.launches id default

/-- The queue control register after SPAWN or SPAWNN: COUNT, STATUS and QUEUE (08 R185). -/
def queueControl (count status q : Nat) : Word := BitVec.ofNat 32 (count * 65536 + status * 256 + q)

/-- The members of the TASK family that need a launch (08 R184). -/
def launchMembers (i : Instr) : Prop :=
  ∃ a b : Sel, i = .spawn a b ∨ i = .spawnn a b ∨ i = .cancelchk a ∨ i = .lvlrd a b ∨ i = .lvlcancel b ∨ i = .seedrd a

/-- The crew control registers as words, by number (17 R343). -/
def controlWords (s : State) (slot n : Nat) (j : Nat) : Word :=
  let c := crewAt s slot
  let half := fun (x : DWord) => x.extractLsb' (32 * j) 32
  match n with
  | 0 => c.fpctl
  | 1 => c.crewctl
  | 2 => c.viewV
  | 3 => c.viewT
  | 4 => c.viewA
  | 5 => c.tstream
  | 6 => half (clusterAt s (slot / 192)).bankMode
  | _ => half c.spill

/-- Words of spec/ with what they stand for: those of the assembled loop and the two further encodings at the end of
02_encoding.md, and words of other formats put together from 02 R34, R37 and R38, field by field. -/
def sampleWords : List (Word × Word × Instr) :=
  [(0x80105011, 0, .ldw 4 10 2 1), (0x04143071, 0, .imul 5 6 7 false 1), (0x00203091, 0, .iadd 8 6 9 false 1),
   (0x00204050, 0, .iadd 8 8 5 false 0), (0x00306040, 0, .iadd 12 12 4 false 0), (0x200C1FF8, 0, .iaddi 3 3 0xFF 0),
   (0x46441808, 0, .icmp 1 1 3 0 true 0), (0xC05FFFB8, 0, .bra 1 false 0x3FFF7 0),
   (0x44500000, 0x3F800000, .lit 20 0 0x3F800000), (0xCE000000, 0, .nop 0), (0, 0, .iadd 0 0 0 false 0),
   (0b1010000_0000101_0000110_1100011_1_011#32, 0, .aadd 5 6 99 true 3),
   (0b0110111_0000010_0000100_0000110_0_000#32, 0, .dadd 2 4 6 false 0),
   (0b1101011_0000001_0000010_0000011_0101#32, 0, .shflx 1 2 3 5),
   (0b1111010_0000000_1100000_1110000_0000#32, 0, .mma 96 112),
   (0b1111101_0000101_0000000_1100001_0000#32, 0, .sleep 97)]

/-- The sum of the bits of the threads' lanes that a record names (17 R334). -/
def recordMask (ks : List Nat) : Nat := (ks.map (fun k => 2 ^ k)).sum

/-- No thread of the device waits at SYWAIT. -/
def noSyncWaiter (s : State) : Prop :=
  ∀ e ∈ s.crews, ∀ t ∈ e.2.threads, ∀ cl off va g n, t.2.run ≠ .waiting (.sync cl off va g n)

/-- An accumulator element of a matrix job before a step: what its latest step gave; before the first, +0 where INIT clears it, else
what the register holds (14 R295, 10 R197). -/
def elementBefore (s : State) (slot : Nat) (jb : Job) (i j : Nat) : Nat :=
  let w0 := recWord jb.j 0
  match jb.acc[i]? with
  | some row => (row.getD j default).1
  | none => if bitAt w0 19 = true then 0 else accElem (crewAt s slot) (bits w0 18 16) i j

/-- What a matrix job's accumulator element becomes in a step of MMA: the element before, with the slices of the step's products
added (14 R294, R295). -/
def mmaElement (s : State) (slot : Nat) (jb : Job) (i j : Nat) : Nat :=
  let n := stepValid jb.j jb.step (stepElems (sideA jb.j).fmt)
  (foldSlices (elementBefore s slot jb i j)
    (denseTerms (isIntFmt (sideA jb.j).fmt) (isIntFmt (sideB jb.j).fmt) ((sideA jb.j).row s slot jb.step i n)
      ((sideB jb.j).row s slot jb.step j n)).1).1

/-- A request comes, through a port that is up, from a peer that its queue pair names, for a context that stands. -/
def served (s : State) (h : NetHdr) (x : Context) : Prop :=
  acceptsFrom s h = true ∧ portUp s (peerAt s (h.dqp / 4096) (h.dqp % 4096)) = true ∧
    tget s.contexts (h.dqp / 4096) = some x ∧ x.status ≠ .killing

/-- A message of `n` bytes to a range of a context's addresses meets no page that it cannot use. -/
def rangeFree (s : State) (ctx va n : Nat) (write : Bool) : Prop :=
  (pageStarts va n).any inRegion = false ∧ rangeCause s ctx va n write = none

/-- An answer has gone out, and with an acknowledgement of `n` bytes the queue pair expects the packets after them. -/
def answered (s t : State) (h : NetHdr) (a : Answer) (n : Nat) : Prop :=
  t.outbox = s.outbox ++ [.answer h.dqp a] ∧
    (peerAt t (h.dqp / 4096) (h.dqp % 4096)).expected =
      BitVec.ofNat 32 (((peerAt s (h.dqp / 4096) (h.dqp % 4096)).expected.toNat + packetsOf n) % 2 ^ 24)


/-- The record with which the device kills a context, as it is delivered to the host (17 R334, R335, R352). -/
def killRecord (x : Context) (ctx cause va : Nat) : FaultRec :=
  ⟨x.fq.nextSeq, recordWords 0xFFFF 0 false true false cause ctx 0 va 0 0 0, true, true, false⟩

/-- What an action on record `n` does for thread `k` of crew `x`, which is `u` and parked with it (17 R345): retry at the same
instruction; skip to the one after it, which LIT and RECRUIT with their literal word put off by two words, or, for a record
whose PC names a clause header, an end; kill, in a helper of its recruiter; and with 3, the thread stays parked. -/
def actedOn (act n x k : Nat) (u : Thread) (s t : State) : Prop :=
  let ends := fun j => ∃ v, threadAt (crewAt t x) j = some v ∧ v.run = .exited
  (act = 0 → ∃ v, threadAt (crewAt t x) k = some v ∧ v.run = .running ∧ v.pc = u.pc) ∧
  (act = 1 → trises (crewAt s x).threads = true →
    (∀ j v, threadAt (crewAt s x) j = some v → v.run = .parked n → v.clause ≠ none) → ∀ cl, u.clause = some cl →
    let major := (cl.words.getD ((u.pc - cl.header) / 4 - 1) 0).toNat / 2 ^ 25
    ∃ v, threadAt (crewAt t x) k = some v ∧ v.run = .running ∧
      v.pc = nextPc u.pc (if major = 0x22 ∨ major = 0x74 then 2 else 1)) ∧
  (act = 1 → u.clause = none → k < 32 → u.helper = none → ends k) ∧
  (act = 2 → k < 32 → u.helper = none → ends k) ∧
  (act = 2 → ∀ h r, u.helper = some h → threadAt (crewAt s x) h.recruiter = some r → r.helper = none → ends h.recruiter) ∧
  (act = 3 → ∃ v, threadAt (crewAt t x) k = some v ∧ v.run = .parked n)

/-- A crew that is placed in a half of a partition waits for the lanes of the half that helpers hold, and for none else (07 R160). -/
def waitsForLanes (s : State) (slot half : Nat) (waits : Bool) : Prop :=
  let held := holdersOf s slot (fun x => x / 32 == half)
  (held = [] → waits = false) ∧
    (held ≠ [] → (∀ e ∈ held, ((threadAt (crewAt s e.1) e.2).bind (·.helper)).isSome = true) → waits = true)

/-- A saved context whose state comes back whole: nothing of its save area is damaged or stored over (17 R348, R350). -/
def savedWhole (s : State) (x : Context) (v : SavedCtx) : Prop :=
  x.saved = some v ∧ x.corrupt = false ∧ s.memPoison.any (inArea v) = false ∧
    s.badReads.any (fun q => inArea v (16 * q)) = false ∧ s.mem.any (fun e => inArea v e.1) = false

/-- The crews and banks of a saved context stand on the device again, at the places that `m` gives: each crew with its
registers, each thread with its PC, its predicates and its wait, a sleep with the clocks that remained; each cluster with its
bytes, its FIFOs and its modes (17 R349). -/
def broughtBack (ctx : Nat) (v : SavedCtx) (m : Moves) (s t : State) : Prop :=
  (∀ old c, (old, c) ∈ v.crews → c.ctx = ctx → ∃ slot d, (old, slot) ∈ m.slots ∧ tget t.crews slot = some d ∧
    (d.ctx, d.role, d.viewV, d.viewT, d.viewA) = (c.ctx, c.role, c.viewV, c.viewT, c.viewA) ∧
    (d.sregs, d.space, d.fpctl, d.crewctl, d.key) = (c.sregs, c.space, c.fpctl, c.crewctl, c.key) ∧
    (d.tstream, d.spill, d.mstatus, d.jobs) = (c.tstream, c.spill, c.mstatus, c.jobs) ∧
    ∀ k u, tget c.threads k = some u → ∃ w, threadAt d k = some w ∧ w.pc = u.pc ∧ w.preds = u.preds ∧
      (u.run = .running → w.run = .running) ∧ (∀ n, u.run = .parked n → w.run = .parked n) ∧
      ∀ a l, u.run = .waiting (.sleep a l) → ∃ n, w.run = .waiting (.sleep (a + n) l)) ∧
  ∀ old k, tget v.clusters old = some k → ∃ cl, (old, cl) ∈ m.clusters ∧
    (clusterAt t cl).owner = some ctx ∧ (clusterAt t cl).banks = k.banks ∧ (clusterAt t cl).fifos = k.fifos ∧
    ∀ b, b < 32 → bankModeOf (clusterAt s cl) b ≠ 3 → bankModeOf (clusterAt t cl) b =
      if bankModeOf k b = 1 ∨ bankModeOf k b = 2 then bankModeOf k b else 0

/-- A start of the device has failed at a step: it is in recovery, and its fabric is not loaded (21 R397). -/
def startFailed (step : Nat) (t : State) : Prop :=
  t.boot.recovery = true ∧ t.boot.failStep = step ∧ t.boot.steps = step ∧ t.fabric.loaded = false

/-- The stacks of a record that train at the start that a number names (21 R397, step 4). -/
def stacksOn (n : Nat) (r : Config.RecordBody) : List Nat :=
  (List.range 8).filter (fun k => r.hbmStacks.contains k && Config.stackTrains r.repairs n k)


/-- VIEWV lies within the near range, and VIEWT and VIEWA within the far range (05 R118, 10 R193). -/
def viewsFit (v : Word) (far : List Word) : Prop :=
  let n := v.toNat / 2 ^ 20 % 128
  (v.toNat / 2 ^ 27 = 0 ∧ v.toNat % 128 = 0 ∧ 1 ≤ n ∧ n ≤ 96 ∧ v.toNat / 128 % 8192 * 128 + n * 128 ≤ 0x100000) ∧
  ∀ w ∈ far, w.toNat / 2 ^ 28 = 0 ∧ w.toNat / 2 ^ 20 % 16 = 0 ∧ w.toNat % 65536 = 0 ∧
    (let m := w.toNat / 2 ^ 24 % 16; let b := w.toNat / 65536 % 16; m = 0 ∨ m ≤ 8 ∧ 4 ≤ b ∧ b + m ≤ 16)

/-- A seed record is valid, its DET being its launch's (08 R170). -/
def recordFits (r : List Word) : Prop :=
  let w := fun j => (r.getD j 0).toNat
  let n := w 6 % 1024 + 1
  let c := w 6 / 1024 % 4 + 1
  w 6 / 2 ^ 24 = 0 ∧ w 6 / 2 ^ 14 % 4 = 0 ∧ w 0 % 4 = 0 ∧ w 1 / 2 ^ 20 = 0 ∧ c ≤ n ∧ n ≤ 192 * c ∧
    (c = 1 ∨ w 6 / 2 ^ 18 % 2 = 1) ∧ w 4 % 64 = 0 ∧ w 5 / 2 ^ 20 = 0

/-- A mapped queue whose parser is free and that has packets to read (20 R376). -/
def polls (s : State) (n : Nat) : Prop :=
  s.fabric.loaded = true ∧ (slotOf s n).isSome = true ∧ (qcbAt s n).en = true ∧ (qcbAt s n).err = false ∧
    (qcbAt s n).held = none ∧ (qcbAt s n).kidx ≠ (qcbAt s n).ridx

/-- The lowest free slot among the first HWQSLOTS (20 R386). -/
def lowestSlot (s : State) (k : Nat) : Prop :=
  k < s.fabric.hwqSlots ∧ tget s.fabric.slots k = none ∧ ∀ j, j < k → tget s.fabric.slots j ≠ none

/-- A queue has been mapped on a slot; a wait that it holds is then looked at (20 R386). -/
def queueMapped (s t : State) (slot n : Nat) : Prop :=
  let q := qcbAt s n
  (∃ x, tget t.fabric.slots slot = some x ∧ x.queue = n ∧ x.since = s.wall) ∧ t.mem = s.mem ∧
    qcbAt t n = { q with pending := none }

/-- A queue has been unmapped: it has no slot, and is pending when it has something to do (20 R386). -/
def queueUnmapped (s t : State) (n : Nat) : Prop :=
  let q := qcbAt s n
  slotOf t n = none ∧
    qcbAt t n = { q with pending := if q.kidx ≠ q.ridx ∨ 1 ≤ q.state then some s.wall else q.pending }

/-- The events that act on the command fabric alone: they do nothing while it is not loaded (20 R370). -/
def fabricEvents (i : Instr) : Prop :=
  ∃ n w, i = .packetGuardPoll n ∨ i = .queueMap ∨ i = .queueIdleUnmap n ∨ i = .queueOverdueSwap ∨ i = .kick n w ∨
    i = .pktgo w ∨ i = .queueEnable n w ∨ i = .queueDisable n ∨ i = .pwrcap w ∨ i = .registerWrite n w

/-- A packet has been read and is next to be performed: its source holds its parser, and its turn comes next. -/
def packetRead (s t : State) (src : PktSrc) (type : Nat) (fs : List PktField) : Prop :=
  heldBy t src = some .parsing ∧ t.turns = .packet type src fs :: s.turns ∧ t.mem = s.mem

/-- A user queue has stopped in error, and the host is told (20 R376, R385). -/
def queueStopped (s t : State) (n : Nat) : Prop :=
  (qcbAt t n).err = true ∧ t.eventCount = s.eventCount + 1 ∧ t.mem = s.mem


/-- A request is to be performed: its master is not 0, no reply to its number is kept, its number is not stale, and its
sender may send it now (20 R370, R389, R390; 21 R398). -/
def performed (r : Req) (a : Access) (s : State) : Prop :=
  r.master ≠ 0 ∧ (∀ x ∈ (masterOf s r).replies, x.seq ≠ r.seq) ∧ staleSeq (masterOf s r) r.seq = false ∧
    match a with
    | .core => True
    | .anyone => s.fabric.loaded = true
    | .owner => s.fabric.loaded = true ∧ ownerOf s = some (r.master, r.ip)
    | .recovery => s.fabric.loaded = true → ownerOf s = some (r.master, r.ip)

/-- A request of a type has been performed with its effect `s1`: a reply with its status and payload has gone out, and is
kept as the latest of at most 32 (20 R389). -/
def replied (type : Nat) (r : Req) (st : Nat) (data : List Byte) (s1 t : State) : Prop :=
  let x : Reply := ⟨type + 128, r.seq, st, data⟩
  t = { s1 with outbox := s1.outbox ++ [.reply r.master r.ip x], masters := t.masters } ∧
    (masterOf t r).replies = (x :: (masterOf s1 r).replies).take 32

/-- A performed request changes nothing but what is kept for its master, and is answered with a status. -/
def repliedOnly (i : Instr) (type : Nat) (r : Req) (st : Nat) (data : List Byte) (s : State) : Prop :=
  ∃ t, exec i s = .next t ∧ replied type r st data s t

/-- The requests of 20 R390 with their message types and who may send them. -/
def requestForm (i : Instr) : Option (Nat × Req × Access) :=
  match i with
  | .regrd r _ _ => some (0x01, r, .core)
  | .regwr r _ _ => some (0x02, r, .owner)
  | .claim r => some (0x03, r, .anyone)
  | .renew r => some (0x04, r, .owner)
  | .handover r _ => some (0x05, r, .owner)
  | .releaseOwner r => some (0x06, r, .owner)
  | .halt r _ _ => some (0x10, r, .owner)
  | .stepThread r _ _ _ => some (0x11, r, .owner)
  | .stepcrew r _ _ => some (0x12, r, .owner)
  | .runCtx r _ => some (0x13, r, .owner)
  | .dread r _ _ _ _ => some (0x14, r, .owner)
  | .attquery r _ => some (0x20, r, .core)
  | .recbegin r _ => some (0x30, r, .recovery)
  | .recdata r _ _ => some (0x31, r, .recovery)
  | .reccommit r => some (0x32, r, .recovery)
  | .recreset r => some (0x33, r, .recovery)
  | .recinfo r => some (0x34, r, .recovery)
  | .evack r _ => some (0x41, r, .owner)
  | _ => none


/-- A crew that a debugger can step or read: not a handler's, of a halted context that is not being killed (17 R353). -/
def halted (s : State) (ctx slot : Nat) (c : Crew) : Prop :=
  tget s.crews slot = some c ∧ c.ctx = ctx ∧ runsSystem c = false ∧
    ∃ x, tget s.contexts ctx = some x ∧ x.status ≠ .killing ∧ x.halted = true

/-- The requests that act on a context for the debugger, with their message types and the context that they name. -/
def debugForm (i : Instr) : Option (Nat × Req × Nat) :=
  match i with
  | .halt r ctx _ => some (0x10, r, ctx)
  | .stepThread r ctx _ _ => some (0x11, r, ctx)
  | .stepcrew r ctx _ => some (0x12, r, ctx)
  | .runCtx r ctx => some (0x13, r, ctx)
  | .dread r ctx _ _ _ => some (0x14, r, ctx)
  | _ => none

/-- What DREAD answers with: bytes of the register space, then s0 to s31, then the crew control registers 0 to 7. -/
def debugReply (s : State) (slot off len : Nat) : List Byte :=
  let c := crewAt s slot
  (List.range len).map (fun j => spaceByte c (off + j)) ++
    (List.range 32).flatMap (fun j => bytesOf 4 (if j = 31 then (0 : Word) else tgetD c.sregs j 0).toNat) ++
    (List.range 8).flatMap (fun n => bytesOfWords (controlRead s slot n))

/-- Bytes of a staged image: header, signatures and body (21 R394, R395). -/
def stagedLength (x : Session) : Nat := 0x1400 + imageLength (imageHeader (stagedImage x))


/-- What the packets of 20 R379 share: their source, fields, whether they are privileged, whose context they act on, and the
fields that they need beside CTX. -/
def packetForm (i : Instr) : Option (PktSrc × List PktField × Bool × Scope × List Nat) :=
  match i with
  | .nopPacket src f => some (src, f, false, .none, [])
  | .ctxnew src f => some (src, f, true, .fresh, [2, 3, 4, 5])
  | .ctxkill src f => some (src, f, true, .named, [])
  | .preempt src f => some (src, f, true, .named, [])
  | .ctxrun src f => some (src, f, true, .named, [])
  | .qbind src f => some (src, f, true, .named, [0xA, 0xB])
  | .qunbind src f => some (src, f, true, .named, [0xA])
  | .recact src f => some (src, f, true, .named, [0x12])
  | .limits src f => some (src, f, true, .named, [6])
  | .wdrestart src f => some (src, f, false, .own, [])
  | .peers src f => some (src, f, true, .named, [0x11])
  | .exportWin src f => some (src, f, true, .named, [0x11])
  | .rxring src f => some (src, f, true, .named, [0x11])
  | .migrate src f => some (src, f, true, .none, [0x13])
  | .evict src f => some (src, f, false, .own, [0x11])
  | .sopen src f => some (src, f, false, .own, [0x14, 0x15])
  | .sfree src f => some (src, f, false, .own, [0xE])
  | .jobopen src f => some (src, f, false, .own, [0xC])
  | .jobclose src f => some (src, f, false, .own, [0xC])
  | .phaseopen src f => some (src, f, false, .own, [0xC])
  | .phaseclose src f => some (src, f, false, .own, [0xC])
  | .graphopen src f => some (src, f, false, .own, [0xC])
  | .graphclose src f => some (src, f, false, .own, [0xC])
  | .launch src f => some (src, f, false, .own, [8, 9, 0xA, 0xC, 0xD])
  | .cancel src f => some (src, f, false, .own, [0xC])
  | .waitPacket src f => some (src, f, false, .own, [0xC])
  | .fencePacket src f => some (src, f, false, .own, [0xC, 0x10])
  | .seedpush src f => some (src, f, false, .own, [7])
  | .seedpop src f => some (src, f, false, .own, [])
  | .seedfork src f => some (src, f, false, .own, [0x16])
  | _ => none

/-- A packet is next to be performed, and passes the checks that packets share: its privilege, its fields, its context
(20 R376 to R380). `ctx` is the number of the context that it acts on. -/
def performs (i : Instr) (src : PktSrc) (f : List PktField) (ctx : Nat) (s : State) : Prop :=
  ∃ priv k need, packetForm i = some (src, f, priv, k, need) ∧ heldBy s src = some .parsing ∧
    packetStatus s src f priv k need = 0 ∧ packetCtx s src f k = ctx

/-- A packet ends with a status, with nothing done. -/
def refusedWith (i : Instr) (src : PktSrc) (st : Nat) (s : State) : Prop := exec i s = .next (finishPacket src st s)

/-- A packet is performed, what it reads through its context's tables read in `s0`: with status 0 it ends, in a state in which only
contexts have changed, the one given as given. -/
def changesFrom (i : Instr) (src : PktSrc) (ctx : Nat) (y : Context) (s s0 : State) : Prop :=
  ∃ t0, exec i s = .next (finishPacket src 0 t0) ∧ t0 = { s0 with contexts := t0.contexts } ∧
    tget t0.contexts ctx = some y ∧ ∀ c, c ≠ ctx → tget t0.contexts c = tget s.contexts c

/-- A packet that reads no table is performed. -/
def changesCtx (i : Instr) (src : PktSrc) (ctx : Nat) (y : Context) (s : State) : Prop := changesFrom i src ctx y s s

/-- The words of a packet from ring word `x` on are all ones, as far as the tables of the queue's context admit it (20 R374). -/
def clearedFrom (q : Qcb) (x : Nat) : Nat → State → State
  | 0, s => s
  | n + 1, s => clearedFrom q (x + 1) n ((storeCtx q.ctx (q.va x) (bytesOf 4 0xFFFFFFFF) s).getD s)

/-- A packet holds its parser. -/
def holdsParser (i : Instr) (src : PktSrc) (h : Held) (s t : State) : Prop := exec i s = .next t ∧ heldBy t src = some h

/-- A level has been made, under the next number, as the next child of its parent, which counts it (08 R166). -/
def levelMade (kind : LevelKind) (ctx ident p : Nat) (s t0 : State) : Prop :=
  t0.uid = s.uid + 1 ∧
  tget t0.levels s.uid = some ⟨kind, ctx, ident, p, 0, false, false, 0, (tgetD s.levels p default).made, false, false⟩ ∧
  ∀ x, tget s.levels p = some x → p ≠ s.uid →
    tget t0.levels p = some { x with counter := x.counter + 1, made := x.made + 1 }

/-- Some pinned ranges cover an address. -/
def covers (ps : List (Nat × Nat)) (v : Nat) : Prop := ∃ p ∈ ps, p.1 ≤ v ∧ v < p.1 + p.2

/-- What a context's eviction schedule does when a phase with an ordinal begins (10 R208): with no entry for it, nothing; with one,
whose range is of whole lines, it pins the range, ends the pins in it, or drops its lines from every cluster. -/
def scheduleDone (ctx ord : Nat) (s t0 : State) : Prop :=
  ∀ x, tget s.contexts ctx = some x →
    let es := x.evicts.filter (fun e => recWord e.words 0 == ord)
    (es = [] → t0.contexts = s.contexts ∧ t0.clusters = s.clusters) ∧
    ∀ e, es = [e] →
      let w := recWord e.words
      let a := w 2 + w 3 * 2 ^ 32
      let n := w 4 + w 5 * 2 ^ 32
      let fits := a % 128 = 0 ∧ n % 128 = 0 ∧ n ≤ 2 ^ 40
      (¬fits → t0.contexts = s.contexts ∧ t0.clusters = s.clusters) ∧
      (fits → w 1 % 4 = 0 → tget t0.contexts ctx = some { x with pins := x.pins ++ [(a, n)] }) ∧
      (fits → w 1 % 4 = 1 →
        (∃ y, tget t0.contexts ctx = some y ∧ ∀ v, covers y.pins v ↔ covers x.pins v ∧ ¬(a ≤ v ∧ v < a + n)) ∧
        ∀ c ∈ t0.clusters, ∀ l ∈ c.2.lines, ∀ p ∈ l.pins, p.1 = ctx → ¬(a ≤ p.2 ∧ p.2 < a + n)) ∧
      (fits → w 1 % 4 = 2 → t0.contexts = s.contexts ∧ ∀ c ∈ t0.clusters, ∀ l ∈ c.2.lines, lineVas s ctx a n l.line = [])

end Sys2Proof.Claim

open Sys2Proof Sys2Proof.Machine Sys2Proof.Claim

/-- 03 R45, R46, R49 to R52. The integer instructions that write one word: every format R instruction of the integer, logic,
shift, minimum and field kinds that reads A and B; IMAD, BFI and IDOT4 with D; the immediates, the shifts by an immediate,
those of one operand, MOVI and LIT. -/
def Obligations.IntegerResults : Prop :=
  (∀ e ∈ wordOfAB, ∀ (d a b : Sel) (k : Bool) (st : BitVec 3),
    WritesWord (e.1 d a b k st) d (fun r => e.2 (r a.toNat) (operandB r k b))) ∧
  (∀ e ∈ wordOfDAB, ∀ (d a b : Sel) (k : Bool) (st : BitVec 3),
    WritesWord (e.1 d a b k st) d (fun r => e.2 (r d.toNat) (r a.toNat) (operandB r k b))) ∧
  (∀ e ∈ wordOfImm8, ∀ (d a : Sel) (n : BitVec 8) (st : BitVec 3),
    WritesWord (e.1 d a n st) d (fun r => e.2 (r a.toNat) n)) ∧
  (∀ e ∈ wordOfImm5, ∀ (d a : Sel) (n : BitVec 5) (st : BitVec 3),
    WritesWord (e.1 d a n st) d (fun r => e.2 (r a.toNat) n)) ∧
  (∀ e ∈ wordOfA, ∀ (d a : Sel) (st : BitVec 3), WritesWord (e.1 d a st) d (fun r => e.2 (r a.toNat))) ∧
  (∀ (d : Sel) (n : BitVec 15) (st : BitVec 3), WritesWord (.movi d n st) d (fun _ => BitVec.ofInt 32 n.toInt)) ∧
  ∀ (d : Sel) (st : BitVec 3) (w : Word), WritesWord (.lit d st w) d (fun _ => w)

/-- 03 R47, R48. IADD64 and ISUB64 over pairs, and LEA: a base pair plus an index, sign- or zero-extended, times 1, 2, 4
or 8. -/
def Obligations.PairResults : Prop :=
  (∀ (d a b : Sel) (k : Bool) (st : BitVec 3),
    WritesPair (.iadd64 d a b k st) d (fun r => pairOf r a + operandB64 r k b)) ∧
  (∀ (d a b : Sel) (k : Bool) (st : BitVec 3),
    WritesPair (.isub64 d a b k st) d (fun r => pairOf r a - operandB64 r k b)) ∧
  ∀ (d a b : Sel) (c : BitVec 2) (u : Bool),
    WritesPair (.lea d a b c u) d (fun r => BitVec.ofInt 64
      ((pairOf r a).toInt + (if u then ((r b.toNat).toNat : Int) else (r b.toNat).toInt) * 2 ^ c.toNat))

/-- 03 R49 to R51. What the field, count, reversal and dot-product functions of the integer instructions are: the width that a
control word gives is 0 where its position is 32 or more or its width 0, and else ends at bit 31; a field of
BFE is a run of bits of A, extended by its top bit or by zero; BFI replaces that run of D; POPC counts set bits, CLZ and CTZ
say where the outermost set bits stand, and are 32 for 0; BREV and BSWAP reverse bits and bytes; IDOT4 adds four signed
byte products. -/
def Obligations.BitFunctions : Prop :=
  (∀ b : Word,
    let pos := b.toNat % 256
    let w := b.toNat / 256 % 256
    (32 ≤ pos ∨ w = 0 → fieldWidth b = 0) ∧ (pos < 32 → w ≠ 0 → fieldWidth b = min w (32 - pos))) ∧
  (∀ (a b : Word) (j : Nat), j < 32 →
    (extractField a b).getLsbD j =
      (if j < fieldWidth b then a.getLsbD (bits b.toNat 7 0 + j)
       else b.getLsbD 16 && decide (0 < fieldWidth b) && a.getLsbD (bits b.toNat 7 0 + fieldWidth b - 1))) ∧
  (∀ (d a b : Word) (j : Nat), j < 32 →
    (insertField d a b).getLsbD j =
      (if bits b.toNat 7 0 ≤ j ∧ j < bits b.toNat 7 0 + fieldWidth b then a.getLsbD (j - bits b.toNat 7 0) else d.getLsbD j)) ∧
  (∀ a : Word, (popCount a).toNat = ((List.range 32).map (fun j => (a.getLsbD j).toNat)).sum) ∧
  (∀ a : Word, (a = 0 → clzWord a = 32 ∧ ctzWord a = 32) ∧
    (a ≠ 0 → (clzWord a).toNat < 32 ∧ a.getLsbD (31 - (clzWord a).toNat) = true ∧
      (∀ j, 31 - (clzWord a).toNat < j → a.getLsbD j = false) ∧
      (ctzWord a).toNat < 32 ∧ a.getLsbD (ctzWord a).toNat = true ∧ ∀ j, j < (ctzWord a).toNat → a.getLsbD j = false)) ∧
  (∀ (a : Word) (j : Nat), j < 32 → (bitReverse a).getLsbD j = a.getLsbD (31 - j)) ∧
  (∀ (a : Word) (j : Nat), j < 4 → (byteSwap a).extractLsb' (8 * j) 8 = a.extractLsb' (8 * (3 - j)) 8) ∧
  ∀ d a b : Word, dot4 d a b = BitVec.ofInt 32 (d.toInt +
    ([0, 1, 2, 3].map (fun j => (a.extractLsb' (8 * j) 8).toInt * (b.extractLsb' (8 * j) 8).toInt)).sum)

/-- 03 R53, R55, R56. ICMP writes whether its condition holds of A and B, and takes 0x01 for CC from 11 to 15; PLOP writes
the bit of its truth table that two predicates select; PSET copies bits 0 to 6 of A to p0 to p6. A write to p7 is
discarded. -/
def Obligations.PredicateResults : Prop :=
  (∀ (p : PSel) (c : BitVec 4) (a b : Sel) (k : Bool) (st : BitVec 3) (g : Group) (s : State),
    Ready (.icmp p c a b k st) g s →
    ∃ t, exec (.icmp p c a b k st) s = .next t ∧ regFrame (.icmp p c a b k st) g (predResultPlaces g p.toNat) s t ∧
      ∀ j ∈ g.keys, p.toNat ≠ 7 →
        (rawPred (crewAt t g.slot) j p.toNat = true ↔
          icmpMeans c.toNat (reads (.icmp p c a b k st) g s j a.toNat) (operandB (reads (.icmp p c a b k st) g s j) k b))) ∧
  (∀ (p : PSel) (c : BitVec 4) (a b : Sel) (k : Bool) (st : BitVec 3), 11 ≤ c.toNat → TakesTrap (.icmp p c a b k st) 0x01) ∧
  (∀ (p : PSel) (c : BitVec 4) (a b st : BitVec 3) (g : Group) (s : State), Ready (.plop p c a b st) g s →
    ∃ t, exec (.plop p c a b st) s = .next t ∧ regFrame (.plop p c a b st) g (predResultPlaces g p.toNat) s t ∧
      predIs g t p (fun k => c.getLsbD (2 * (readPred (atIssue (.plop p c a b st) g s) g.slot k a.toNat).toNat +
        (readPred (atIssue (.plop p c a b st) g s) g.slot k b.toNat).toNat))) ∧
  ∀ (a : Sel) (g : Group) (s : State), Ready (.pset a) g s →
    ∃ t, exec (.pset a) s = .next t ∧
      regFrame (.pset a) g ((List.range 7).flatMap (predResultPlaces g)) s t ∧
      ∀ k ∈ g.keys, ∀ j, j < 7 → rawPred (crewAt t g.slot) k j = (reads (.pset a) g s k a.toNat).getLsbD j

/-- 03 R54, R56. SEL writes A or B by a predicate, inverted when N = 1; PGET writes the eight predicates as bits 0 to 7,
with zeros above. With a scalar destination both take 0x01. -/
def Obligations.SelectResults : Prop :=
  (∀ (d a b : Sel) (p : PSel) (n : Bool) (g : Group) (s : State), Ready (.sel d a b p n) g s →
    ∃ t, exec (.sel d a b p n) s = .next t ∧ regFrame (.sel d a b p n) g (resultPlaces g d.toNat 1) s t ∧
      resultIs g s t d 1 (fun k _ =>
        if readPred (atIssue (.sel d a b p n) g s) g.slot k p.toNat = n then reads (.sel d a b p n) g s k b.toNat
        else reads (.sel d a b p n) g s k a.toNat)) ∧
  (∀ (d a b : Sel) (p : PSel) (n : Bool), isScalar d = true → TakesTrap (.sel d a b p n) 0x01 ∧ TakesTrap (.pget d) 0x01) ∧
  ∀ (d : Sel) (g : Group) (s : State), Ready (.pget d) g s →
    ∃ t, exec (.pget d) s = .next t ∧ regFrame (.pget d) g (resultPlaces g d.toNat 1) s t ∧
      ∀ k ∈ g.keys, writable (crewAt s g.slot) k d.toNat = true → landed (crewAt s g.slot) (place k d.toNat) = true →
        ∀ j, j < 32 → (rawReg (crewAt t g.slot) k d.toNat).getLsbD j =
          (decide (j < 8) && readPred (atIssue (.pget d) g s) g.slot k j)

/-- 03 R57 to R60, 17 R403. SREG writes the special register's value at its issue: the identity of the thread, its crew, seam
and launch, where a helper bears its recruiter's; what is present; and for a handler crew the values of R403. A read of CLOCKLO
latches the high word of the clock for every thread of the group, which CLOCKHI then reads, into a scalar the lowest thread's
(the model's choice, log entry 59); without a latch it is the current one. A number from 32 up takes 0x01, and so does LANE,
GTID or HELPER into a scalar. -/
def Obligations.SpecialRegisterReads : Prop :=
  (∀ (d : Sel) (n : BitVec 8) (st : BitVec 3), 32 ≤ n.toNat ∨ isScalar d = true ∧ (n = 0 ∨ n = 10 ∨ n = 15) →
    TakesTrap (.sreg d n st) 0x01) ∧
  (∀ (s : State) (slot k : Nat) (u : Thread), threadAt (crewAt s slot) k = some u →
    let c := crewAt s slot
    let lane := (u.helper.map (·.recruiter)).getD k
    let gives := fun (ns : List Nat) => ∀ j, j < 16 → j ≠ 8 → j ≠ 9 → sregValue s slot k j = BitVec.ofNat 32 (ns.getD j 0)
    let worker := if k < 32 then 0xFFFFFFFF else (k - 32) % 32 + (k - 32) / 32 * 32
    (∀ id ix cix m l, c.role = .seam id ix cix → tget s.seams id = some m → tget s.launches m.launch = some l →
      let w6 := recWord m.words 6
      let crews := bits w6 9 0 + 1
      let tail := if bits w6 23 19 = 0 then 32 else bits w6 23 19
      gives [lane, ix, m.seamix, crews, cix, slot / 192, if slot / 192 < s.units.clusters0 then 0 else 1, l.ordinal, 0, 0,
        m.seamix % 65536 * 32768 + ix * 32 + lane, 32 * (crews - 1) + tail, Config.devid.toNat, c.ctx, m.ticket.toNat, worker]) ∧
    (∀ n, c.role = .handler n →
      gives [lane, 0, n, 1, 0, slot / 192, if slot / 192 < s.units.clusters0 then 0 else 1, 0xFFFFFFFF, 0, 0,
        n % 65536 * 32768 + lane, 32, Config.devid.toNat, c.ctx, 0xFFFFFFFF, worker]) ∧
    (u.latch = none → sregValue s slot k 9 = BitVec.ofNat 32 (s.clock / 2 ^ 32))) ∧
  (∀ (s : State) (slot k : Nat),
    let dead := fun (p h : Nat) => s.units.deadSlices.any (fun d => d.1 == slot / 192 && d.2.1 == p && d.2.2 / 8 == h)
    [16, 17, 18, 22, 23, 24, 25, 26, 27, 28, 29, 30, 31].map (sregValue s slot k) =
      [s.units.clusters0 + s.units.clusters1, s.units.clusters0, s.units.clusters1, s.units.homes0 + s.units.homes1,
        s.units.hbmStacks.length, (s.units.hbmStacks.map (fun n => s.units.channels.getD n 0)).sum, s.units.lanes0, s.units.lanes1,
        64, 64, 256, 48, 32].map (BitVec.ofNat 32) ∧
    sregValue s slot k 19 = BitVec.ofNat 32 ([0, 1, 2, 3].filter (fun p => !(dead p 0 && dead p 1))).length ∧
    sregValue s slot k 20 = BitVec.ofNat 32 (8 * ([0, 1].filter (fun h => !dead (slot % 192 / 48) h)).length) ∧
    sregValue s slot k 21 = BitVec.ofNat 32
      (32 - ((s.units.deadBanks.filter (fun d => d.1 == slot / 192 && decide (d.2 < 32))).eraseDups).length)) ∧
  (∀ (d : Sel) (n : BitVec 8) (st : BitVec 3) (g : Group) (s : State), n ≠ 8 → Ready (.sreg d n st) g s →
    ∃ t, exec (.sreg d n st) s = .next t ∧ regFrame (.sreg d n st) g (resultPlaces g d.toNat 1) s t ∧
      resultIs g s t d 1 (fun k _ => sregValue (atIssue (.sreg d n st) g s) g.slot k n.toNat)) ∧
  (∀ (d : Sel) (st : BitVec 3) (g : Group) (s : State), Ready (.sreg d 8 st) g s →
    ∃ t, exec (.sreg d 8 st) s = .next t ∧ onlyCrew g.slot s t ∧
      regsKept (resultPlaces g d.toNat 1) (crewAt s g.slot) (crewAt t g.slot) ∧
      resultIs g s t d 1 (fun _ _ => BitVec.ofNat 32 (issueClock s g (.sreg d 8 st))) ∧
      ∀ k ∈ g.keys, ∃ u, threadAt (crewAt t g.slot) k = some u ∧ u.pc = nextPc g.pc 1 ∧
        u.latch = some (BitVec.ofNat 32 (issueClock s g (.sreg d 8 st) / 2 ^ 32))) ∧
  ∀ (s : State) (slot k : Nat) (u : Thread) (w : Word), threadAt (crewAt s slot) k = some u → u.latch = some w →
    sregValue s slot k 9 = w

/-- 04 R87 to R92, R97. Every FP32, packed and FP64 arithmetic instruction: the result of its operation in the rounding mode of
FPCTL, the flags ORed into FPCTL, and nothing else changed. A constant B is the integer in the operand format. That what FEXP2,
FLOG2, FSIN and FCOS compute, from 256 places, is the correctly rounded result of R91 is the model's choice (log entry 8). What the
formats' operations round to, RoundingRules states. -/
def Obligations.FloatResults : Prop :=
  (∀ e ∈ floatOfAB, ∀ (d a b : Sel) (k : Bool) (st : BitVec 3),
    WritesFloat (e.1 d a b k st) d 1 (fun m r =>
      e.2 m (r a.toNat).toNat (if k then fp32.ofInt b.toInt else (r b.toNat).toNat))) ∧
  (∀ (d a b : Sel) (k : Bool) (st : BitVec 3),
    WritesFloat (.ffma d a b k st) d 1 (fun m r =>
      fp32.fma m (r a.toNat).toNat (if k then fp32.ofInt b.toInt else (r b.toNat).toNat) (r d.toNat).toNat)) ∧
  (∀ e ∈ floatOfA, ∀ (d a : Sel) (st : BitVec 3), WritesFloat (e.1 d a st) d 1 (fun m r => e.2 m (r a.toNat).toNat)) ∧
  (∀ e ∈ packedOps, ∀ (d a b : Sel) (k : Bool) (st : BitVec 3),
    WritesFloat (e.1 d a b k st) d 1 (fun m r =>
      bothHalves (e.2.2 m) (r d.toNat).toNat (r a.toNat).toNat
        (if k then e.2.1.ofInt b.toInt * 65537 else (r b.toNat).toNat))) ∧
  (∀ e ∈ [(Instr.dadd, fp64.add), (Instr.dmul, fp64.mul)], ∀ (d a b : Sel) (k : Bool) (st : BitVec 3),
    WritesFloat (e.1 d a b k st) d 2 (fun m r =>
      e.2 m (pairOf r a).toNat (if k then fp64.ofInt b.toInt else (pairOf r b).toNat))) ∧
  ∀ (d a b : Sel) (k : Bool) (st : BitVec 3),
    WritesFloat (.dfma d a b k st) d 2 (fun m r =>
      fp64.fma m (pairOf r a).toNat (if k then fp64.ofInt b.toInt else (pairOf r b).toNat) (pairOf r d).toNat)

/-- 04 R90, R98. FCMP and DCMP write whether their condition holds of the order of two values, with NV as the rule
gives. -/
def Obligations.FloatCompares : Prop :=
  (∀ (p : PSel) (c : BitVec 4) (a b : Sel) (k : Bool) (st : BitVec 3),
    WritesCompare (.fcmp p c a b k st) p c.toNat (fun r => fp32.value (r a.toNat).toNat)
      (fun r => fp32.value (if k then fp32.ofInt b.toInt else (r b.toNat).toNat))) ∧
  ∀ (p : PSel) (c : BitVec 4) (a b : Sel) (k : Bool) (st : BitVec 3),
    WritesCompare (.dcmp p c a b k st) p c.toNat (fun r => fp64.value (pairOf r a).toNat)
      (fun r => fp64.value (if k then fp64.ofInt b.toInt else (pairOf r b).toNat))

/-- 04 R93 to R96, R99. FCVT and DCVT, where every thread's control word is one that the rules allow: the converted element in
the destination, the flags ORed into FPCTL, nothing else changed. What an infinity gives in E4M3 is the model's choice (log
entry 61). What a format's values round to, RoundingRules states. -/
def Obligations.Conversions : Prop :=
  (∀ (d a b : Sel) (st : BitVec 3) (g : Group) (s : State), Ready (.fcvt d a b st) g s →
    converts (fun r => if fcvtOk (r b.toNat).toNat then none else some (trapC 0x01))
      (fun r => (if fmtWidth (bits (r b.toNat).toNat 12 8) = 32 then [] else [d.toNat], [])) (.fcvt d a b st) g s →
    ∃ t, exec (.fcvt d a b st) s = .next t ∧
      fpFrame (.fcvt d a b st) g (resultPlaces g d.toNat 1)
        (flagsOf (fun k => (fcvtWord (reads (.fcvt d a b st) g s k b.toNat).toNat
          (roundMode (atIssue (.fcvt d a b st) g s) g.slot) (reads (.fcvt d a b st) g s k a.toNat).toNat
          (reads (.fcvt d a b st) g s k d.toNat).toNat).2) (computing g d)) s t ∧
      resultIs g s t d 1 (fun k _ => BitVec.ofNat 32 (fcvtWord (reads (.fcvt d a b st) g s k b.toNat).toNat
        (roundMode (atIssue (.fcvt d a b st) g s) g.slot) (reads (.fcvt d a b st) g s k a.toNat).toNat
        (reads (.fcvt d a b st) g s k d.toNat).toNat).1)) ∧
  ∀ (d a b : Sel) (st : BitVec 3) (g : Group) (s : State), Ready (.dcvt d a b st) g s →
    converts (fun r =>
        let w := (r b.toNat).toNat
        if !dcvtOk w then some (trapC 0x01)
        else if (bits w 4 0 == 0x1F && a.toNat % 2 == 1) || (bits w 12 8 == 0x1F && d.toNat % 2 == 1) then some (trapC 0x04)
        else none)
      (fun r =>
        let w := (r b.toNat).toNat
        (if bits w 4 0 = 0x1F then [a.toNat + 1] else [], if bits w 12 8 = 0x1F then [d.toNat + 1] else []))
      (.dcvt d a b st) g s →
    let val := fun k =>
      let r := reads (.dcvt d a b st) g s k
      let w := (r b.toNat).toNat
      convertElem (bits w 4 0) (bits w 12 8) (controlMode w (roundMode (atIssue (.dcvt d a b st) g s) g.slot)) (bitAt w 16)
        (if bits w 4 0 = 0x1F then (pairOf r a).toNat else (r a.toNat).toNat)
    ∃ t, exec (.dcvt d a b st) s = .next t ∧
      fpFrame (.dcvt d a b st) g (resultPlaces g d.toNat 2) (flagsOf (fun k => (val k).2) (computing g d)) s t ∧
      ∀ k ∈ g.keys, ∀ j,
        let k' := if isScalar d then g.lead else k
        (j = 0 ∨ j = 1 ∧ bits (reads (.dcvt d a b st) g s k' b.toNat).toNat 12 8 = 0x1F) →
        writable (crewAt s g.slot) k (d.toNat + j) = true → landed (crewAt s g.slot) (place k (d.toNat + j)) = true →
        rawReg (crewAt t g.slot) k (d.toNat + j) = BitVec.ofNat 32 ((val k').1 / 2 ^ (32 * j))

/-- 04 R77, R84, R85, R86, R89. In every format the rounding of an exact value gives the nearest of the two values of the format that
enclose it, the one with an even last bit of two that are equally near, or in a directed mode the one on its side; the value itself,
with no flag, where it is one; else NX, with UF for a value that stays below the least normal one when it is rounded with its
exponent unbounded. Beyond the largest finite value the table of overflow applies. In every SIMT arithmetic format: a sum or a product with a NaN operand is the canonical NaN, and so is
∞ − ∞ and 0 × ∞, which raise NV, as a signalling NaN does; no other flag is raised. The minimum and the maximum are the
number where one operand is a NaN, the canonical NaN where both are, and else the lesser or the greater operand, bit for
bit, with −0 below +0. -/
def Obligations.RoundingRules : Prop :=
  (∀ f ∈ [fp64, fp32, fp16, bf16, e4m3, e5m2, e2m3, e3m2, e2m1], ∀ (mode : Nat) (sat neg : Bool) (m : Nat) (e : Int),
    mode < 4 → roundsRight f mode sat neg m e) ∧
  ∀ f ∈ [fp16, bf16, fp32, fp64], ∀ (m a b d : Nat),
    (((f.value a).isNan || (f.value b).isNan) = true →
      f.add m a b = (f.nan, { FpFlags.none with nv := (f.value a).isSignalling || (f.value b).isSignalling }) ∧
      f.mul m a b = (f.nan, { FpFlags.none with nv := (f.value a).isSignalling || (f.value b).isSignalling })) ∧
    ((∃ n, f.value a = .inf n ∧ f.value b = .inf (!n)) → f.add m a b = (f.nan, { FpFlags.none with nv := true })) ∧
    ((∃ n n' e, f.value a = .inf n ∧ f.value b = .fin n' 0 e) →
      f.mul m a b = (f.nan, { FpFlags.none with nv := true }) ∧ f.fma m a b d = (f.nan, { FpFlags.none with nv := true })) ∧
    (∀ hi, (f.minMax hi a b).2 = { FpFlags.none with nv := (f.value a).isSignalling || (f.value b).isSignalling } ∧
      ((f.value a).isNan = true → (f.value b).isNan = true → (f.minMax hi a b).1 = f.nan) ∧
      ((f.value a).isNan = true → (f.value b).isNan = false → (f.minMax hi a b).1 = b) ∧
      ((f.value a).isNan = false → (f.value b).isNan = true → (f.minMax hi a b).1 = a)) ∧
    (compareVal (f.value a) (f.value b) = .lt → (f.minMax false a b).1 = a ∧ (f.minMax true a b).1 = b) ∧
    (compareVal (f.value a) (f.value b) = .gt → (f.minMax false a b).1 = b ∧ (f.minMax true a b).1 = a) ∧
    (f.minMax false 0 f.signBit).1 = f.signBit ∧ (f.minMax false f.signBit 0).1 = f.signBit ∧
    (f.minMax true 0 f.signBit).1 = 0 ∧ (f.minMax true f.signBit 0).1 = 0

/-- 03 R63, 10 R201 to R204, R211, R214, 19 R359, 20 R371. The checks of an access in their order, first failure first: an address of
2^52 or more, misalignment, no translation (with RETRY), a reserved form of the leaf, a type that does not admit the access, and
protection, which a copy-on-write page answers with RETRY. Where no translation is cached, a walk of the tables from the context's
root gives it: over entries that memory holds, until one is not valid, to a leaf of the second level for 512 MiB or of the third for
64 KiB, whose frame takes the low bits of the address. In register space an access reaches its register through a device leaf,
in 4 bytes or in the 8 of a 64-bit register. In the windows it reaches a byte of the scratchpad of the cluster, granule by granule
over its banks in scratchpad mode, or a port of a bank in FIFO mode; outside them, beyond the scratchpad, and at a port that does
not take it, it raises 0x06. -/
def Obligations.AccessChecks : Prop :=
  (∀ (s : State) (ctx root va : Nat), va < 2 ^ 52 →
    let ok := fun (a : Nat) => backed s a = true ∧ mem64 s a % 2 = 1
    let frame := fun (e : Nat) => e / 2 ^ 16 % 2 ^ 30 * 65536
    let a1 := root + va / 2 ^ 42 * 8
    let a2 := frame (mem64 s a1) + va / 2 ^ 29 % 8192 * 8
    let a3 := frame (mem64 s a2) + va / 2 ^ 16 % 8192 * 8
    let large := mem64 s a2 / 2 ^ 14 % 2 = 1
    (va / 2 ^ 42 = 1023 ∨ ¬ok a1 ∨ ¬ok a2 ∨ ¬large ∧ ¬ok a3 → walk s root va = none) ∧
    (va / 2 ^ 42 ≠ 1023 → ok a1 → ok a2 → large → ∃ l, walk s root va = some l ∧ l.pte = mem64 s a2 ∧ l.addr = a2 ∧
      l.target va = mem64 s a2 / 2 ^ 29 % 2 ^ 17 * 2 ^ 29 + va % 2 ^ 29) ∧
    (va / 2 ^ 42 ≠ 1023 → ok a1 → ok a2 → ¬large → ok a3 → ∃ l, walk s root va = some l ∧ l.pte = mem64 s a3 ∧ l.addr = a3 ∧
      l.target va = frame (mem64 s a3) + va % 65536) ∧
    (tget s.tlb (tlbKey ctx va) = none →
      translate s ctx va = (walk s (tgetD s.contexts ctx default).root va).filter (fun l => l.reaches s va))) ∧
  ∀ (s : State) (slot va size : Nat) (u : Use) (sys : Bool),
    (2 ^ 52 ≤ va → (reach s slot va size u sys).1 = .inl ⟨0x06, va, 0, 0, false⟩) ∧
    (va < 2 ^ 52 → va % size ≠ 0 → (reach s slot va size u sys).1 = .inl ⟨0x05, va, 0, 0, false⟩) ∧
    (va < 2 ^ 52 → va % size = 0 → inRegion va = false →
      (translate s (crewAt s slot).ctx va = none → (reach s slot va size u sys).1 = .inl ⟨0x06, va, 0, 0, true⟩) ∧
      ∀ l, translate s (crewAt s slot).ctx va = some l →
        (l.badForm = true → (reach s slot va size u sys).1 = .inl ⟨0x0A, va, 0, 0, false⟩) ∧
        (l.badForm = false → typeRefuses s l va size u = true →
          (reach s slot va size u sys).1 = .inl ⟨0x09, va, 0, 0, false⟩) ∧
        (l.badForm = false → typeRefuses s l va size u = false → protects l sys u = true →
          (reach s slot va size u sys).1 = .inl ⟨0x07, va, 0, 0, l.cow⟩) ∧
        (l.badForm = false → typeRefuses s l va size u = false → protects l sys u = false →
          (backed s (l.target va) = true → (reach s slot va size u sys).1 = .inr (.mem (l.target va) l)) ∧
          (backed s (l.target va) = false →
            (reach s slot va size u sys).1 = .inr (.reg (l.target va - 0x3F0000000000) l))) ∧
        (l.badForm = false → backed s (l.target va) = false →
          l.type < 2 ∨ ¬(size = 4 ∨ size = 8 ∧ isReg64 (l.target va - 0x3F0000000000) = true) →
          (reach s slot va size u sys).1 = .inl ⟨0x09, va, 0, 0, false⟩)) ∧
    (va < 2 ^ 52 → va % size = 0 → inRegion va = true →
      (¬(0xFFF0000000000 ≤ va ∧ va < 0xFFF0000400000 ∨ 0xFFF1000000000 ≤ va ∧ va < 0xFFF1001000000) →
        (reach s slot va size u sys).1 = .inl ⟨0x06, va, 0, 0, false⟩) ∧
      (∀ o, va = 0xFFF0000000000 + o → o < 0x400000 → reachesBank s slot (slot / 192) o va size u sys) ∧
      ∀ k o, k < 4 → o < 0x400000 → va = 0xFFF1000000000 + k * 0x400000 + o →
        (∀ cl, (coopClusters s slot)[k]? = some cl → reachesBank s slot cl o va size u sys) ∧
        ((coopClusters s slot)[k]? = none → (reach s slot va size u sys).1 = .inl ⟨0x06, va, 0, 0, false⟩))

/-- 01 R14, R22, R27, 03 R61 to R63, 10 R203, R205, R213, 11 R224, 20 R371, 19 R358. A load by a ready group whose threads pass the
checks goes on; with SB = 0 its destinations hold what its bytes give, little-endian, zero- or sign-extended; with a slot, an
operation stands open that will write them, and no register has changed. Everything outside the crew is as the threads' walks leave
it, and where these find every translation cached, as before. The bytes are those of memory, of the scratchpad, or of the registers.
For one thread, or once for a group: with a slot, a load from a strongly ordered page has written its destinations when the next
instruction issues; a pop takes the oldest bytes of its FIFO as a load takes those of memory, waits at the port while there are too
few or another pop waits there, and takes nothing where one is poisoned (log entry 69); a load of poisoned data takes 0x0B. -/
def Obligations.LoadsComplete : Prop :=
  (∀ e ∈ loadKinds, ∀ (d a : Sel) (off : BitVec 8) (sb : BitVec 3) (g : Group) (s s' : State) (v : Nat → List Byte),
    let i := e.1 d a off sb
    let n := accessRegs e.2.1
    let val := fun k j => loadWord e.2.1 e.2.2 (v (workerOf g a k)) j
    Ready i g s → slotFull (atIssue i g s) g sb = false →
    settledLoads i g s a off e.2.1 sb (workers (isScalar a) g) (atIssue i g s) v s' →
    ∃ t, exec i s = .next t ∧
      t = { s' with crews := t.crews, clock := t.clock, nonce := t.nonce, uid := t.uid } ∧
      (∀ x, x ≠ g.slot → tget t.crews x = tget s.crews x) ∧ groupWent i g (crewAt s g.slot) (crewAt t g.slot) ∧
      wentKeeping i g (if sb = 0 then resultPlaces g d.toNat n else []) s t ∧
      (sb = 0 → resultIs g s t d n val) ∧ (sb ≠ 0 → opsNumbered s g.slot → standsFor g t sb d n false val)) ∧
  (∀ e ∈ loadKinds, ∀ (d a : Sel) (off : BitVec 8) (sb : BitVec 3) (g : Group) (s s' : State) (k : Nat) (r : Reach),
    let i := e.1 d a off sb
    let n := accessRegs e.2.1
    let val := fun _ j => loadWord e.2.1 e.2.2 (loadBytes s' g.slot k r e.2.1) j
    Ready i g s → slotFull (atIssue i g s) g sb = false → workers (isScalar a) g = [k] → opsNumbered s g.slot →
    loadReach i g s k a off e.2.1 = (.inr r, s') → sb ≠ 0 → r.strong = true → settledAt s' g a k e.2.1 r →
    ∃ t, exec i s = .next t ∧ t.mem = s'.mem ∧ wentKeeping i g (resultPlaces g d.toNat n) s t ∧
      resultIs g s t d n val ∧ standsFor g t sb d n true val) ∧
  (∀ e ∈ loadKinds, ∀ (d a : Sel) (off : BitVec 8) (sb : BitVec 3) (g : Group) (s s' : State) (k cl b : Nat),
    let i := e.1 d a off sb
    let n := accessRegs e.2.1
    let q := tgetD (clusterAt s' cl).fifos b []
    let val := fun _ j => loadWord e.2.1 false (q.take e.2.1) j
    let now := e.2.1 ≤ q.length ∧ fifoQueued (clusterAt s' cl) b false = false
    Ready i g s → slotFull (atIssue i g s) g sb = false → workers (isScalar a) g = [k] → opsNumbered s g.slot →
    loadReach i g s k a off e.2.1 = (.inr (.port cl b 64), s') → fifoBehind s' g.slot (atIssue i g s).nonce k = false →
    (now → (∃ m ∈ tgetD (clusterAt s' cl).fifoPoison b [], m < e.2.1) →
      exec i s = .next (takeFault g.slot g.pc (allFail g ⟨0x0B, accessVa i g s k a off e.2.1, 0, 0, false⟩) s')) ∧
    (now → (∀ m ∈ tgetD (clusterAt s' cl).fifoPoison b [], e.2.1 ≤ m) →
      ∃ t, exec i s = .next t ∧ t.mem = s'.mem ∧ tgetD (clusterAt t cl).fifos b [] = q.drop e.2.1 ∧
        wentKeeping i g (if sb = 0 then resultPlaces g d.toNat n else []) s t ∧
        (sb = 0 → resultIs g s t d n val) ∧ (sb ≠ 0 → standsFor g t sb d n false val)) ∧
    (¬now →
      ∃ t x o, exec i s = .next t ∧ t.mem = s'.mem ∧ wentKeeping i g [] s t ∧ (clusterAt t cl).fifos = (clusterAt s' cl).fifos ∧
        (clusterAt t cl).fifoReqs = (clusterAt s' cl).fifoReqs ++ [x] ∧ x.bank = b ∧ x.push = false ∧ x.size = e.2.1 ∧
        x.crew = g.slot ∧ x.op = o.id ∧ o ∈ (crewAt t g.slot).ops ∧ o.slot = sb.toNat ∧ o.done = false ∧ o.members = g.keys)) ∧
  (∀ e ∈ loadKinds, ∀ (d a : Sel) (off : BitVec 8) (sb : BitVec 3) (g : Group) (s s' : State) (k : Nat) (r : Reach),
    let i := e.1 d a off sb
    let va := accessVa i g s k a off e.2.1
    let s2 := if isScalar a then settleShared g.slot g.keys r e.2.1 s' else s'
    Ready i g s → slotFull (atIssue i g s) g sb = false → workers (isScalar a) g = [k] →
    loadReach i g s k a off e.2.1 = (.inr r, s') → consumes s2 g.slot k r e.2.1 →
    exec i s = .next (takeFault g.slot g.pc (allFail g ⟨0x0B, va, 0, 0, false⟩) (takeSpoilt r e.2.1 s2))) ∧
  ∀ (s : State) (slot k size : Nat), pendOf s slot k = [] →
    (∀ pa l, plainBytes s l pa size →
      loadBytes s slot k (.mem pa l) size = (List.range size).map (fun j => memByte s (pa + j))) ∧
    (∀ cl key, loadBytes s slot k (.bank cl key) size =
      (List.range size).map (fun j => tgetD (clusterAt s cl).banks (key + j) 0)) ∧
    ∀ off l, (size = 4 → loadBytes s slot k (.reg off l) size = bytesOf 4 (windowRead s off).toNat) ∧
      (size = 8 → loadBytes s slot k (.reg off l) size =
        bytesOf 4 (windowRead s off).toNat ++ bytesOf 4 (windowRead s (off + 4)).toNat)

/-- 03 R61 to R66, 10 R213, 11 R223 to R225. A store by a ready group none of whose threads fails goes on, with no register
or predicate changed; memory outside its threads' addresses, the leaf entries that take AC and D, and their pending stores
reads as before. With a slot, while the schedule lets accesses lag, the stores are still to take place. -/
def Obligations.StoresComplete : Prop :=
  ∀ e ∈ storeKinds, ∀ (d a : Sel) (off : BitVec 8) (sb : BitVec 3) (g : Group) (s : State),
    let i := e.1 d a off sb
    let once := isScalar a && isScalar d
    let one := storeOne i d a off sb e.2.1 e.2.2 once (atIssue i g s).nonce g
    Ready i g s → slotFull (atIssue i g s) g sb = false →
    (eachThread one (workers once g) (atIssue i g s, [])).1 = [] →
    ∃ t, exec i s = .next t ∧ wentKeeping i g [] s t ∧
      memoryKept (footprints (fun k p => (one k p).2)
        (fun k p => footprint p.1 g.slot (receivers once g k) (addressM (reader p.1 g k) a off e.2.1) e.2.1 .store)
        (workers once g) (atIssue i g s, [])) s t

/-- 03 R61, R65, R66, 00 R4, 10 R203, 20 R371. A store to a scratchpad puts its bytes there and clears their poison, an STNT
leaves them pending; a store to register space changes nothing but by a kick of the doorbell that it reaches. A store by one
thread, or once for a group, to a page of memory that is not write-combining: the bytes at its physical address are the low
bytes of its registers, lowest first, with D set before; an STNT to normal memory leaves them pending instead, for every thread
of the group. Mappings of the page agree (10 R210). With a slot, while the schedule lets accesses lag (log entry 1, the model's
choice), an operation stands open that will make a store to a normal or write-combining page. -/
def Obligations.StoredBytes : Prop :=
  (∀ e ∈ storeKinds, ∀ (d a : Sel) (off : BitVec 8) (sb : BitVec 3) (g : Group) (s s' : State) (k pa : Nat) (l : Leaf),
    let i := e.1 d a off sb
    let va := accessVa i g s k a off e.2.1
    let n := BitVec.ofNat (8 * e.2.1)
      (ofBytes ((List.range (accessRegs e.2.1)).flatMap (fun j => bytesOf 4 (reads i g s k (d.toNat + j)).toNat)))
    Ready i g s → slotFull (atIssue i g s) g sb = false → workers (isScalar a && isScalar d) g = [k] →
    reach (atIssue i g s) g.slot va e.2.1 .store (runsSystem (crewAt (atIssue i g s) g.slot)) = (.inr (.mem pa l), s') →
    ∃ t, exec i s = .next t ∧
      (s.lag = false ∨ sb = 0 ∨ 2 ≤ l.type →
        (l.type ≠ 1 → (e.2.2 = false ∨ l.type ≠ 0) →
          disputed (storing g.slot g.keys pa e.2.1 l (beforeAccess g.slot g.keys (.mem pa l) s')) pa = false →
          ∀ j, j < e.2.1 → memByte t (pa + j) = n.extractLsb' (8 * j) 8) ∧
        (l.type = 1 ∨ e.2.2 = true ∧ l.type = 0 → ∀ m ∈ g.keys,
          ∃ p ∈ pendOf t g.slot m, p.cluster = none ∧ p.pa = pa ∧ p.wc = decide (l.type = 1) ∧ p.data.length = e.2.1 ∧
            ∀ j, j < e.2.1 → p.data.getD j 0 = n.extractLsb' (8 * j) 8)) ∧
      (s.lag = true → sb ≠ 0 → l.type < 2 → ∃ o ∈ (crewAt t g.slot).ops, o.slot = sb.toNat ∧ o.done = false ∧
        ∃ x regs, o.late = [x] ∧ x.reach = some (.mem pa l) ∧ x.size = e.2.1 ∧ x.act = .put e.2.2 regs)) ∧
  ∀ e ∈ storeKinds, ∀ (d a : Sel) (off : BitVec 8) (sb : BitVec 3) (g : Group) (s s' : State) (k : Nat) (r : Reach),
    let i := e.1 d a off sb
    let va := accessVa i g s k a off e.2.1
    let n := BitVec.ofNat (8 * e.2.1)
      (ofBytes ((List.range (accessRegs e.2.1)).flatMap (fun j => bytesOf 4 (reads i g s k (d.toNat + j)).toNat)))
    Ready i g s → slotFull (atIssue i g s) g sb = false → workers (isScalar a && isScalar d) g = [k] →
    reach (atIssue i g s) g.slot va e.2.1 .store (runsSystem (crewAt (atIssue i g s) g.slot)) = (.inr r, s') →
    ∃ t, exec i s = .next t ∧
      (∀ cl key, r = .bank cl key → s.lag = false ∨ sb = 0 →
        (e.2.2 = false → noSyncWaiter s → ∀ j, j < e.2.1 →
          tgetD (clusterAt t cl).banks (key + j) 0 = n.extractLsb' (8 * j) 8 ∧ (clusterAt t cl).poison.contains (key + j) = false) ∧
        (e.2.2 = true → ∀ m ∈ g.keys, ∃ p ∈ pendOf t g.slot m, p.cluster = some cl ∧ p.pa = key ∧ p.wc = false ∧
          p.data.length = 16 ∧ ∀ j, j < 16 → p.data.getD j 0 = n.extractLsb' (8 * j) 8)) ∧
      ∀ x l, r = .reg x l →
        (¬(0x10000 ≤ x ∧ x < 0x18000 ∧ x % 8 = 0) → t.fabric = s.fabric) ∧
        (0x10000 ≤ x → x < 0x18000 → x % 8 = 0 → e.2.1 = 4 →
          t.fabric = (kickQueue ((x - 0x10000) / 8) (n.setWidth 32) s).fabric)

/-- 03 R66 to R68. DRAIN makes every earlier STNT of the group's threads an event, FENCE every pending store of theirs, and
write-combining stores stay pending at a DRAIN that no lane of their instruction makes an STNT; nothing else of memory changes,
and no register. -/
def Obligations.PendingStoresDrain : Prop :=
  ∀ (i : Instr), i = .drain ∨ i = .fence → ∀ (g : Group) (s : State), Ready i g s →
    ∃ t, exec i s = .next t ∧ wentKeeping i g [] s t ∧
      (∀ k ∈ g.keys, ∀ p ∈ pendOf t g.slot k, i = .drain ∧ p.wc = true ∧ p ∈ pendOf s g.slot k) ∧
      ((∀ p ∈ (crewAt s g.slot).pend, ∀ q ∈ (crewAt s g.slot).pend, p.wc = true → q.wc = false → p.instr ≠ q.instr) →
        ∀ k ∈ g.keys, pendOf t g.slot k = (pendOf s g.slot k).filter (fun p => i = .drain && p.wc)) ∧
      memoryKept (pendingRuns s g.slot (fun p => storeOf g.keys p && !(i == .drain && p.wc))) s t ∧
      ∀ k p, g.keys = [k] → (crewAt s g.slot).pend = [p] → k ∈ p.who → p.cluster = none → (i = .drain → p.wc = false) →
        disputed s p.pa = false → ∀ j, j < p.data.length → memByte t (p.pa + j) = p.data.getD j 0

/-- 03 R69, R70, 01 R19. PREF and CCTL_EVICT change no value: nothing outside the group's crew and the lines of the
cluster cache. CCTL_IINV and CCTL_IINVALL discard the context's old copies of instruction words, of a line or of all.
CCTL_ZERO, where no thread fails, zeroes the 128 bytes of its line, on a page whose mappings agree (10 R210). -/
def Obligations.CacheControl : Prop :=
  (∀ (i : Instr) (lvl a : Sel) (off : BitVec 8) (g : Group) (s : State), i = .pref lvl a off ∨ i = .cctlEvict a off →
    Ready i g s →
    ∃ t, exec i s = .next t ∧
      t = { s with crews := t.crews, clock := t.clock, nonce := t.nonce, clusters := t.clusters } ∧
      (∀ c, (clusterAt t c).banks = (clusterAt s c).banks) ∧ wentKeeping i g [] s t) ∧
  (∀ (a : Sel) (off : BitVec 8) (g : Group) (s : State), Ready (.cctlIinvall a off) g s →
    ∃ t, exec (.cctlIinvall a off) s = .next t ∧ wentKeeping (.cctlIinvall a off) g [] s t ∧
      memoryKept (pendingRuns s g.slot (storeOf g.keys)) s t ∧
      ∀ pa, (tgetD t.shadow pa []).all (fun w => w.2.contains (crewAt s g.slot).ctx) = true) ∧
  (∀ (a : Sel) (off : BitVec 8) (g : Group) (s : State) (k : Nat), Ready (.cctlIinv a off) g s →
    let i := Instr.cctlIinv a off
    let va := accessVa i g s k a off 128
    workers (isScalar a) g = [k] →
    ∃ t, exec i s = .next t ∧ wentKeeping i g [] s t ∧
      memoryKept (pendingRuns s g.slot (storeOf (receivers (isScalar a) g k))) s t ∧
      ∀ l, va < 2 ^ 52 → inRegion va = false → translate (atIssue i g s) (crewAt s g.slot).ctx (va / 128 * 128) = some l →
        ∀ pa, l.target (va / 128 * 128) ≤ pa → pa < l.target (va / 128 * 128) + 128 →
          (tgetD t.shadow pa []).all (fun w => w.2.contains (crewAt s g.slot).ctx) = true) ∧
  ∀ (a : Sel) (off : BitVec 8) (g : Group) (s s' : State) (k pa : Nat) (l : Leaf), Ready (.cctlZero a off) g s →
    let i := Instr.cctlZero a off
    workers (isScalar a) g = [k] →
    let ks := receivers (isScalar a) g k
    let line := accessVa i g s k a off 128 / 128 * 128
    reach (atIssue i g s) g.slot line 16 .zero (runsSystem (crewAt (atIssue i g s) g.slot)) = (.inr (.mem pa l), s') →
    (∀ n, n < 8 → disputed (storing g.slot ks (pa + 16 * n) 16 l (zeroSectors g.slot ks line (.mem pa l) s' n)) (pa + 16 * n) = false) →
    ∃ t, exec i s = .next t ∧ wentKeeping i g [] s t ∧ (∀ j, j < 128 → memByte t (pa + j) = 0) ∧
      memoryKept ((pa, 128) :: footprint (atIssue i g s) g.slot ks line 16 .zero) s t

/-- 12 R231 to R236. An atomic of one thread, or once for a group, on a word of memory that is not poisoned, performed at
once: it goes on; the word becomes what its operation gives, and with Q = 0 and SB = 0 every thread receives the old word.
Memory outside the word, the leaf entry and the threads' pending stores is as before. Mappings of the page agree (10 R210). So it
is on a word of scratchpad. One that returns a value takes 0x0B at a poisoned word, with no effect on it. -/
def Obligations.AtomicsComplete : Prop :=
  (∀ e ∈ atomicKinds, ∀ (d a b : Sel) (q : Bool) (sb : BitVec 3) (g : Group) (s : State) (k pa : Nat) (l : Leaf) (s' : State),
    let i := e.1 d a b q sb
    let va := (pairOf (reads i g s k) a).toNat
    let ks := receivers (isScalar a && isScalar b) g k
    let s2 := settleSector g.slot ks (.mem pa l) s'
    let old := memWord s2 pa
    Ready i g s → slotFull (atIssue i g s) g sb = false → s.lag = false → (q = false → spoiltRead s2 pa 4 = false) →
    workers (isScalar a && isScalar b) g = [k] →
    determTrap (crewAt (atIssue i g s) g.slot) e.2.1 va = none →
    reach (atIssue i g s) g.slot va 4 .atomic (runsSystem (crewAt (atIssue i g s) g.slot)) = (.inr (.mem pa l), s') →
    memPoisoned s2 pa 4 = false → plainBytes s2 l pa 4 →
    ∃ t, exec i s = .next t ∧
      wentKeeping i g (if q = false ∧ sb = 0 then resultPlaces g d.toNat 1 else []) s t ∧
      memWord t pa = (if e.2.1 = .cas ∧ old ≠ reads i g s k b.toNat then old
        else e.2.2 old (reads i g s k b.toNat) (reads i g s k (b.toNat + 1))) ∧
      memoryKept (footprint (atIssue i g s) g.slot ks va 4 .atomic) s t ∧
      (q = false → sb = 0 → resultIs g s t d 1 (fun _ _ => old))) ∧
  ∀ e ∈ atomicKinds, ∀ (d a b : Sel) (q : Bool) (sb : BitVec 3) (g : Group) (s : State) (k : Nat) (r : Reach) (s' : State),
    let i := e.1 d a b q sb
    let va := (pairOf (reads i g s k) a).toNat
    let s2 := settleSector g.slot (receivers (isScalar a && isScalar b) g k) r s'
    Ready i g s → slotFull (atIssue i g s) g sb = false → s.lag = false → workers (isScalar a && isScalar b) g = [k] →
    determTrap (crewAt (atIssue i g s) g.slot) e.2.1 va = none →
    reach (atIssue i g s) g.slot va 4 .atomic (runsSystem (crewAt (atIssue i g s) g.slot)) = (.inr r, s') →
    (q = false →
      (∃ pa l, r = .mem pa l ∧ ∃ j, j < 4 ∧ pa + j ∈ s2.memPoison) ∨
      (∃ cl key, r = .bank cl key ∧ ∃ j, j < 4 ∧ key + j ∈ (clusterAt s2 cl).poison) →
      exec i s = .next (takeFault g.slot g.pc (allFail g ⟨0x0B, va, 0, 0, false⟩) s2)) ∧
    ∀ cl key, r = .bank cl key → noSyncWaiter s → bankPoisoned (clusterAt s2 cl) key 4 = false →
      let old : Word := BitVec.ofNat 32 (ofBytes (bankBytes (clusterAt s2 cl) key 4))
      ∃ t, exec i s = .next t ∧
        BitVec.ofNat 32 (ofBytes (bankBytes (clusterAt t cl) key 4)) =
          (if e.2.1 = .cas ∧ old ≠ reads i g s k b.toNat then old
            else e.2.2 old (reads i g s k b.toNat) (reads i g s k (b.toNat + 1))) ∧
        (q = false → sb = 0 → resultIs g s t d 1 (fun _ _ => old))

/-- 03 R71, R72, 05 R109, 01 R19. BRA, CALL, JMPR, JMPR_L and RET: each thread that takes the branch goes to its target,
outside any clause, and the others fall through; CALL and JMPR_L write the link; the group splits by address. Nothing else
changes. -/
def Obligations.BranchesGo : Prop :=
  (∀ (p : PSel) (n : Bool) (off : BitVec 18) (f : BitVec 3) (g : Group) (s : State),
    let i := Instr.bra p n off f
    Ready i g s →
    ∃ t, exec i s = .next t ∧ elsewhereKept g [] [] s t ∧
      jumped i g (fun k => if holds i g s p n k then some (relative g.pc off) else none) t) ∧
  (∀ (p : PSel) (n : Bool) (off : BitVec 18) (f : BitVec 3) (g : Group) (s : State),
    let i := Instr.call p n off f
    Ready i g s →
    ∃ t, exec i s = .next t ∧
      elsewhereKept g ((g.keys.filter (holds i g s p n)).flatMap (fun k => [place k 62, place k 63])) [] s t ∧
      jumped i g (fun k => if holds i g s p n k then some (relative g.pc off) else none) t ∧
      ∀ k ∈ g.keys, holds i g s p n k = true → ∀ j, j < 2 → landed (crewAt s g.slot) (place k (62 + j)) = true →
        rawReg (crewAt t g.slot) k (62 + j) = linkOf i g j) ∧
  (∀ (i : Instr) (a : Sel) (g : Group) (s : State), i = .jmpr a ∨ i = .ret a → Ready i g s →
    (∀ k ∈ g.keys, (pairOf (reads i g s k) a).toNat % 4 = 0) →
    ∃ t, exec i s = .next t ∧ elsewhereKept g [] [] s t ∧ jumped i g (fun k => some (pairOf (reads i g s k) a).toNat) t) ∧
  ∀ (d a : Sel) (g : Group) (s : State),
    let i := Instr.jmprL d a
    Ready i g s → (∀ k ∈ g.keys, (pairOf (reads i g s k) a).toNat % 4 = 0) →
    ∃ t, exec i s = .next t ∧ elsewhereKept g (resultPlaces g d.toNat 2) [] s t ∧
      jumped i g (fun k => some (pairOf (reads i g s k) a).toNat) t ∧ resultIs g s t d 2 (fun _ j => linkOf i g j)

/-- 03 R72. A register branch of a group all of whose targets have bits [1:0] not zero takes 0x05 with the target as its
address, and goes nowhere. Where only some have, those threads alone take it, each with its target, and the others go to theirs,
with JMPR_L's link written for them alone. -/
def Obligations.BranchTargetsAligned : Prop :=
  (∀ (i : Instr) (d a : Sel) (g : Group) (s : State), i = .jmpr a ∨ i = .jmprL d a ∨ i = .ret a → Ready i g s →
    (∀ k ∈ g.keys, (pairOf (reads i g s k) a).toNat % 4 ≠ 0) →
    exec i s = .next (takeFault g.slot g.pc
      (g.keys.map (fun k => (k, trapVa 0x05 (pairOf (reads i g s k) a).toNat))) (atIssue i g s))) ∧
  ∀ (i : Instr) (d a : Sel) (link : Bool) (g : Group) (s : State),
    (link = false ∧ (i = .jmpr a ∨ i = .ret a)) ∨ (link = true ∧ i = .jmprL d a) → Ready i g s →
    let target := fun k => (pairOf (reads i g s k) a).toNat
    let good := { g with keys := g.keys.filter (fun k => target k % 4 == 0) }
    let bad := g.keys.filter (fun k => target k % 4 != 0)
    let s1 := takeFault g.slot g.pc (bad.map (fun k => (k, trapVa 0x05 (target k)))) (atIssue i g s)
    good.keys ≠ [] →
    ∃ t, exec i s = .next t ∧ t.contexts = s1.contexts ∧ t.mem = s.mem ∧
      (∀ k ∈ bad, threadAt (crewAt t g.slot) k = threadAt (crewAt s1 g.slot) k) ∧
      (∀ k ∈ good.keys, ∃ u, threadAt (crewAt t g.slot) k = some u ∧ u.run = .running ∧ u.pc = target k ∧ u.clause = none) ∧
      regsKept (if link then resultPlaces good d.toNat 2 else []) (crewAt s g.slot) (crewAt t g.slot) ∧
      predsKept [] (crewAt s g.slot) (crewAt t g.slot) ∧
      (link = true → resultIs good s t d 2 (fun _ j => linkOf i g j))

/-- 03 R73, R74, 01 R23. NOP changes nothing; WAITSB goes on when the named slots of every thread are at 0, with their
operations waited for, and waits else; EXIT makes the pending stores of lanes without helpers events, closes their recruitments
and ends them, and holds a lane whose recruitment still has helpers until it has none; in a helper it takes 0x10. -/
def Obligations.WaitsAndExits : Prop :=
  (∀ (st : BitVec 3) (g : Group) (s : State), Ready (.nop st) g s →
    ∃ t, exec (.nop st) s = .next t ∧ regFrame (.nop st) g [] s t) ∧
  (∀ (m : BitVec 6) (st : BitVec 3) (g : Group) (s : State),
    let i := Instr.waitsb m st
    Ready i g s →
    ((∀ k ∈ g.keys, ∀ n, n < 6 → m.getLsbD n = true → slotCount (crewAt s g.slot) k (n + 1) = 0) →
      ∃ t, exec i s = .next t ∧ elsewhereKept g [] [] s t ∧ groupWent i g (crewAt s g.slot) (crewAt t g.slot) ∧
        ∀ o ∈ (crewAt t g.slot).ops, 0 < o.slot → o.slot ≤ 6 → m.getLsbD (o.slot - 1) = true → ∀ k ∈ g.keys, k ∉ o.unwaited) ∧
    ((∃ k ∈ g.keys, ∃ n, n < 6 ∧ m.getLsbD n = true ∧ slotCount (crewAt s g.slot) k (n + 1) ≠ 0) →
      exec i s = .next (wait .slots g (atIssue i g s)))) ∧
  (∀ (g : Group) (s : State), Ready .exit g s → runsSystem (crewAt s g.slot) = false →
    let helped := fun (k : Nat) => ∃ e ∈ (crewAt s g.slot).threads, ∃ h, e.2.helper = some h ∧ h.recruiter = k
    ∃ t, exec .exit s = .next t ∧
      (∀ k ∈ g.keys, ¬helped k →
        ∃ u, threadAt (crewAt t g.slot) k = some u ∧ u.run = .exited ∧ pendOf t g.slot k = [] ∧
          (tget (crewAt t g.slot).recruits k = none)) ∧
      (∀ k ∈ g.keys, helped k →
        tget (crewAt t g.slot).recruits k = tget (crewAt s g.slot).recruits k ∧
        ∃ u, threadAt (crewAt s g.slot) k = some u ∧ threadAt (crewAt t g.slot) k = some { u with run := .waiting .release }) ∧
      regsKept [] (crewAt s g.slot) (crewAt t g.slot) ∧ predsKept [] (crewAt s g.slot) (crewAt t g.slot) ∧
      memoryKept (pendingRuns s g.slot (storeOf g.keys)) s t) ∧
  ∀ (g : Group) (s : State), arrives g s → 32 ≤ g.lead →
    exec .exit s = .next (takeFault g.slot g.pc (allFail g (trapC 0x10)) (atIssue .exit g s))

/-- 06 R123 to R125, R130 to R134, R137, 05 R111 to R113. The mask instructions, where every thread that the mask names is here:
MSPLIT, MJOIN, the shuffles, VOTE, BALLOT, ELECT, MATCH and MATCH_D. The threads leave as one group with their results. For these and
for SCAN and REDUX: where a thread that the mask names is not here, and nobody else waits at a join, the group waits at its join with
nothing else changed; threads whose own bit is clear take 0x11; and where the threads that the mask names all wait at joins with it,
but not at one address, each takes 0x11 at its own. -/
def Obligations.MaskResults : Prop :=
  (∀ (d : Sel) (p : PSel) (m : BitVec 4),
    MeetsWithWord (.msplit d p m) m d (fun g s k =>
      laneBits g (fun j => holds (.msplit d p m) g s p false j == holds (.msplit d p m) g s p false k))) ∧
  (∀ (m : BitVec 4) (w : Word) (g : Group) (s : State), meets (.mjoin m) m w g s →
    ∃ t, exec (.mjoin m) s = .next t ∧ leftTogether (.mjoin m) g [] [] s t) ∧
  (∀ e ∈ shuffles, ∀ (d a b : Sel) (m : BitVec 4),
    MeetsWithWord (e.1 d a b m) m d (fun g s k =>
      let j := (e.2 k (reads (e.1 d a b m) g s k b.toNat).toNat).getD k
      reads (e.1 d a b m) g s (if j ∈ g.keys then j else k) a.toNat)) ∧
  (∀ (p q : PSel) (n : Bool) (off : BitVec 2) (m : BitVec 4),
    MeetsWithPred (.vote p q n off m) m p (fun g s _ =>
      let all := g.keys.all (holds (.vote p q n off m) g s q n)
      let any := g.keys.any (holds (.vote p q n off m) g s q n)
      if off = 0 then all else if off = 1 then any else all || !any)) ∧
  (∀ (d : Sel) (p : PSel) (n : Bool) (m : BitVec 4),
    MeetsWithWord (.ballot d p n m) m d (fun g s _ => laneBits g (holds (.ballot d p n m) g s p n))) ∧
  (∀ (p : PSel) (m : BitVec 4), MeetsWithPred (.elect p m) m p (fun g _ k => k == g.lead)) ∧
  (∀ (d a : Sel) (m : BitVec 4),
    MeetsWithWord (.matchW d a m) m d (fun g s k =>
      laneBits g (fun j => reads (.matchW d a m) g s j a.toNat == reads (.matchW d a m) g s k a.toNat))) ∧
  (∀ (d a : Sel) (m : BitVec 4),
    MeetsWithWord (.matchD d a m) m d (fun g s k =>
      laneBits g (fun j => pairOf (reads (.matchD d a m) g s j) a == pairOf (reads (.matchD d a m) g s k) a))) ∧
  ∀ (i : Instr) (m : BitVec 4) (w : Word) (g : Group) (s : State), maskReg i = some m → Ready i g s →
    (∀ k ∈ g.keys, joinMask (atIssue i g s) g m k = w) →
    let c := crewAt s g.slot
    let others := fun (p : Nat → Prop) => ∀ j ∈ liveLanes c, j ∉ g.keys → p j
    ((∀ k ∈ g.keys, w.getLsbD k = true) → others (fun j => waitsJoin c j = false) → (∃ j ∈ named c w, j ∉ g.keys) →
      ∃ t, exec i s = .next t ∧ onlyCrew g.slot s t ∧ regsKept [] c (crewAt t g.slot) ∧ predsKept [] c (crewAt t g.slot) ∧
        ∀ k ∈ g.keys, ∃ u, threadAt c k = some u ∧ threadAt (crewAt t g.slot) k = some { u with run := .waiting (.join g.pc w) }) ∧
    ((∀ k ∈ g.keys, w.getLsbD k = false) → others (fun j => waitsJoin c j = false) →
      exec i s = .next (takeFault g.slot g.pc (allFail g (trapC 0x11)) (atIssue i g s))) ∧
    ((∀ k ∈ g.keys, w.getLsbD k = true) → (∃ j ∈ named c w, j ∉ g.keys) → (tget s.contexts c.ctx).isSome = true →
      others (fun j => if w.getLsbD j then ∃ u x, threadAt c j = some u ∧ u.run = .waiting (.join x w) ∧ x ≠ g.pc ∧ u.pc < 2 ^ 64
        else waitsJoin c j = false) →
      ∃ t, exec i s = .next t ∧ t.mem = s.mem ∧ (∀ k ∈ g.keys, parkedAt t g.slot k g.pc) ∧
        ∀ j ∈ named c w, j ∉ g.keys → ∀ u, threadAt c j = some u → parkedAt t g.slot j u.pc)

/-- 06 R135, R136. SCAN gives each participant the fold of the lanes up to its own, or with EX of the lanes below, REDUX the
fold of all, in ascending lane order; the flags of the floating-point folds are ORed into FPCTL. (How both wait for the lanes of
their mask, and when they take 0x11, is said of every mask instruction in the statement before this one.) -/
def Obligations.FoldResults : Prop :=
  (∀ (d a : Sel) (ex : Bool) (op : BitVec 5) (m : BitVec 4) (w : Word) (g : Group) (s : State),
    let i := Instr.scan d a ex op m
    let xs := g.keys.map (fun j => reads i g s j a.toNat)
    op.toNat ≤ 10 → meets i m w g s →
    ∃ t, exec i s = .next t ∧ leftTogether i g (resultPlaces g d.toNat 1) [] s t ∧
      (crewAt t g.slot).fpctl = (crewAt s g.slot).fpctl ||| (foldOf op.toNat xs).2.toWord ∧
      resultIs g s t d 1 (fun k _ => (foldOf op.toNat (xs.take (g.keys.idxOf k + (if ex then 0 else 1)))).1)) ∧
  ∀ (d a : Sel) (op : BitVec 5) (m : BitVec 4) (w : Word) (g : Group) (s : State),
    let i := Instr.redux d a op m
    let xs := g.keys.map (fun j => reads i g s j a.toNat)
    op.toNat ≤ 10 → meets i m w g s →
    ∃ t, exec i s = .next t ∧ leftTogether i g (resultPlaces g d.toNat 1) [] s t ∧
      (crewAt t g.slot).fpctl = (crewAt s g.slot).fpctl ||| (foldOf op.toNat xs).2.toWord ∧
      resultIs g s t d 1 (fun _ _ => (foldOf op.toNat xs).1)

/-- 06 R138 to R140, 05 R113. BAR and BAR_SEAM: when every other live thread of the crew, or of the seam, waits here, all
go on, the threads of each crew as one group; while some thread neither comes here nor waits at a meeting, the group waits.
BAR_SEAM in a seam of several crews that is not cooperative takes 0x11. When every live thread of the crew waits at a BAR, and they
do not all wait at one address with one F, each takes 0x11 at its own. -/
def Obligations.BarriersMeet : Prop :=
  ∀ (i : Instr) (g : Group) (s : State), i = .bar ∨ i = .barSeam → Ready i g s →
    (wide i s g.slot = true → bitAt (seamWord6 s g.slot) 18 = false →
      exec i s = .next (takeFault g.slot g.pc (g.keys.map (fun k => (k, trapC 0x11))) (atIssue i g s))) ∧
    ((wide i s g.slot = true → bitAt (seamWord6 s g.slot) 18 = true ∧ seamAllPlaced s g.slot = true) →
      (∀ e ∈ liveOf s (barCrews s g.slot (wide i s g.slot)),
        (e.1 = g.slot ∧ e.2 ∈ g.keys) ∨ waitsBar s g.pc (wide i s g.slot) e = true) →
      (∀ e ∈ liveOf s (barCrews s g.slot (wide i s g.slot)), lentLanes s e.1 [e.2] = []) →
      ∃ t, exec i s = .next t ∧ t.mem = s.mem ∧
        ∀ sl ∈ barCrews s g.slot (wide i s g.slot),
          regsKept [] (crewAt s sl) (crewAt t sl) ∧ predsKept [] (crewAt s sl) (crewAt t sl) ∧
          controls (crewAt t sl) = controls (crewAt s sl) ∧
          ∃ n, ∀ k ∈ liveLanes (crewAt s sl), ∃ u, threadAt (crewAt t sl) k = some u ∧ u.run = .running ∧
            u.pc = nextPc g.pc 1 ∧ u.group = n) ∧
    ((wide i s g.slot = true → bitAt (seamWord6 s g.slot) 18 = true) →
      (∃ e ∈ liveOf s (barCrews s g.slot (wide i s g.slot)),
        ¬(e.1 = g.slot ∧ e.2 ∈ g.keys) ∧ waitsMeeting (crewAt s e.1) e.2 = false) →
      exec i s = .next (wait (.bar g.pc (wide i s g.slot)) g (atIssue i g s))) ∧
    let c := crewAt s g.slot
    (wide i s g.slot = false → (tget s.contexts c.ctx).isSome = true → (∃ k ∈ liveLanes c, k ∉ g.keys) →
      (∀ k ∈ liveLanes c, k ∉ g.keys → ∃ u x b, threadAt c k = some u ∧ u.run = .waiting (.bar x b) ∧ (x, b) ≠ (g.pc, false) ∧
        u.pc < 2 ^ 64) → g.pc < 2 ^ 64 →
      ∃ t, exec i s = .next t ∧ t.mem = s.mem ∧ (∀ k ∈ g.keys, parkedAt t g.slot k g.pc) ∧
        ∀ k ∈ liveLanes c, k ∉ g.keys → ∀ u, threadAt c k = some u → parkedAt t g.slot k u.pc)

/-- 06 R141 to R143. RAND, RAND_Q and RAND_F: each thread receives the words of Philox-4x32-10 under its crew's key at its
own counter, which counts on; nothing else changes. -/
def Obligations.RandomDraws : Prop :=
  ∀ e ∈ draws, ∀ (d : Sel) (g : Group) (s : State),
    Ready (e.1 d) g s → (∀ k ∈ g.keys, ∀ u, threadAt (crewAt s g.slot) k = some u → 32 ≤ k → u.iter.isSome = true) →
    ∃ t, exec (e.1 d) s = .next t ∧ elsewhereKept g (resultPlaces g d.toNat e.2.1) [] s t ∧
      ∀ k ∈ g.keys, ∃ u u', threadAt (crewAt s g.slot) k = some u ∧ threadAt (crewAt t g.slot) k = some u' ∧
        goneOn (e.1 d) g.pc (drawn u) u' ∧
        ∀ j, j < e.2.1 → landed (crewAt s g.slot) (place k (d.toNat + j)) = true →
          rawReg (crewAt t g.slot) k (d.toNat + j) =
            BitVec.ofNat 32 (e.2.2 (philoxTen (drawOf s g.slot u k) (crewAt s g.slot).key.toNat) j)

/-- 07 R144 to R151. RECRUIT by one lane: with a recruitment open already, bit 31 alone; else the number of helpers granted, the
least of what is asked, the count, the available lanes and what the free pool bytes admit, and none with NORECRUIT; a
recruitment of the count with its snapshot, and that many helpers at the entry, each on an available lane, with workers numbered
from 1. -/
def Obligations.RecruitOpens : Prop :=
  ∀ (d a b : Sel) (kb : Bool) (st : BitVec 3) (lit : Word) (g : Group) (s : State) (k : Nat),
    let i := Instr.recruit d a b kb st lit
    let req := (reads i g s k a.toNat).toNat
    let cnt := (operandB (reads i g s k) kb b).toNat
    let used := ((s.crews.filter (fun e => e.1 / 48 == g.slot / 48)).flatMap (fun e =>
      e.2.recruits.map (fun r => if r.2.granted = 0 then 0 else 256 + 128 * r.2.granted))).sum
    let n := if (crewAt s g.slot).crewctl.getLsbD 2 then 0
      else min (min (min req 31) cnt) (min (availableLanes (atIssue i g s) g.slot k).length ((65536 - 256 - used) / 128))
    Ready i g s → g.keys = [k] →
    ((tget (crewAt s g.slot).recruits k).isSome = true →
      ∃ t, exec i s = .next t ∧ regFrame i g (resultPlaces g d.toNat 1) s t ∧ resultIs g s t d 1 (fun _ _ => 0x80000000)) ∧
    (tget (crewAt s g.slot).recruits k = none →
      (n = 0 ∨ (assayOn (crewAt s g.slot) k = false ∨ snapshotUnderruns (atIssue i g s) g.slot k = false) ∧
        snapshotPoisoned (crewAt s g.slot) k = false) →
      ∃ t, exec i s = .next t ∧ onlyCrew g.slot s t ∧
        lanesKept (resultPlaces g d.toNat 1) (crewAt s g.slot) (crewAt t g.slot) ∧
        predsKept ((List.range 31).map (fun w => tkey (.helper k (w + 1))) |>.flatMap (fun h =>
          (List.range 8).map (predPlace h))) (crewAt s g.slot) (crewAt t g.slot) ∧
        controls (crewAt t g.slot) = controls (crewAt s g.slot) ∧
        resultIs g s t d 1 (fun _ _ => BitVec.ofNat 32 n) ∧
        (∃ u u', threadAt (crewAt s g.slot) k = some u ∧ threadAt (crewAt t g.slot) k = some u' ∧ goneOn i g.pc u u') ∧
        (∃ r, tget (crewAt t g.slot).recruits k = some r ∧ r.count = cnt ∧ r.next = 0 ∧ r.granted = n ∧ r.handed = 0 ∧
          r.forced = false ∧ r.hfault = false ∧
          (0 < n → ∀ j, j < 32 → r.snapS.getD j 0 = reads i g s k (96 + j) ∧
            r.snapV.getD j 0 = if j < vcount (crewAt s g.slot) then reads i g s k j else 0)) ∧
        ∀ w, w < n → ∃ u h l, threadAt (crewAt t g.slot) (tkey (.helper k (w + 1))) = some u ∧ u.helper = some h ∧
          u.pc = (((g.pc : Int) + 4 * lit.toInt) % 2 ^ 64).toNat ∧ u.run = .running ∧ u.preds = 0 ∧ h.recruiter = k ∧
          h.worker = w + 1 ∧ h.priv = [] ∧ h.crewctl = (crewAt s g.slot).crewctl ∧ h.held = some l ∧
          l ∈ availableLanes (atIssue i g s) g.slot k)

/-- 07 R154 to R156. HNEXT by one thread: while an index is left it receives it in D, with P true, and the recruitment counts
on; a recruiter without one, or a thread without a recruitment, receives P false; a helper ends when none is left or its
release is due. N inverts P. -/
def Obligations.NextIndexes : Prop :=
  ∀ (d : Sel) (p : PSel) (n : Bool) (g : Group) (s : State) (k : Nat),
    let i := Instr.hnext d p n
    let helper := (servedBy (crewAt s g.slot) k).2
    Ready i g s → g.keys = [k] →
    (∀ r, servedRecruit g s k = some r → r.next < r.count → releaseDue (crewAt s g.slot) k = false →
      ∃ t, exec i s = .next t ∧ onlyCrew g.slot s t ∧
        regsKept (resultPlaces g d.toNat 1) (crewAt s g.slot) (crewAt t g.slot) ∧
        predsKept (predResultPlaces g p.toNat) (crewAt s g.slot) (crewAt t g.slot) ∧
        resultIs g s t d 1 (fun _ _ => BitVec.ofNat 32 r.next) ∧ predIs g t p (fun _ => !n) ∧
        servedRecruit g t k = some { r with next := r.next + 1, handed := r.handed + if helper then 1 else 0 } ∧
        nextIteration i g k (some (BitVec.ofNat 32 r.next, 0)) s t) ∧
    ((servedRecruit g s k = none ∨ helper = false ∧ ∃ r, servedRecruit g s k = some r ∧ r.count ≤ r.next) →
      ∃ t, exec i s = .next t ∧ onlyCrew g.slot s t ∧ regsKept [] (crewAt s g.slot) (crewAt t g.slot) ∧
        predsKept (predResultPlaces g p.toNat) (crewAt s g.slot) (crewAt t g.slot) ∧ predIs g t p (fun _ => n) ∧
        nextIteration i g k none s t) ∧
    (helper = true → (∃ r, servedRecruit g s k = some r ∧ (r.count ≤ r.next ∨ releaseDue (crewAt s g.slot) k = true)) →
      ∃ t, exec i s = .next t ∧ threadAt (crewAt t g.slot) k = none ∧
        lanesKept [] (crewAt s g.slot) (crewAt t g.slot) ∧
        memoryKept (pendingRuns s g.slot (storeOf [k])) s t)

/-- 07 R157, R159. HRELEASE waits while a helper of the group's recruitments has not ended, and else gives each thread the
status of its recruitment, 0 without one, and closes it. HSTAT, HSTAT_NEXT and HSTAT_COUNT read the status with OPEN and
RUNNING, the next index and the count, and are 0 without a recruitment. -/
def Obligations.RecruitmentStatus : Prop :=
  (∀ (d : Sel) (g : Group) (s : State), Ready (.hrelease d) g s →
    ((∃ k ∈ g.keys, hasHelpers (crewAt s g.slot) k = true) →
      exec (.hrelease d) s = .next (wait .release g (atIssue (.hrelease d) g s))) ∧
    ((∀ k ∈ g.keys, hasHelpers (crewAt s g.slot) k = false) →
      ∃ t, exec (.hrelease d) s = .next t ∧ onlyCrew g.slot s t ∧
        regsKept (resultPlaces g d.toNat 1) (crewAt s g.slot) (crewAt t g.slot) ∧
        predsKept [] (crewAt s g.slot) (crewAt t g.slot) ∧
        resultIs g s t d 1 (fun k _ => match tget (crewAt s g.slot).recruits k with
          | none => 0
          | some r => BitVec.ofNat 32 (statusOf r)) ∧
        ∀ k ∈ g.keys, tget (crewAt t g.slot).recruits k = none ∧
          ∃ u', threadAt (crewAt t g.slot) k = some u' ∧ u'.pc = nextPc g.pc 1 ∧ u'.run = .running)) ∧
  ∀ e ∈ ([(.hstat, fun c k r => 2 ^ 31 + runningHelpers c k * 2 ^ 26 + statusOf r), (.hstatNext, fun _ _ r => r.next),
      (.hstatCount, fun _ _ r => r.count)] : List ((Sel → Instr) × (Crew → Nat → Recruit → Nat))),
    ∀ (d : Sel) (g : Group) (s : State), Ready (e.1 d) g s →
      ∃ t, exec (e.1 d) s = .next t ∧ regFrame (e.1 d) g (resultPlaces g d.toNat 1) s t ∧
        resultIs g s t d 1 (fun k _ => match servedRecruit g s k with
          | none => 0
          | some r => BitVec.ofNat 32 (e.2 (crewAt s g.slot) (servedBy (crewAt s g.slot) k).1 r))

/-- 12 R239 to R243, R253. TSOPEN with a good block opens the lowest free slot and gives its handle, or all ones when none
is free; TSBIND sets TSTREAM to a valid handle or all ones; TDRAIN and TDRAIN_F go on when the stream is drained, the second
freeing its slot, and wait else. A handle that is not valid takes 0x0F with sub-code 1. -/
def Obligations.TicketStreamsOpen : Prop :=
  (∀ (d a : Sel) (g : Group) (s : State),
    let i := Instr.tsopen d a
    let r := fun j => (reads i g s g.lead (a.toNat + j)).toNat
    let spill := (crewAt s g.slot).spill.toNat + r 3
    Ready i g s → streamLimits (r 0) (r 1) (r 2) (r 3) = true →
    spillTrap (atIssue i g s) (crewAt s g.slot).ctx spill = none →
    (∀ n, lowestFree s n →
      ∃ t, exec i s = .next t ∧ onlyStream n g.slot s t ∧ wentKeeping i g (resultPlaces g d.toNat 1) s t ∧
        streamAt t n = { Stream.fresh with gen := (streamAt s n).gen, state := .opened, ctx := (crewAt s g.slot).ctx,
                                           b := r 0, m := r 1, c := r 2, w := r 0, spill := spill } ∧
        resultIs g s t d 1 (fun _ _ => BitVec.ofNat 32 ((streamAt s n).gen.toNat * 65536 + n))) ∧
    ((∀ n, n < 256 → (streamAt s n).state ≠ .free) →
      ∃ t, exec i s = .next t ∧ regFrame i g (resultPlaces g d.toNat 1) s t ∧
        resultIs g s t d 1 (fun _ _ => 0xFFFFFFFF))) ∧
  (∀ (a : Sel) (g : Group) (s : State),
    let i := Instr.tsbind a
    let h := reads i g s g.lead a.toNat
    Ready i g s →
    ((h = 0xFFFFFFFF ∨ ∃ n, streamNamed s (crewAt s g.slot).ctx h = some n) →
      ∃ t, exec i s = .next t ∧ crewFrame i g [] { crewAt s g.slot with tstream := h } s t) ∧
    (h ≠ 0xFFFFFFFF → streamNamed s (crewAt s g.slot).ctx h = none →
      exec i s = .next (takeFault g.slot g.pc (g.keys.map (fun k => (k, ⟨0x0F, 0, 1, h, false⟩))) (atIssue i g s)))) ∧
  ∀ e ∈ [(Instr.tdrain, false), (Instr.tdrainF, true)], ∀ (a : Sel) (g : Group) (s : State),
    let i := e.1 a
    let h := reads i g s g.lead a.toNat
    Ready i g s →
    (∀ n, streamNamed s (crewAt s g.slot).ctx h = some n →
      ((streamAt s n).state = .drained →
        ∃ t, exec i s = .next t ∧ onlyStream n g.slot s t ∧ wentKeeping i g [] s t ∧
          streamAt t n = if e.2 then { Stream.fresh with gen := (streamAt s n).gen + 1 } else streamAt s n) ∧
      ((streamAt s n).state ≠ .drained → exec i s = .next (wait (.drain h e.2) g (atIssue i g s)))) ∧
    (streamNamed s (crewAt s g.slot).ctx h = none →
      exec i s = .next (takeFault g.slot g.pc (g.keys.map (fun k => (k, ⟨0x0F, 0, 1, h, false⟩))) (atIssue i g s)))

/-- 12 R245 to R247. AFADDT of one thread, or once for a group, whose update passes its checks. While updates lag it is on
its way; else, with none on its way before it, an update of the ticket W is added to its word at once, and one of a later
ticket is held at its home when there is room. Mappings of the page agree where the word is stated (10 R210). -/
def Obligations.TicketedUpdates : Prop :=
  ∀ (d a b : Sel) (sb : BitVec 3) (g : Group) (s s' : State) (k n pa : Nat) (l : Leaf),
    let i := Instr.afaddt d a b sb
    let va := (pairOf (reads i g s k) a).toNat
    let ticket := (reads i g s k d.toNat).toNat
    let value := reads i g s k b.toNat
    let ks := receivers (isScalar a && isScalar b && isScalar d) g k
    let s2 := settleBytes g.slot ks none (pa / 16 * 16) 16 s'
    let old := memWord s2 pa
    let runs := (l.addr, 8) :: (pa, 4) :: pendingRuns s g.slot (storeOf ks)
    Ready i g s → slotFull (atIssue i g s) g sb = false → workers (isScalar a && isScalar b && isScalar d) g = [k] →
    updateReaches i a d g s k n pa l s' →
    (s.lag = true →
      ∃ t, exec i s = .next t ∧ wentKeeping i g [] s t ∧ memoryKept runs s t ∧
        ∃ u ∈ t.updates, u.ctx = (crewAt s g.slot).ctx ∧ u.crew = g.slot ∧ u.ticket = ticket ∧ u.value = value ∧ u.pa = pa ∧
          u.va = va ∧ u.handle = boundHandle s (crewAt s g.slot)) ∧
    (s.lag = false → s.updates = [] → ticket = (streamAt s n).w → memPoisoned s2 pa 4 = false → plainBytes s2 l pa 4 →
      ∃ t, exec i s = .next t ∧ wentKeeping i g [] s t ∧ memoryKept runs s t ∧ t.updates = [] ∧
        memWord t pa = BitVec.ofNat 32 (fp32.add 0 old.toNat value.toNat).1) ∧
    (s.lag = false → s.updates = [] → (streamAt s n).w < ticket → bufferRoom s n (homeOf s pa l.isLocal) = true →
      ∃ t, exec i s = .next t ∧ wentKeeping i g [] s t ∧ memoryKept runs s t ∧ t.updates = [] ∧
        ∃ u, (streamAt t n).buffered = (streamAt s n).buffered ++ [u] ∧ u.ticket = ticket ∧ u.value = value ∧ u.pa = pa)

/-- 12 R248, R249. TCLOSE of one thread, or once for a group, that passes its checks with every earlier update accepted: no
tickets close nothing; one close of a ticket counts, and when the ticket W has its closes and the next has not, W moves by
one. The group goes on. -/
def Obligations.TicketsClose : Prop :=
  ∀ (a b : Sel) (g : Group) (s : State) (k n : Nat),
    let i := Instr.tclose a b
    let h := boundHandle s (crewAt s g.slot)
    let j := (reads i g s k a.toNat).toNat
    let x := streamAt s n
    Ready i g s → workers (isScalar a && isScalar b) g = [k] → closesLeft s g = none →
    closeTrap s (crewAt s g.slot) h j (reads i g s k b.toNat).toNat = none →
    streamNamed s (crewAt s g.slot).ctx h = some n → allAccepted s g.slot g.keys = true →
    (tgetD s.contexts (crewAt s g.slot).ctx default).saved = none →
    (reads i g s k b.toNat = 0 → ∃ t, exec i s = .next t ∧ regFrame i g [] s t) ∧
    (reads i g s k b.toNat = 1 → x.w ≤ j → j < x.w + 1024 → tgetD x.closes j 0 < x.c →
      ((if j = x.w then tgetD x.closes j 0 + 1 < x.c else tgetD x.closes x.w 0 < x.c) →
        ∃ t, exec i s = .next t ∧ onlyStream n g.slot s t ∧ wentKeeping i g [] s t ∧
          tgetD (streamAt t n).closes j 0 = tgetD x.closes j 0 + 1 ∧ (streamAt t n).w = x.w ∧
          (streamAt t n).buffered = x.buffered) ∧
      (j = x.w → tgetD x.closes j 0 + 1 = x.c → tgetD x.closes (j + 1) 0 < x.c → j + 1 < x.b + x.m →
        ∃ t, exec i s = .next t ∧ wentKeeping i g [] s t ∧ (streamAt t n).w = j + 1 ∧
          (streamAt t n).buffered = x.buffered.filter (fun u => decide (j + 1 < u.ticket)) ∧
          (∀ m, m ≠ n → streamAt t m = streamAt s m) ∧
          memoryKept (x.buffered.flatMap (fun u => [(u.pa, 4), (u.leaf.addr, 8)])) s t))

/-- 12 R246, R247, R252. Arrivals and retries of an update that no other of its crew holds back: at W its term is added, before
W it comes late with a record of sub-code 6, after W it is held when there is room and stays on its way else. A stall that has
reached its limit is reported with sub-code 8 and counts again from 0. -/
def Obligations.TicketEvents : Prop :=
  (∀ (i : Instr) (id n : Nat) (u : Update) (s : State), i = .ticketUpdateArrival id ∨ i = .ticketUpdateRetry id →
    s.updates.find? (fun x => x.id == id) = some u →
    (∀ x ∈ s.updates.takeWhile (fun x => x.id != id), ¬(x.crew = u.crew ∧ x.home = u.home)) →
    streamNamed s u.ctx u.handle = some n →
    (u.ticket = (streamAt s n).w → memPoisoned s u.pa 4 = false → plainBytes s u.leaf u.pa 4 →
      ∃ t, exec i s = .next t ∧ (∀ x ∈ t.updates, x.id ≠ id) ∧
        memWord t u.pa = BitVec.ofNat 32 (fp32.add 0 (memWord s u.pa).toNat u.value.toNat).1 ∧
        memoryKept [(u.pa, 4), (u.leaf.addr, 8)] s t) ∧
    (u.ticket < (streamAt s n).w →
      ∃ t r, exec i s = .next t ∧ (∀ x ∈ t.updates, x.id ≠ id) ∧ t.mem = s.mem ∧ newRecord u.ctx s t r ∧ r.async = true ∧
        (r.words.getD 0 0).toNat % 256 = 0x0F ∧ r.words.getD 5 0 = BitVec.ofNat 32 (u.va / 2 ^ 32 % 2 ^ 24 + 6 * 2 ^ 24) ∧
        r.words.getD 7 0 = if u.who.headD 0 < 32 then u.handle else u.gtid) ∧
    ((streamAt s n).w < u.ticket → bufferRoom s n u.home = true →
      ∃ t, exec i s = .next t ∧ (∀ x ∈ t.updates, x.id ≠ id) ∧ t.mem = s.mem ∧
        (streamAt t n).buffered = (streamAt s n).buffered ++ [u]) ∧
    ((streamAt s n).w < u.ticket → bufferRoom s n u.home = false →
      ∃ t, exec i s = .next t ∧ t.mem = s.mem ∧ t.streams = s.streams ∧
        ∃ x ∈ t.updates, x = { u with tries := u.tries + 1 })) ∧
  ∀ (n : Nat) (s : State) (x : Context), tget s.contexts (streamAt s n).ctx = some x →
    stallCounts s (streamAt s n) = true → x.stallLimit ≤ (streamAt s n).stall →
    ∃ t r, exec (.ticketStallExpiry n) s = .next t ∧ t.mem = s.mem ∧ streamAt t n = { streamAt s n with stall := 0 } ∧
      newRecord (streamAt s n).ctx s t r ∧ r.async = true ∧ (r.words.getD 0 0).toNat % 256 = 0x0F ∧
      r.words.getD 5 0 = BitVec.ofNat 32 ((streamAt s n).w / 2 ^ 32 % 2 ^ 24 + 8 * 2 ^ 24) ∧
        r.words.getD 4 0 = BitVec.ofNat 32 (streamAt s n).w ∧
      r.words.getD 7 0 = BitVec.ofNat 32 ((streamAt s n).gen.toNat * 65536 + n % 65536)

/-- 13 R267 to R277. A counted member of the COPY family that passes its checks goes on at once, with its copy queued behind
those of its crew: what it took of its block, no unit of it done. A pull has no unit yet. With its counter at 63 the group
waits, and so it does while a switch of banks that the copy uses waits (10 R200). -/
def Obligations.CopiesQueued : Prop :=
  ∀ e ∈ copyForms, ∀ (a b : Sel) (g : Group) (s : State),
    let i := e.1 a b
    let r := fun j => reads i g s g.lead (a.toNat + j)
    let org := [(r 1).toInt, (r 2).toInt, (r 3).toInt, (r 4).toInt, (r 5).toInt]
    Ready i g s →
    (63 ≤ engineCount (crewAt s g.slot) e.2.1 → exec i s = .next (wait .engine g (atIssue i g s))) ∧
    (engineCount (crewAt s g.slot) e.2.1 < 63 → a.toNat % 8 = 0 →
      (shapeNamed s (crewAt s g.slot).ctx (r 0) = none →
        exec i s = .next (takeFault g.slot g.pc (g.keys.map (fun k => (k, ⟨0x0C, 0, 0, r 0, false⟩))) (atIssue i g s))) ∧
      ∀ ws p cp s', shapeNamed s (crewAt s g.slot).ctx (r 0) = some ws →
        e.2.2.2 b (atIssue i g s) g (geomOf ws) r = .inr p →
        (heldBySwitch (atIssue i g s) (p.banks (atIssue i g s) g.slot (geomOf ws) org) = true → exec i s = .next (wait .engine g (atIssue i g s))) ∧
        (heldBySwitch (atIssue i g s) (p.banks (atIssue i g s) g.slot (geomOf ws) org) = false →
          planCopy (atIssue i g s) g (geomOf ws) ws org (e.2.2.1 (r 6)) p = (.inr cp, s') →
        ∃ t, exec i s = .next t ∧ wentKeeping i g [] s t ∧ t.mem = s'.mem ∧
          cp.cls = e.2.1 ∧ cp.shape = ws ∧ cp.loc = e.2.2.1 (r 6) ∧ cp.targets = p.targets ∧ cp.sync = p.sync ∧
          cp.done = false ∧ (p.list = none → cp.boxes = [org]) ∧
          (cp.kind ≠ .cpnet true → cp.left = if totalUnits cp = 0 then [] else [(0, totalUnits cp)]) ∧
          (cp.left ≠ [] → (crewAt t g.slot).copies = (crewAt s g.slot).copies ++ [cp]) ∧
          (cp.kind = .cpnet true → ∃ x ∈ (crewAt t g.slot).copies, x.kind = cp.kind ∧ x.shape = ws ∧ x.peer = cp.peer ∧
            x.done = false)))

/-- 13 R278 to R283. SYINIT sets TARGET, clears ARRIVED and OVER and keeps GEN; SYARR counts an arrival, and a full target
counts a generation; SYWAIT goes on when the generation has passed and else waits, counted in WAITERS; SYTEST reads GEN and
ARRIVED; WAITC goes on when its counter holds at most n; CNTRD reads a counter. -/
def Obligations.SyncWords : Prop :=
  (∀ (a b : Sel) (g : Group) (s : State) (r : ScratchRef),
    let i := Instr.syinit a b
    let n := (reads i g s g.lead b.toNat).toNat
    Ready i g s → 0 < n → n ≤ 2 ^ 31 → syncRef (atIssue i g s) g.slot (reads i g s g.lead a.toNat) = .inr r →
    ∃ t, exec i s = .next t ∧ wentKeeping i g [] s t ∧ t.mem = s.mem ∧ syncAt t r 0 = n ∧ syncAt t r 1 = 0 ∧
      syncAt t r 2 = syncAt s r 2 ∧ bitAt (syncAt t r 3) 16 = false) ∧
  (∀ (a b : Sel) (g : Group) (s : State) (r : ScratchRef),
    let i := Instr.syarr a b
    let z := (reads i g s g.lead b.toNat).toNat
    let sum := (syncAt s r 1 + z) % 2 ^ 32
    Ready i g s → z ≤ 2 ^ 31 → syncRef (atIssue i g s) g.slot (reads i g s g.lead a.toNat) = .inr r →
    ∃ t, exec i s = .next t ∧ wentKeeping i g [] s t ∧ t.mem = s.mem ∧ syncAt t r 0 = syncAt s r 0 ∧
      (z = 0 → regFrame i g [] s t) ∧
      (0 < z → syncAt s r 0 = 0 → syncAt t r 1 = sum ∧ syncAt t r 2 = syncAt s r 2) ∧
      (0 < z → 0 < syncAt s r 0 → syncAt t r 1 = sum % syncAt s r 0 ∧
        syncAt t r 2 = (syncAt s r 2 + sum / syncAt s r 0) % 2 ^ 32)) ∧
  (∀ (a b : Sel) (g : Group) (s : State) (r : ScratchRef),
    let i := Instr.sywait a b
    let d := (syncAt s r 2 + 2 ^ 32 - (reads i g s g.lead b.toNat).toNat) % 2 ^ 32
    Ready i g s → syncRef (atIssue i g s) g.slot (reads i g s g.lead a.toNat) = .inr r →
    (1 ≤ d → d < 2 ^ 31 → ∃ t, exec i s = .next t ∧ regFrame i g [] s t) ∧
    ((d = 0 ∨ 2 ^ 31 ≤ d) →
      ∃ t, exec i s = .next t ∧ t.mem = s.mem ∧ syncAt t r 3 % 65536 = min (syncAt s r 3 % 65536 + 1) 65535 ∧
        ∀ k ∈ g.keys, ∃ u n, threadAt (crewAt t g.slot) k = some u ∧ u.pc = g.pc ∧
          u.run = .waiting (.sync r.cl r.off r.va (reads i g s g.lead b.toNat) n))) ∧
  (∀ (a b : Sel) (g : Group) (s : State) (r : ScratchRef),
    let i := Instr.sytest a b
    Ready i g s → syncRef (atIssue i g s) g.slot (reads i g s g.lead a.toNat) = .inr r →
    ∃ t, exec i s = .next t ∧ regFrame i g (resultPlaces g b.toNat 2) s t ∧
      resultIs g s t b 2 (fun _ j => BitVec.ofNat 32 (syncAt s r (2 - j)))) ∧
  (∀ (c n : Sel) (g : Group) (s : State), Ready (.waitc c n) g s →
    (engineCount (crewAt s g.slot) c.toNat ≤ n.toNat →
      ∃ t, exec (.waitc c n) s = .next t ∧ regFrame (.waitc c n) g [] s t) ∧
    (n.toNat < engineCount (crewAt s g.slot) c.toNat →
      exec (.waitc c n) s = .next (wait .engine g (atIssue (.waitc c n) g s)))) ∧
  ∀ (a c : Sel) (g : Group) (s : State), Ready (.cntrd a c) g s →
    ∃ t, exec (.cntrd a c) s = .next t ∧ regFrame (.cntrd a c) g (resultPlaces g a.toNat 1) s t ∧
      resultIs g s t a 1 (fun _ _ => BitVec.ofNat 32 (engineCount (crewAt s g.slot) c.toNat))

/-- 13 R259, R264 to R266, R275. SHPSET copies a valid record into the lowest free slot and gives its handle, or all ones
when none is free; SHPFREE frees the slot that a valid handle names, whose generation increments; SHPRD reads its record;
with a stale handle both take 0x0C. CPPF changes no value. -/
def Obligations.ShapeSlots : Prop :=
  (∀ (a b : Sel) (g : Group) (s s' : State) (ws : List Word),
    let i := Instr.shpset a b
    let ctx := (crewAt s g.slot).ctx
    Ready i g s → shapeRead (atIssue i g s) g (pairOf (reads i g s g.lead) b).toNat = (.inr ws, s') →
    (∀ n, n < 1024 → (shapeAt s ctx n).record = none → (∀ m, m < n → (shapeAt s ctx m).record ≠ none) →
      ∃ t, exec i s = .next t ∧ wentKeeping i g (resultPlaces g a.toNat 1) s t ∧ t.mem = s'.mem ∧
        resultIs g s t a 1 (fun _ _ => BitVec.ofNat 32 ((shapeAt s ctx n).gen.toNat * 65536 + n)) ∧
        ((tget s.contexts ctx).isSome = true → shapeAt t ctx n = ⟨(shapeAt s ctx n).gen, some ws⟩) ∧
        ∀ m, m ≠ n → shapeAt t ctx m = shapeAt s ctx m) ∧
    ((∀ n, n < 1024 → (shapeAt s ctx n).record ≠ none) →
      ∃ t, exec i s = .next t ∧ wentKeeping i g (resultPlaces g a.toNat 1) s t ∧ t.mem = s'.mem ∧
        resultIs g s t a 1 (fun _ _ => 0xFFFFFFFF))) ∧
  (∀ (b : Sel) (g : Group) (s : State),
    let i := Instr.shpfree b
    let h := reads i g s g.lead b.toNat
    let n := h.toNat % 65536
    Ready i g s →
    ((∃ ws, shapeNamed s (crewAt s g.slot).ctx h = some ws) →
      ∃ t, exec i s = .next t ∧ wentKeeping i g [] s t ∧ t.mem = s.mem ∧
        shapeAt t (crewAt s g.slot).ctx n = ⟨(shapeAt s (crewAt s g.slot).ctx n).gen + 1, none⟩ ∧
        ∀ m, m ≠ n → shapeAt t (crewAt s g.slot).ctx m = shapeAt s (crewAt s g.slot).ctx m) ∧
    (shapeNamed s (crewAt s g.slot).ctx h = none →
      exec i s = .next (takeFault g.slot g.pc (g.keys.map (fun k => (k, ⟨0x0C, 0, 0, h, false⟩))) (atIssue i g s)))) ∧
  (∀ (a b : Sel) (g : Group) (s : State),
    let i := Instr.shprd a b
    let h := reads i g s g.lead b.toNat
    Ready i g s → a = 96 ∨ a = 112 →
    (∀ ws, shapeNamed s (crewAt s g.slot).ctx h = some ws →
      ∃ t, exec i s = .next t ∧ regFrame i g (resultPlaces g a.toNat 16) s t ∧
        resultIs g s t a 16 (fun _ j => ws.getD j 0)) ∧
    (shapeNamed s (crewAt s g.slot).ctx h = none →
      exec i s = .next (takeFault g.slot g.pc (g.keys.map (fun k => (k, ⟨0x0C, 0, 0, h, false⟩))) (atIssue i g s)))) ∧
  ∀ (a b : Sel) (g : Group) (s : State), Ready (.cppf a b) g s → a.toNat % 8 = 0 →
    ∃ t, exec (.cppf a b) s = .next t ∧ wentKeeping (.cppf a b) g [] s t ∧
      t = { s with crews := t.crews, clock := t.clock, nonce := t.nonce, clusters := t.clusters } ∧
      ∀ c, (clusterAt t c).banks = (clusterAt s c).banks

/-- 13 R260, R263. In a valid record the data of a box lands within its landed size, and no two of its bytes at one place. -/
def Obligations.ShapeLanding : Prop :=
  ∀ ws, recordValid ws = true →
    let g := geomOf ws
    ∀ j y, j < g.rows → y < g.rowBytes →
      g.landAt j y < g.size ∧ ∀ j' y', j' < g.rows → y' < g.rowBytes → g.landAt j y = g.landAt j' y' → j = j' ∧ y = y'

/-- 14 R286, R289 to R293, R305, R306, 15 R314, R322. A loop instruction of the MATRIX family that passes its checks, and
MZERO of a register within its view's count, queue one job that has made no step; the group goes on, and waits while four
jobs are queued, or, for a job that uses banks, while a switch of them waits (10 R200). MSTAT waits for the jobs to end and reads
the matrix status, which MSTAT_C clears. -/
def Obligations.MatrixJobsQueued : Prop :=
  (∀ e ∈ loopForms, ∀ (a b : Sel) (g : Group) (s : State),
    let i := e.1 a b
    let w := jobWords i a b g s
    Ready i g s →
    (jobWaits s g = true → exec i s = .next (wait .engine g (atIssue i g s))) ∧
    (jobWaits s g = false → badBlocks a b = false →
      heldBySwitch (atIssue i g s) (jobBanks (atIssue i g s) g.slot e.2.1 w.1 w.2) = true →
      exec i s = .next (wait .engine g (atIssue i g s))) ∧
    (jobWaits s g = false → badBlocks a b = false →
      heldBySwitch (atIssue i g s) (jobBanks (atIssue i g s) g.slot e.2.1 w.1 w.2) = false →
      blockTrap (atIssue i g s) g.slot ((e.2.2 (crewAt (atIssue i g s) g.slot) w.1).and
        (postCheck (crewAt (atIssue i g s) g.slot) e.2.1 w.2)) w.2 = none →
      ∃ t jb, exec i s = .next t ∧ wentKeeping i g [] s t ∧
        t = { s with crews := t.crews, clock := t.clock, nonce := t.nonce, uid := t.uid } ∧
        (∀ x, x ≠ g.slot → tget t.crews x = tget s.crews x) ∧
        (crewAt t g.slot).jobs = (crewAt s g.slot).jobs ++ [jb] ∧ jb.kind = e.2.1 ∧ jb.j = w.1 ∧ jb.p = w.2 ∧ jb.step = 0 ∧
        jb.post = false ∧ jb.status = 0 ∧ jb.acc = [] ∧ (crewAt t g.slot).mstatus = (crewAt s g.slot).mstatus)) ∧
  (∀ (tile : Bool) (n : BitVec 3) (g : Group) (s : State),
    let i := Instr.mzero tile n
    let count := viewCount (if tile then (crewAt s g.slot).viewT else (crewAt s g.slot).viewA)
    Ready i g s → jobWaits s g = false →
    (n.toNat < count →
      ∃ t jb, exec i s = .next t ∧ wentKeeping i g [] s t ∧
        (crewAt t g.slot).jobs = (crewAt s g.slot).jobs ++ [jb] ∧ jb.kind = .mzero tile n.toNat ∧ jb.post = false) ∧
    (count ≤ n.toNat →
      exec i s = .next (takeFault g.slot g.pc (g.keys.map (fun k => (k, trapC 0x01))) (atIssue i g s)))) ∧
  ∀ e ∈ [(Instr.mstat, false), (Instr.mstatC, true)], ∀ (a : Sel) (g : Group) (s : State), Ready (e.1 a) g s →
    ((crewAt s g.slot).jobs ≠ [] → exec (e.1 a) s = .next (wait .engine g (atIssue (e.1 a) g s))) ∧
    ((crewAt s g.slot).jobs = [] →
      ∃ t, exec (e.1 a) s = .next t ∧ resultIs g s t a 1 (fun _ _ => (crewAt s g.slot).mstatus) ∧
        crewFrame (e.1 a) g (resultPlaces g a.toNat 1)
          { crewAt s g.slot with mstatus := if e.2 then 0 else (crewAt s g.slot).mstatus } s t)

/-- 08 R184 to R189. SPAWN and SPAWNN that pass their checks: in a cancelled launch nothing is pushed, with STATUS 1; without
room STATUS 2; with room on chip the record stands behind the queue's, once or COUNT times with its argument counting up,
with STATUS 0, each counted in the launch. CANCELCHK, LVLRD and SEEDRD read; LVLCANCEL sets a flag; QHOLD and QRUN set and
clear a queue's. Heads that are then to be discarded are. That no pop falls between the pushes of one SPAWNN is the model's choice
(log entry 72). -/
def Obligations.TaskInstructions : Prop :=
  (∀ e ∈ [(Instr.spawn, false), (Instr.spawnn, true)], ∀ (a b : Sel) (g : Group) (s : State) (id : Nat) (l : Launch),
    let i := e.1 a b
    let ws := (List.range 8).map (fun j => reads i g s g.lead (a.toNat + j))
    let ctl := (reads i g s g.lead b.toNat).toNat
    let q := ctl % 64
    let cnt := ctl / 65536 % 1024
    let n := if e.2 then cnt else 1
    Ready i g s → launchIs s g.slot id l → spawnTrap (atIssue i g s) l.ctx a q ws l.det = none →
    ∃ t0, exec i s = .next (settleQueues t0) ∧ wentKeeping i g (resultPlaces g b.toNat 1) s (settleQueues t0) ∧
      (launchCancelled s l = true →
        t0.queues = s.queues ∧ resultIs g s (settleQueues t0) b 1 (fun _ _ => queueControl cnt 1 q)) ∧
      (launchCancelled s l = false → (queueAt s q).room < n →
        t0.queues = s.queues ∧ resultIs g s (settleQueues t0) b 1 (fun _ _ => queueControl cnt 2 q)) ∧
      (launchCancelled s l = false → n ≤ (queueAt s q).room → l.counter + n < 2 ^ 32 → (queueAt s q).spilled = 0 →
        (queueAt s q).chip.length + n ≤ 32 →
        (queueAt t0 q).chip = (queueAt s q).chip ++
          (List.range n).map (fun j => ⟨ws.take 7 ++ [ws.getD 7 0 + BitVec.ofNat 32 j], id, none⟩) ∧
        (tget s.launches id = some l → tget t0.launches id = some { l with counter := l.counter + n }) ∧
        t0.mem = s.mem ∧ resultIs g s (settleQueues t0) b 1 (fun _ _ => queueControl cnt 0 q))) ∧
  (∀ (a : Sel) (g : Group) (s : State) (id : Nat) (l : Launch), Ready (.cancelchk a) g s → launchIs s g.slot id l →
    ∃ t, exec (.cancelchk a) s = .next t ∧ regFrame (.cancelchk a) g (resultPlaces g a.toNat 1) s t ∧
      resultIs g s t a 1 (fun _ _ => BitVec.ofNat 32 ((launchCancelled s l).toNat +
        ([1, 2, 3].map (fun n => 2 ^ n * (levelCancelled s (4 - n) (ownLevel s l id n)).toNat)).sum))) ∧
  (∀ (a b : Sel) (g : Group) (s : State) (id : Nat) (l : Launch), Ready (.lvlrd a b) g s → launchIs s g.slot id l →
    ∃ t, exec (.lvlrd a b) s = .next t ∧ regFrame (.lvlrd a b) g (resultPlaces g a.toNat 1) s t ∧
      resultIs g s t a 1 (fun _ _ => BitVec.ofNat 32
        (if b = 0 then l.counter else (tgetD s.levels (ownLevel s l id b.toNat) default).counter))) ∧
  (∀ (b : Sel) (g : Group) (s : State) (id : Nat) (l : Launch), Ready (.lvlcancel b) g s → launchIs s g.slot id l →
    ∃ t0, exec (.lvlcancel b) s = .next (settleQueues t0) ∧ wentKeeping (.lvlcancel b) g [] s (settleQueues t0) ∧
      t0.mem = s.mem ∧
      (b = 0 → ∀ x, tget s.launches id = some x → tget t0.launches id = some { x with cancel := true }) ∧
      (b ≠ 0 → ∀ x, tget s.levels (ownLevel s l id b.toNat) = some x →
        tget t0.levels (ownLevel s l id b.toNat) = some { x with cancel := true })) ∧
  (∀ (a : Sel) (g : Group) (s : State) (id : Nat) (l : Launch), Ready (.seedrd a) g s → launchIs s g.slot id l →
    ∃ t, exec (.seedrd a) s = .next t ∧ regFrame (.seedrd a) g (resultPlaces g a.toNat 2) s t ∧
      resultIs g s t a 2 (fun _ j => l.key.extractLsb' (32 * j) 32)) ∧
  ∀ e ∈ [(Instr.qhold, true), (Instr.qrun, false)], ∀ (b : Sel) (g : Group) (s : State), Ready (e.1 b) g s →
    ((queueAt s b.toNat).ctx = some (crewAt s g.slot).ctx →
      ∃ t0, exec (e.1 b) s = .next (settleQueues t0) ∧ wentKeeping (e.1 b) g [] s (settleQueues t0) ∧ t0.mem = s.mem ∧
        (queueAt t0 b.toNat).held = e.2 ∧ (queueAt t0 b.toNat).chip = (queueAt s b.toNat).chip ∧
        ∀ q, q ≠ b.toNat → (queueAt t0 q).held = (queueAt s q).held ∧ (queueAt t0 q).chip = (queueAt s q).chip) ∧
    ((queueAt s b.toNat).ctx ≠ some (crewAt s g.slot).ctx →
      exec (e.1 b) s = .next (takeFault g.slot g.pc (allFail g (trapC 0x07)) (atIssue (e.1 b) g s)))

/-- 17 R343, 10 R198 to R200, 05 R121. CREGR reads a crew control register. CREGW writes FPCTL, CREWCTL but for DETERM, TSTREAM,
SPILLBASE, each without the bits that are zero, and BANKMODE: without its permission it takes 0x07, and else the banks have
their new modes, and, where no access is on its way to them, those that enter scratchpad read zero. -/
def Obligations.ControlRegisters : Prop :=
  (∀ (a b : Sel) (g : Group) (s : State), Ready (.cregr a b) g s →
    ∃ t, exec (.cregr a b) s = .next t ∧ regFrame (.cregr a b) g (resultPlaces g a.toNat (cregWidth b)) s t ∧
      resultIs g s t a (cregWidth b) (fun _ j => controlWords s g.slot b.toNat j)) ∧
  ∀ (a b : Sel) (g : Group) (s : State),
    let i := Instr.cregw a b
    let c := crewAt s g.slot
    let w := reads i g s g.lead b.toNat
    let d := pairOf (reads i g s g.lead) b
    let n := g.slot / 192
    Ready i g s →
    (a = 0 → ∃ t, exec i s = .next t ∧ crewFrame i g [] { c with fpctl := w &&& 0x3E3 } s t) ∧
    (a = 1 → ∃ t, exec i s = .next t ∧
      crewFrame i g [] { c with crewctl := (w &&& 0xFFF0D) ||| (c.crewctl &&& 0x2) } s t) ∧
    (a = 5 → (w = 0xFFFFFFFF ∨ ∃ m, streamNamed s c.ctx w = some m) →
      ∃ t, exec i s = .next t ∧ crewFrame i g [] { c with tstream := w } s t) ∧
    (a = 7 → ∃ t, exec i s = .next t ∧ crewFrame i g [] { c with spill := d &&& 0xFFFFFFFFFFFC0 } s t) ∧
    (a = 6 → bankPermission s c = false →
      exec i s = .next (takeFault g.slot g.pc (allFail g (trapC 0x07)) (atIssue i g s))) ∧
    (a = 6 → bankPermission s c = true → switches (clusterAt s n) d = false →
      ∃ t, exec i s = .next t ∧ regFrame i g [] s t) ∧
    (a = 6 → bankPermission s c = true → switches (clusterAt s n) d = true → (clusterAt s n).switches = [] →
      (clusterAt s n).fifoReqs = [] → switchReady s n c.ctx d = true →
      ∃ t, exec i s = .next t ∧ (∀ k, k < 32 → bankModeOf (clusterAt t n) k = modeAfter (clusterAt s n) d k) ∧
        (quietBanks s n → wentKeeping i g [] s t ∧ t.mem = s.mem ∧
          ∀ k, k < 32 → modeAfter (clusterAt s n) d k = 1 → ∀ y, y < 0x20000 →
            tgetD (clusterAt t n).banks (k * 0x20000 + y) 0 =
              if bankModeOf (clusterAt s n) k = 1 then tgetD (clusterAt s n).banks (k * 0x20000 + y) 0 else 0))

/-- 17 R341, R342. TRAP and BKPT park the group with cause 0x12 or 0x13 and their code. YIELD waits, and goes on when it is
looked at again. SLEEP of n clocks waits until they have passed, of 0 clocks not at all, and a sleep whose clocks have passed
ends, by the instruction or by its expiry. In a handler crew whose wake flag is set a sleep ends at once, whatever its clocks,
and the flag is cleared. -/
def Obligations.TrapsAndSleep : Prop :=
  (∀ (b : Sel) (g : Group) (s : State),
    (Ready (.trap b) g s → exec (.trap b) s =
      .next (takeFault g.slot g.pc (allFail g ⟨0x12, 0, 0, BitVec.ofNat 32 b.toNat, false⟩) (atIssue (.trap b) g s))) ∧
    (Ready (.bkpt b) g s → exec (.bkpt b) s =
      .next (takeFault g.slot g.pc (allFail g ⟨0x13, 0, 0, BitVec.ofNat 32 b.toNat, false⟩) (atIssue (.bkpt b) g s)))) ∧
  (∀ (g : Group) (s : State) (u : Thread), Ready .yield g s → threadAt (crewAt s g.slot) g.lead = some u →
    (u.run = .running → exec .yield s = .next (wait (.yields (issueClock s g .yield + 64)) g (atIssue .yield g s))) ∧
    ((∃ n, u.run = .waiting (.yields n)) → ∃ t, exec .yield s = .next t ∧ regFrame .yield g [] s t)) ∧
  (∀ (b : Sel) (g : Group) (s : State) (u : Thread),
    let i := Instr.sleep b
    let n := (reads i g s g.lead b.toNat).toNat
    let now := crewClock (atIssue i g s) (crewAt s g.slot)
    Ready i g s → threadAt (crewAt s g.slot) g.lead = some u → wakes (crewAt s g.slot) = false →
    (u.run = .running → 0 < n → exec i s = .next (wait (.sleep (now + n) (decide (200 < n))) g (atIssue i g s))) ∧
    ((u.run = .running ∧ n = 0 ∨ ∃ m, sleepsUntil s g = some m ∧ m ≤ now) →
      ∃ t, exec i s = .next t ∧ regFrame i g [] s t)) ∧
  (∀ (b : Sel) (g : Group) (s : State) (u : Thread), Ready (.sleep b) g s → threadAt (crewAt s g.slot) g.lead = some u →
    runsSystem (crewAt s g.slot) = true → (crewAt s g.slot).wake = true →
    u.run = .running ∨ (∃ m, sleepsUntil s g = some m) →
    ∃ t, exec (.sleep b) s = .next t ∧ crewFrame (.sleep b) g [] { crewAt s g.slot with wake := false } s t) ∧
  (∀ (slot : Nat) (who : Tid) (g : Group) (s : State) (m : Nat), groupOf s slot (tkey who) = some g →
    sleepsUntil s g = some m → runsSystem (crewAt s slot) = true → (crewAt s slot).wake = true →
    ∃ t, exec (.sleepExpiry slot who) s = .next t ∧ onlyCrew slot s t ∧ (crewAt t slot).wake = false ∧
      ∀ k ∈ g.keys, ∃ u, threadAt (crewAt t slot) k = some u ∧ u.pc = nextPc g.pc 1 ∧ u.run = .running) ∧
  ∀ (slot : Nat) (who : Tid) (g : Group) (s : State) (m : Nat), groupOf s slot (tkey who) = some g →
    sleepsUntil s g = some m → m ≤ crewClock s (crewAt s slot) →
    ∃ t, exec (.sleepExpiry slot who) s = .next t ∧ onlyCrew slot s t ∧
      regsKept [] (crewAt s slot) (crewAt t slot) ∧ predsKept [] (crewAt s slot) (crewAt t slot) ∧
      ∀ k ∈ g.keys, ∃ u, threadAt (crewAt t slot) k = some u ∧ u.pc = nextPc g.pc 1 ∧ u.run = .running

/-- 17 R344 to R346. In a handler crew: FQPOP gives the oldest record of the ring and its number, or zeros and all ones; RESUME
with a number that parks no thread answers STATUS 1 and changes nothing, as it does for a record that is with the host, the
model's choice (log entry 23), and else its threads try again, skip their instruction, end, or, escalated, stay parked; TLBINV
makes the context's outstanding stores events and leaves no translation of its range cached. -/
def Obligations.HandlerInstructions : Prop :=
  (∀ (a b : Sel) (g : Group) (s : State),
    let i := Instr.fqpop a b
    let ctx := (crewAt s g.slot).ctx
    let q := (tgetD s.contexts ctx default).fq
    let got := fun (t : State) (ws : List Word) (n : Word) =>
      resultIs g s t b 1 (fun _ _ => n) ∧
        ∀ k ∈ g.keys, ∀ j, j < 8 → a.toNat + j ≠ b.toNat → landed (crewAt s g.slot) (place k (a.toNat + j)) = true →
          rawReg (crewAt t g.slot) k (a.toNat + j) = ws.getD j 0
    let places := resultPlaces g a.toNat 8 ++ resultPlaces g b.toNat 1
    Ready i g s → runsSystem (crewAt s g.slot) = true → a = 96 ∨ a = 104 ∨ a = 112 →
    (q.ring = [] → ∃ t, exec i s = .next t ∧ regFrame i g places s t ∧ got t [0, 0, 0, 0, 0, 0, 0, 0] 0xFFFFFFFF) ∧
    ∀ r rs, q.ring = r :: rs → r.words.length = 8 →
      loadWords (atIssue i g s) ctx (ringSlot q (q.count - q.ring.length)) 8 = some r.words →
      ∃ t, exec i s = .next t ∧ wentKeeping i g places s t ∧ got t r.words (BitVec.ofNat 32 r.seq) ∧
        (q.held = [] →
          t.mem = (afterRead ctx (ringSlot q (q.count - q.ring.length)) 32 (atIssue i g s)).mem ∧
          (tgetD t.contexts ctx default).fq.ring = rs)) ∧
  (∀ (a b : Sel) (g : Group) (s : State),
    let i := Instr.resume a b
    let ctx := (crewAt s g.slot).ctx
    let n := (reads i g s g.lead a.toNat).toNat
    let act := (reads i g s g.lead b.toNat).toNat % 4
    Ready i g s → runsSystem (crewAt s g.slot) = true →
    ((2 ^ 31 ≤ n ∨ isParked s ctx n = false ∨ withHost s ctx n = true) →
      ∃ t, exec i s = .next t ∧ regFrame i g (resultPlaces g b.toNat 1) s t ∧
        resultIs g s t b 1 (fun _ _ => BitVec.ofNat 32 (256 + act))) ∧
    (n < 2 ^ 31 → isParked s ctx n = true → withHost s ctx n = false →
      ∃ t, exec i s = .next t ∧ t.mem = s.mem ∧ resultIs g s t b 1 (fun _ _ => BitVec.ofNat 32 act) ∧
        (∀ k ∈ g.keys, ∃ u, threadAt (crewAt t g.slot) k = some u ∧ u.pc = nextPc g.pc 1 ∧ u.run = .running) ∧
        ∀ x k u, (crewAt s x).ctx = ctx → threadAt (crewAt s x) k = some u → u.run = .parked n → actedOn act n x k u s t)) ∧
  ∀ (a b : Sel) (g : Group) (s : State),
    let i := Instr.tlbinv a b
    let ctx := (crewAt s g.slot).ctx
    let va := (pairOf (reads i g s g.lead) a).toNat
    let n := (reads i g s g.lead b.toNat).toNat
    let ends := (s.crews.filter (fun e => e.2.ctx == ctx)).flatMap (fun e =>
      lateRuns (crewAt s e.1) ++ pendingRuns s e.1 (fun _ => true))
    Ready i g s → runsSystem (crewAt s g.slot) = true →
    (2 ^ 52 ≤ va → exec i s = .next (takeFault g.slot g.pc (allFail g (trapVa 0x06 va)) (atIssue i g s))) ∧
    (va < 2 ^ 52 → translationsInUse s ctx (va / 65536) n = false →
      ∃ t, exec i s = .next t ∧
        ((∀ e ∈ s.crews, e.2.ctx = ctx → ∀ o ∈ (crewAt s e.1).ops, o.late ≠ [] →
            o.writes = [] ∧ ∀ x ∈ o.late, x.reach.isSome = true ∧ ∃ nt regs, x.act = .put nt regs) →
          wentKeeping i g [] s t ∧ memoryKept ends s t) ∧
        ∀ p, p < 2 ^ 36 → (n = 0 ∨ va / 65536 ≤ p ∧ p < va / 65536 + n) → tget t.tlb (ctx * 2 ^ 36 + p) = none)

/-- 17 R331, R332, 03 R73, 08 R184. In an ordinary crew FQPOP, RESUME and TLBINV take 0x07; in a handler crew EXIT and the
members of the TASK family that need a launch do. -/
def Obligations.Privileges : Prop :=
  ∀ (i : Instr) (g : Group) (s : State), Ready i g s →
    ((runsSystem (crewAt s g.slot) = false ∧ ∃ a b, i = .fqpop a b ∨ i = .resume a b ∨ i = .tlbinv a b) ∨
      (runsSystem (crewAt s g.slot) = true ∧ (i = .exit ∨ launchMembers i))) →
    exec i s = .next (takeFault g.slot g.pc (allFail g (trapC 0x07)) (atIssue i g s))

/-- 01 R22, R23, 12 R231 to R237, 10 R204, R205, R211, R213, 11 R223, R225, 03 R63. What ends the operations under way, when it
is due: a load or returning atomic writes its destination and is complete; an atomic at its home performs its operation; a FIFO
port appends a push, or gives up the bytes of a pop to its registers, except where one is poisoned (log entry 69); a pending
store becomes an event; a walk caches a leaf with AC set; an uncorrectable error poisons a sector of memory, of a bank or its
FIFO, of a register space or of the scalar registers, damages a context, or spoils the data of the next read of a sector (the
number that names the place is the model's own, log entry 26). -/
def Obligations.CompletionEvents : Prop :=
  (∀ (slot id : Nat) (s : State) (o : Op), (tget s.crews slot).isSome = true → standingOp (crewAt s slot) id = some o →
    let c := crewAt s slot
    let s1 := { s with nonce := s.nonce + 8 }
    let done := fun (t : State) => ∀ x ∈ (crewAt t slot).ops, x.id = id → x.done = true
    (opPending s slot o = true → exec (.loadReturn slot id) s = .next s) ∧
    (opPending s slot o = false →
      ∃ t, exec (.loadReturn slot id) s = .next t ∧
        (o.late = [] → done t ∧ onlyCrew slot s t ∧
          ∀ k n v, keyFits c k = true → n < 128 → writable c k n = true → landed c (place k n) = true → o.clobbered = [] →
            o.writes = [(place k n, v)] →
            rawReg (crewAt t slot) k n = v ∧ regsKept [place k n] c (crewAt t slot)) ∧
        (∀ x pa l nt regs, o.late = [x] → x.reach = some (.mem pa l) → x.act = .put nt regs → l.type ≠ 1 → nt = false ∨ l.type ≠ 0 →
          disputed (storing slot x.who pa x.size l (beforeAccess slot x.who (.mem pa l) s1)) pa = false →
          o.clobbered = [] → x.size ≤ 4 * regs.length →
          done t ∧ ∀ j, j < x.size → memByte t (pa + j) = (regs.flatMap (fun e => bytesOf 4 e.2.toNat)).getD j 0) ∧
        ∀ x, o.late = [x] → x.reach = none →
          (∀ tr s2, reach s1 slot x.va x.size x.use (runsSystem c) = (.inl tr, s2) →
            ∀ k ∈ x.who, (threadAt c k).isSome = true →
              ∃ v n, threadAt (crewAt t slot) k = some v ∧ v.run = .parked n ∧ v.pc = o.pc) ∧
          ∀ r s2 signed k n m, reach s1 slot x.va x.size x.use (runsSystem c) = (.inr r, s2) → x.act = .get signed (
              (List.range m).map (fun j => place k (n + j))) → m = accessRegs x.size → x.size ∈ [1, 2, 4, 8, 16] →
            (signed = true → x.size ≤ 2) → (∀ cl b, r ≠ .port cl b 64) → r.strong = false →
            loadPoisoned s2 slot (x.who.headD 0) r x.size = false → o.clobbered = [] → o.writes = [] → keyFits c k = true →
            (∀ j, j < m → n + j < 128 ∧ writable c k (n + j) = true ∧ landed c (place k (n + j)) = true) →
            done t ∧ ∀ j, j < m →
              rawReg (crewAt t slot) k (n + j) = loadWord x.size signed (loadBytes s2 slot (x.who.headD 0) r x.size) j)) ∧
  (∀ (id : Nat) (s : State) (a : Atom), s.atoms.find? (fun x => x.id == id) = some a →
    ∃ t, exec (.atomicAtHome id) s = .next t ∧ (∀ x ∈ t.atoms, x.id ≠ id) ∧
      ∀ pa l, a.reach = .mem pa l → s.atoms.filter (fun x => x.op == a.op && decide (x.id ≤ a.id)) = [a] →
        memPoisoned s pa 4 = false → plainBytes s l pa 4 →
        memoryKept [(pa, 4), (l.addr, 8)] s t ∧
        ∀ e ∈ atomicKinds, e.2.1 = a.kind →
          memWord t pa = if a.kind = .cas ∧ memWord s pa ≠ a.b then memWord s pa else e.2.2 (memWord s pa) a.b a.b2) ∧
  (∀ (cl bank : Nat) (s : State) (r : FifoReq),
    let q := tgetD (clusterAt s cl).fifos bank []
    ((clusterAt s cl).fifoReqs.find? (fun x => x.bank == bank && x.push == true) = some r →
      fifoBehind s r.crew r.instr (r.who.headD 0) = false → q.length + r.size ≤ 131072 →
      ∃ t, exec (.fifoPush cl bank) s = .next t ∧ tgetD (clusterAt t cl).fifos bank [] = q ++ fifoBytes s r ∧
        (clusterAt t cl).fifoReqs = (clusterAt s cl).fifoReqs.filter (fun x => x.op != r.op)) ∧
    ((clusterAt s cl).fifoReqs.find? (fun x => x.bank == bank && x.push == false) = some r →
      fifoBehind s r.crew r.instr (r.who.headD 0) = false → r.size ≤ q.length →
      let spoilt := ∃ m ∈ tgetD (clusterAt s cl).fifoPoison bank [], m < r.size
      ∃ t, exec (.fifoPop cl bank) s = .next t ∧
        (spoilt → tgetD (clusterAt t cl).fifos bank [] = q ∧
          ∀ k ∈ r.who, (threadAt (crewAt s r.crew) k).isSome = true →
            ∃ v n, threadAt (crewAt t r.crew) k = some v ∧ v.run = .parked n) ∧
        (¬spoilt → tgetD (clusterAt t cl).fifos bank [] = q.drop r.size ∧
          (clusterAt t cl).fifoReqs = (clusterAt s cl).fifoReqs.filter (fun x => x.op != r.op) ∧
          ∀ o k n, (crewAt s r.crew).ops.find? (fun x => x.id == r.op && !x.done) = some o → (tget s.crews r.crew).isSome = true →
            o.clobbered = [] → r.size % 4 = 0 → r.dest = (List.range (r.size / 4)).map (fun j => place k (n + j)) →
            keyFits (crewAt s r.crew) k = true →
            (∀ j, j < r.size / 4 → writable (crewAt s r.crew) k (n + j) = true ∧ landed (crewAt s r.crew) (place k (n + j)) = true) →
            ∀ j, j < r.size / 4 → rawReg (crewAt t r.crew) k (n + j) = BitVec.ofNat 32 (ofBytes ((q.drop (4 * j)).take 4))))) ∧
  (∀ (slot : Nat) (who : Tid) (idx : Nat) (s : State) (p : Pending),
    (pendOf s slot (tkey who))[idx]? = some p →
    ∃ t, exec (.pendingStoreEvent slot who idx) s = .next t ∧
      (pendOf t slot (tkey who)).length < (pendOf s slot (tkey who)).length ∧ memoryKept (pendingRuns s slot (fun _ => true)) s t ∧
      ((crewAt s slot).pend = [p] → p.cluster = none → disputed s p.pa = false →
        memoryKept [(p.pa, p.data.length)] s t ∧ ∀ j, j < p.data.length → memByte t (p.pa + j) = p.data.getD j 0)) ∧
  (∀ (ctx va : Nat) (s : State) (l : Leaf), walk s (tgetD s.contexts ctx default).root va = some l →
    l.reaches s va = true → tget s.tlb (tlbKey ctx va) = none →
    ∃ t, exec (.pageWalk ctx va) s = .next t ∧ tget t.tlb (tlbKey ctx va) = some l ∧ memoryKept [(l.addr, 8)] s t ∧
      (l.cow = false → bitAt (mem64 s l.addr) 0 = true → bitAt (mem64 t l.addr) 10 = true)) ∧
  ∀ (n : Nat) (s : State),
    ∃ t, exec (.uncorrectableError n) s = .next t ∧ t.mem = s.mem ∧
      (n < 2 ^ 46 → ∀ j, j < 16 → t.memPoison.contains (n / 16 * 16 + j) = true) ∧
      (2 ^ 46 ≤ n → n < 2 ^ 47 → let cl := (n - 2 ^ 46) / 2 ^ 22; let a := (n - 2 ^ 46) % 2 ^ 22
        (bankModeOf (clusterAt s cl) (a / 2 ^ 17) ≠ 2 → ∀ j, j < 16 → (clusterAt t cl).poison.contains (a / 16 * 16 + j) = true) ∧
        (bankModeOf (clusterAt s cl) (a / 2 ^ 17) = 2 →
          ∀ j, j < 16 → a % 2 ^ 17 / 16 * 16 + j < (tgetD (clusterAt s cl).fifos (a / 2 ^ 17) []).length →
            a % 2 ^ 17 / 16 * 16 + j ∈ tgetD (clusterAt t cl).fifoPoison (a / 2 ^ 17) [])) ∧
      (2 ^ 47 ≤ n → n < 2 ^ 48 → (tget s.crews ((n - 2 ^ 47) / 2 ^ 20)).isSome = true →
        (crewAt t ((n - 2 ^ 47) / 2 ^ 20)).spacePoison.contains ((n - 2 ^ 47) % 2 ^ 20 / 16) = true) ∧
      (2 ^ 48 ≤ n → n < 2 ^ 49 → ∀ x, tget s.contexts (n - 2 ^ 48) = some x →
        tget t.contexts (n - 2 ^ 48) = some { x with corrupt := true }) ∧
      (2 ^ 49 ≤ n → n < 2 ^ 50 → t.badReads.contains ((n - 2 ^ 49) / 16) = true) ∧
      (2 ^ 50 ≤ n → (tget s.crews ((n - 2 ^ 50) / 2 ^ 10)).isSome = true → ∀ j, j < 4 → (n - 2 ^ 50) % 2 ^ 10 / 16 * 4 + j < 31 →
        (crewAt t ((n - 2 ^ 50) / 2 ^ 10)).sregPoison.contains ((n - 2 ^ 50) % 2 ^ 10 / 16 * 4 + j) = true)

/-- 17 R337, 10 R200. The oldest record that a context has produced is posted: to the host or debugger as an event, behind
the ring's records with the handler crews woken, or, when the ring is full, dropped and counted, or held. A bank switch that
waits and is ready takes place, and its threads go on. -/
def Obligations.PostsAndSwitches : Prop :=
  (∀ (ctx : Nat) (s : State) (x : Context) (r : FaultRec) (rs : List FaultRec), tget s.contexts ctx = some x →
    x.fq.produced = r :: rs →
    let full := x.fq.size ≤ x.fq.ring.length ∨ x.fq.held ≠ []
    ∃ t y, exec (.faultRecordPost ctx) s = .next t ∧ tget t.contexts ctx = some y ∧ y.fq.produced = rs ∧
      ((r.toHost = true ∨ r.debug = true) →
        y.host = x.host ++ [r] ∧ t.eventCount = s.eventCount + 1 ∧ t.mem = s.mem) ∧
      (r.toHost = false → r.debug = false → full → r.async = true →
        y.fq.dropped = x.fq.dropped + 1 ∧ y.fq.ring = x.fq.ring ∧ t.mem = s.mem) ∧
      (r.toHost = false → r.debug = false → full → r.async = false →
        y.fq.held = x.fq.held ++ [r] ∧ y.fq.ring = x.fq.ring ∧ t.mem = s.mem) ∧
      (r.toHost = false → r.debug = false → ¬full →
        pagesMeet s ctx (ringSlot x.fq x.fq.count) 32 (firmPage s) = true → r.words.length = 8 →
        y.fq.ring = x.fq.ring ++ [r] ∧ y.fq.count = x.fq.count + 1 ∧
        ∀ slot, (crewAt s slot).ctx = ctx → runsSystem (crewAt s slot) = true → (tget s.crews slot).isSome = true →
          (crewAt t slot).wake = true)) ∧
  ∀ (cl : Nat) (s : State) (r : BankReq) (rs : List BankReq), (clusterAt s cl).switches = r :: rs →
    switchReady s cl r.ctx r.value = true → (clusterAt s cl).fifoReqs = [] →
    ∃ t, exec (.bankSwitch cl) s = .next t ∧ (clusterAt t cl).switches = rs ∧
      (∀ b, b < 32 → bankModeOf (clusterAt t cl) b = modeAfter (clusterAt s cl) r.value b) ∧ (quietBanks s cl → t.mem = s.mem) ∧
      (quietBanks s cl → (∀ e ∈ s.crews, syncWaiters e.2 cl = []) → ∀ k ∈ r.keys, ∀ u, threadAt (crewAt s r.crew) k = some u →
        ∃ v, threadAt (crewAt t r.crew) k = some v ∧ v.run = .running ∧ v.pc = nextPc u.pc 1)

/-- 05 R102, R114, R115, 07 R160, 03 R73, 08 R171, R175 to R178, 17 R331, R403. What happens to crews and helpers, when it is
due: an idle crew becomes pending, the longest-ready pending crew enters the active set, alone or in the place of the one active
longest; a helper is suspended and resumes; a crew that has ended leaves, where its seam is placed whole with the whole seam;
crews of a seam and of a handler are placed as they start, and wait for the lanes of their half that helpers hold; a saved
context's come back together; a complete seam goes; the
hoist makes a seam of its chosen head. Which cluster, partition and slot a crew takes is the model's choice among those with
room (log entries 33, 40), and so are what idleness counts and who goes first of equals (log entries 62, 71), when an ended crew
leaves (log entry 60), that crews of earlier seams are placed while a head waits (log entry 65), and that a head which waits to set
bank modes keeps other contexts' crews off (log entry 78). -/
def Obligations.CrewEvents : Prop :=
  (∀ (slot : Nat) (s : State), (tget s.crews slot).isSome = true → (crewAt s slot).active = true →
    idleCrew s slot (crewAt s slot) = true →
    ∃ t, exec (.crewToPending slot) s = .next t ∧ onlyCrew slot s t ∧
      crewAt t slot = { crewAt s slot with active := false, since := s.clock, readyAt := none }) ∧
  (∀ (cl p slot since : Nat) (s : State),
    let s' := noteReady cl p s
    longestReady s' cl p = some (slot, since) →
    ((activeIn s' cl p).length < 8 →
      ∃ t, exec (.pendingCrewEntry cl p) s = .next t ∧ (crewAt t slot).active = true ∧ t.mem = s.mem) ∧
    (8 ≤ (activeIn s' cl p).length → since + 1024 ≤ s.clock →
      ∃ t x n, exec (.activeCrewRotation cl p) s = .next t ∧ longestActive s' cl p = some (x, n) ∧ t.mem = s.mem ∧
        (crewAt t slot).active = true ∧
        (x ≠ slot → (crewAt t x).active = false ∧ (crewAt t x).readyAt = some s.clock))) ∧
  (∀ (slot l w : Nat) (s : State) (h : Helper),
    let k := tkey (.helper l w)
    (threadAt (crewAt s slot) k).bind (·.helper) = some h →
    (suspendable s slot k = true →
      ∃ t, exec (.helperSuspend slot l w) s = .next t ∧ onlyCrew slot s t ∧
        (threadAt (crewAt t slot) k).bind (·.helper) = some { h with held := none, due := none, suspended := true } ∧
        ∀ r, tget (crewAt s slot).recruits h.recruiter = some r →
          tget (crewAt t slot).recruits h.recruiter = some { r with forced := true }) ∧
    ∀ lane, (suspendedOf (crewAt s slot) h.recruiter).contains k = true → resumeLane s slot k h.recruiter = some lane →
      ∃ t, exec (.helperResume slot l w) s = .next t ∧ onlyCrew slot s t ∧
        (threadAt (crewAt t slot) k).bind (·.helper) = some { h with held := some lane, suspended := false }) ∧
  (∀ (slot : Nat) (s : State) (c : Crew), tget s.crews slot = some c → crewLeaves s slot c = true →
    ∃ t, exec (.crewEnd slot) s = .next t ∧ tget t.crews slot = none ∧ t.mem = s.mem ∧
      ∀ id ix k m, c.role = .seam id ix k → tget s.seams id = some m →
        tget t.seams id = some { m with ended := m.ended + 1 }) ∧
  (∀ (id : Nat) (s : State) (m : Seam),
    let l := tgetD s.launches m.launch default
    let n := m.crewCount
    let k := ((List.range m.clusters.length).find? (fun k => decide (m.placed < (k + 1) * n / m.clusters.length))).getD 0
    let s' := setBanks (m.clusters.getD k 0) m.launch s
    tget s.seams id = some m → ctxReady s l.ctx = true → nextHasRoom s id = true →
    ∃ t, exec (.crewPlacement id) s = .next t ∧ (quietBanks s (m.clusters.getD k 0) → t.mem = s.mem) ∧
      tget t.seams id = some { m with placed := m.placed + 1 } ∧
      ∀ p slot, pickPartition s' (m.clusters.getD k 0) (nearBytes l.viewV) = some p →
        Machine.freeSlot s' (m.clusters.getD k 0) p = some slot →
        ∃ half act waits, waitsForLanes s' slot half waits ∧ tget t.crews slot = some
          { newCrew (seamPlan (tgetD s'.launches m.launch default) m id m.placed k) half s.clock act with entering := waits }) ∧
  (∀ (ctx k cl p slot : Nat) (ks : List Nat) (s : State) (x : Context), tget s.contexts ctx = some x →
    x.status = .resident → x.saved = none → x.toPlace = k :: ks → handlerCluster s ctx = some cl →
    pickPartition s cl (nearBytes 0x06000000) = some p → Machine.freeSlot s cl p = some slot →
    ∃ t half act waits, exec (.handlerPlacement ctx) s = .next t ∧ t.mem = s.mem ∧
      tget t.contexts ctx = some { x with toPlace := ks } ∧ waitsForLanes s slot half waits ∧
      tget t.crews slot = some { newCrew (handlerPlan ctx x k) half s.clock act with entering := waits }) ∧
  (∀ (ctx : Nat) (s r : State) (x : Context) (v : SavedCtx) (m : Moves), tget s.contexts ctx = some x →
    x.status = .resident → x.toPlace = [] → savedWhole s x v → v.spills = [] → streamsOf s ctx = [] →
    restorePlaces s ctx v = some (m, r) →
    ∃ t, exec (.handlerPlacement ctx) s = .next t ∧ tget t.contexts ctx = some { x with saved := none } ∧
      broughtBack ctx v m s t) ∧
  (∀ (id : Nat) (s : State) (m : Seam), tget s.seams id = some m → m.ended = m.crewCount →
    ∃ t, exec (.seamComplete id) s = .next t ∧ tget t.seams id = none) ∧
  ∀ (die q : Nat) (s s'' : State) (t : Task) (ts : List Task) (cls : List Nat),
    let s' := refreshAges (settleQueues s)
    let l := tgetD s'.launches t.launch default
    let whole := taskCoop t.words || nextTicket s' l != 0xFFFFFFFF
    let n := taskCrews t.words
    let c := taskClusters t.words
    chosenQueue s' die = some q → (queueAt s' q).chip = t :: ts → taskValid t.words l.det = true → mayDispatch s' die l = true →
    (pickClusters (dieEmptyRooms s' die l) n c whole).isSome = true →
    pickClusters (dieRooms s' die l) n c whole = some cls → popTask q s' = (true, s'') →
    ∃ r m, exec (.hoistDispatch die) s = .next r ∧ tget r.seams s'.uid = some m ∧ m.launch = t.launch ∧
      m.words = t.words ∧ m.clusters = cls ∧ m.ended = 0 ∧ m.placed = (if whole then n else 1) ∧
      m.seamix = l.seams % 2 ^ 32 ∧ m.ticket = nextTicket s' l

/-- 02 R31, R34, R37, R38. The words of the spec's assembled loop, and words of other formats, decode to what they stand for;
the all-ones word and a word of an unassigned major decode to nothing; and the framing check answers as the spec's seven
cases say. -/
def Obligations.DecodeWords : Prop :=
  (∀ e ∈ sampleWords, decodeWord e.1 e.2.1 = some e.2.2) ∧
  decodeWord 0xFFFFFFFF 0 = none ∧ decodeWord 0x9C000000 0 = none ∧
  frames 0xE0000000 [] = false ∧ frames 0xE0000042 [0, 0] = false ∧ frames 0xE0004004 [0, 0, 0, 0] = false ∧
  frames 0xE0000002 [0x80105011, 0] = false ∧ frames 0xE0000003 [0, 0xC05FFFB8, 0] = false ∧
  frames 0xE0000003 [0, 0, 0x44500000] = false ∧ frames 0xE0000013 [0, 0x9C000000, 0] = true

/-- 02 R34, R37, R38. Decoding and encoding agree: the bytes of the words that encode a well-formed instruction, before any
further bytes, decode to it, every operand at every value that the encoding admits. -/
def Obligations.DecodeEncode : Prop :=
  ∀ (i : Instr) (rest : List Byte), i.isWord = true → i.wellFormed = true →
    decodeBytes ((encode i).flatMap (fun w => bytesOf 4 w.toNat) ++ rest) = some (i, rest)

/-- 01 R17, R18, R23, 02 R31, R39, 17 R332. A step runs the decoded instruction: with no turn waiting, the device started and
the thread in focus able to go on, a group inside a clause whose word at the program counter decodes to `i` has waited out
its clause's wait mask, and `i` is executed; then the focus moves on and time is kept. A word that decodes to nothing takes
0x01. A group at the start of a clause fetches it: a failed check parks it with its PC at the header, else it stands at the
first word of the clause, whose words are those that the fetch read. (The order of turns, the
place of the check of a leaf's form among a fetch's checks, and what a fetch makes of the port block, are the model's own: log
entries 1, 67.) -/
def Obligations.StepRunsDecoded : Prop :=
  (∀ (s : State) (g : Group) (u : Thread),
    s.turns = [] → s.boot.begun = true → s.focus.crew < deviceSeat →
    seatReady s s.focus.crew (tkey s.focus.who) = true → focusGroup s = some g → lentLanes s g.slot g.keys = [] →
    threadAt (crewAt s g.slot) g.lead = some u →
    let goes := fun r => step s = afterwards keepTime (afterwards moveFocus r)
    (∀ (cl : Clause) (w lit : Word), liveClause u = some cl →
      cl.words.getD ((u.pc - cl.header) / 4 - 1) 0 = w → cl.words.getD ((u.pc - cl.header) / 4) 0 = lit →
      (∀ i, decodeWord w lit = some i → delayLeft s g = 0 → goes (exec i (passMask g s))) ∧
      (delayLeft s g ≠ 0 → goes (.next (takeDelay (delayLeft s g) g s))) ∧
      (decodeWord w lit = none →
        goes (.next (takeFault g.slot g.pc (g.keys.map (fun k => (k, trapC 0x01))) (atIssue (.nop 0) g (passMask g s))))) ∧
      ((∀ k ∈ g.keys, ∀ v cl, threadAt (crewAt s g.slot) k = some v → liveClause v = some cl → cl.waited = true) →
        passMask g s = s)) ∧
    (liveClause u = none → u.run = .running → goes (exec .clauseFetch s))) ∧
  ∀ (s : State) (g : Group), focusGroup s = some g → wantsClause s g = true →
    let s' := (clauseWords s g).foldl (fetchCaches g.slot) { s with nonce := s.nonce + 8 }
    (∀ tr, fetchClause s' g = .inl tr →
      exec .clauseFetch s = .next (takeFault g.slot g.pc (g.keys.map (fun k => (k, tr)))
        (modGroup g (fun t => { t with clause := none })
          (if tr.cause = 0x0B then takeFetch g.slot (clauseWords s' g) s' else s')))) ∧
    ∀ cl, fetchClause s' g = .inr cl →
      cl.header = g.pc ∧ cl.wait = headerWait (fetchWord s' g g.pc).toNat ∧ cl.waited = false ∧
      cl.words = (((clauseWords s' g).drop 1).take (headerCount (fetchWord s' g g.pc).toNat)).map (fetchWord s' g) ∧
      frames (fetchWord s' g g.pc) cl.words = true ∧
      ∃ t, exec .clauseFetch s = .next t ∧ t.mem = s'.mem ∧
        ∀ k ∈ g.keys, ∃ u, threadAt (crewAt t g.slot) k = some u ∧ u.clause = some cl ∧ u.pc = nextPc g.pc 1 ∧ u.run = .running

/-- 00 R8, 17 R333. Every state goes on: whatever the state, a step answers a next state, and never a fault or a refusal of the
model. No rule says so as a whole: it rests on these, by which a failed check parks the thread that fails it, and the machine
goes on. -/
def Obligations.StepNeverStops : Prop := ∀ (s : State), ∃ t, step s = .next t

/-- The canonical form of memory is an invariant: from any state whose memory lists addresses in strictly rising order, a
step gives one whose memory does (log entry 3). -/
def Obligations.MemoryStaysCanonical : Prop :=
  ∀ (s t : State), Memory.wf s.mem = true → step s = .next t → Memory.wf t.mem = true

/-- 20 R370 to R372, R391, 21 R397. What reset leaves: memory in its canonical form with nothing in it, no context, no
crew, no owner, the fabric not loaded, OWNERID, HWQSLOTS, MAPIDLE, MAPAGE, FABSTAT, PWRSTAT and THRTIME at their values
and every register above the low block zero; and the first step is the start of the device. The 0 of PWRSTAT is the
model's choice (log entry 4). -/
def Obligations.ResetState : Prop :=
  Memory.wf State.reset.mem = true ∧ State.reset.mem = [] ∧ State.reset.contexts = [] ∧ State.reset.crews = [] ∧
  State.reset.owner = .none ∧ State.reset.fabric.loaded = false ∧ State.reset.boot.recovery = false ∧
  (∀ k, windowRead State.reset (0x10000 + 4 * k) = 0) ∧
  ([0x08, 0x0C, 0x10, 0x14, 0x18, 0x20, 0x34, 0x38, 0x3C].map (windowRead State.reset)) = [0, 0, 64, 64, 256, 0, 0, 0, 0] ∧
  step State.reset = afterwards keepTime (exec .deviceStart State.reset)

/-- 02 R39, 05 R118, 01 R13, 17 R333 to R337. Taking a fault. An instruction word that a group may not issue as it is written
takes 0x01 for a reserved field or a breach of the selector rules or of VCOUNT, else 0x04 for a pair or quad that is not
aligned, with no effect. Which later registers of a pair or quad count against VCOUNT, and CALL's link with them, is the model's
choice (log entry 48), and so is a record's PC of 52 bits (log entry 45). A fault of some lanes alike parks each with its PC at
the instruction and the number of one record, which its context produces with the next sequence number; a helper has a record of
its own and leaves its recruitment HFAULT; registers, memory and every other thread are as before. -/
def Obligations.FaultTaken : Prop :=
  (∀ (i : Instr) (g : Group) (s : State), i.isWord = true → arrives g s → g.lead < 32 →
    let parks := fun c => exec i s = .next (takeFault g.slot g.pc (g.keys.map (fun k => (k, trapC c))) (atIssue i g s))
    let beyond := ∃ n ∈ vectorsNamed i, vcount (crewAt s g.slot) ≤ n
    (i.fieldsOk = false ∨ i.selectorsOk = false ∨ beyond → parks 0x01) ∧
    (i.fieldsOk = true → i.selectorsOk = true → ¬beyond → i.aligned = false → parks 0x04)) ∧
  (∀ (slot pc : Nat) (ks : List Nat) (tr : Trap) (s : State) (x : Context),
    ks ≠ [] → (∀ k ∈ ks, k < 32 ∧ keyFits (crewAt s slot) k = true ∧ (threadAt (crewAt s slot) k).isSome = true) →
    tget s.contexts (crewAt s slot).ctx = some x →
    let c := crewAt s slot
    let t := takeFault slot pc (ks.map (fun k => (k, tr))) s
    let dbg := tr.cause == 0x13 && x.attached
    newRecord c.ctx s t ⟨x.fq.nextSeq, recordWords slot 0 tr.retry false false tr.cause c.ctx (pc % 2 ^ 52) tr.va tr.sub (recordMask ks) tr.aux,
      false, goesToHost s c, dbg⟩ ∧
    (tgetD t.contexts c.ctx default).halted = (x.halted || dbg) ∧
    (∀ k ∈ ks, ∃ u u', threadAt c k = some u ∧ threadAt (crewAt t slot) k = some u' ∧
      u' = { u with pc := pc, run := .parked x.fq.nextSeq }) ∧
    (∀ k, k ∉ ks → threadAt (crewAt t slot) k = threadAt c k) ∧
    t = { s with crews := t.crews, contexts := t.contexts } ∧
    crewAt t slot = { c with threads := (crewAt t slot).threads, hazards := (crewAt t slot).hazards } ∧
    ∀ y, y ≠ slot → tget t.crews y = tget s.crews y) ∧
  ∀ (slot pc l w : Nat) (tr : Trap) (s : State) (x : Context) (u : Thread) (h : Helper),
    l < 32 → w < 32 → tget s.contexts (crewAt s slot).ctx = some x →
    threadAt (crewAt s slot) (tkey (.helper l w)) = some u → u.helper = some h → tr.cause ≠ 0x13 →
    let c := crewAt s slot
    let t := takeFault slot pc [(tkey (.helper l w), tr)] s
    newRecord c.ctx s t ⟨x.fq.nextSeq, recordWords slot w tr.retry false true tr.cause c.ctx (pc % 2 ^ 52) tr.va tr.sub (2 ^ l) (gtidOf s c l),
      false, goesToHost s c, false⟩ ∧
    threadAt (crewAt t slot) (tkey (.helper l w)) = some { u with
      pc := pc, run := .parked x.fq.nextSeq, helper := some { h with held := none, due := none, suspended := true } } ∧
    ∀ r, tget c.recruits h.recruiter = some r → tget (crewAt t slot).recruits h.recruiter = some { r with hfault := true }

/-- 01 R12, 07 R150. The registers that are wired: in every state a lane reads s31 as zero and p7 as true, and writes to them
are discarded, so that every other register and predicate reads as before; a helper's registers outside v32 to v63 are
read-only. -/
def Obligations.HardwiredRegisters : Prop :=
  (∀ (s : State) (slot k : Nat), k < 32 → readReg s slot k 127 = 0) ∧
  (∀ (s : State) (slot k : Nat), readPred s slot k 7 = true) ∧
  (∀ (s : State) (slot k lat : Nat) (v : Word), keyFits (crewAt s slot) k = true → k < 32 →
    ∀ j n, rawReg (crewAt (writeRegLat slot k 127 lat v s) slot) j n = rawReg (crewAt s slot) j n) ∧
  (∀ (s : State) (slot k lat : Nat) (v : Bool),
    ∀ j n, rawPred (crewAt (writePredLat slot k 7 lat v s) slot) j n = rawPred (crewAt s slot) j n) ∧
  ∀ (s : State) (slot k sel lat : Nat) (v : Word), keyFits (crewAt s slot) k = true → 32 ≤ k → ¬(32 ≤ sel ∧ sel < 64) →
    ∀ j n, rawReg (crewAt (writeRegLat slot k sel lat v s) slot) j n = rawReg (crewAt s slot) j n

/-- 13 R268, R274, R276, R277, 14 R287, R294, R295, R299, R303, R305, R306, 19 R362 to R367, 20 R393. What the engines and the
network do, when it is due: a unit of a copy into scratchpad lands its bytes, a sector that a copy writes takes the elements
that lie in it and no other byte, and neither is done twice; the matrix engine makes the next step of the crew after the one
served last, an MMA step adding its slices to every element, and the post-operator ends a job whose steps are made, in two
parts where it writes to scratchpad; a CPNET is sent again, fails with a record, or completes; and an inbound write, read or
message that passes its checks takes effect and is acknowledged. One that gets a NAK leaves the expected number and all else as it
was, a copy's bytes arrive with each landed unit, or all at once, and a copy retires with its last arrival: the model's choices (log
entries 27, 74). -/
def Obligations.EngineEvents : Prop :=
  (∀ (slot id u : Nat) (s : State) (cp : Copy), copyAt s slot id = some cp → copyGoes s slot cp = true →
    cp.kind ≠ .cpnet true → u < totalUnits cp → inRanges u cp.left = true →
    let g := geomOf cp.shape
    let w := g.unit u
    let org := cp.boxes.getD 0 []
    let read := (sectorsOf g.e (unitElems g org w)).foldl (Copy.take s slot) cp
    ∃ t, exec (.copyArrival slot id u) s = .next t ∧ t.mem = s.mem ∧
      (∀ x ∈ (crewAt t slot).copies, x.id = id → ∃ y ∈ (crewAt s slot).copies, y.id = id ∧ x.left = cutRange u y.left) ∧
      (cp.kind = .cpin → cp.sync = [] → noSyncWaiter s →
        let cl := cp.targets.getD 0 0
        ∀ y, y < w.size g →
          tgetD (clusterAt t cl).banks (scratchKey (clusterAt s cl) (cp.loc + g.landAt w.row (w.byte + y))) 0 =
            ((unitData read g org w).getD y (0, false)).1)) ∧
  (∀ (slot id v : Nat) (s : State) (cp : Copy), copyAt s slot id = some cp → copyGoes s slot cp = true →
    cp.todo.contains v = true → cp.kind = .cpout ∨ cp.kind = .cpnet true ∧ cp.net ≠ [] →
    let g := geomOf cp.shape
    let read := if cp.kind = .cpout then
        ((sectorElems cp v).flatMap (fun q => elemUnits g q.2.1 q.2.2)).foldl (Copy.lift s) cp else cp
    let els := (sectorElems cp v).map (fun q => (q.1, landedElem read g q.2.1 q.2.2))
    let here := fun (a : Nat) => els.filter (fun q => (elemSpan g.e q.1).contains a)
    ∃ t, exec (.copyArrival slot id (totalUnits cp + v)) s = .next t ∧
      (∀ x ∈ (crewAt t slot).copies, x.id = id → v ∉ x.todo) ∧
      (inRegion (v * 16) = false →
        (∀ j, j < 16 →
          let a := v * 16 + j
          here a ≠ [] → disputed s (copyPa cp (v * 16)) = false →
            memByte t (copyPa cp a) = (writtenByte g.e a (copyByte s slot cp a) (here a)).1) ∧
        ∀ a, (∀ j, j < 16 → here (v * 16 + j) ≠ [] → copyPa cp (v * 16 + j) ≠ a) → memByte t a = memByte s a)) ∧
  (∀ (cl slot : Nat) (s : State) (jb : Job), nextServed s cl = some slot →
    stepWaits s (crewAt s slot) = true → headJob (crewAt s slot) = some jb → (jb.kind = .mmas → jb.strict = false) →
    ∃ t jb', exec (.matrixStep cl) s = .next t ∧ t.mem = s.mem ∧ (clusterAt t cl).served = some slot ∧
      headJob (crewAt t slot) = some jb' ∧
      jb' = { jb with step := jb.step + 1, status := jb'.status, post := decide (jobSteps jb ≤ jb.step + 1),
                      writes := jb'.writes, acc := jb'.acc } ∧
      (jb.kind ≠ .mrast → jb'.writes = jb.writes) ∧
      (jb.kind = .mma → jb.acc = [] ∨ jb.acc.length = 128 ∧ (∀ row ∈ jb.acc, row.length = 128) → ∀ i j, i < 128 → j < 128 →
        accElem (crewAt t slot) (bits (recWord jb.j 0) 18 16) i j = mmaElement s slot jb i j % 2 ^ 32)) ∧
  (∀ (cl : Nat) (s : State), nextServed s cl = none →
    ∃ t, exec (.matrixStep cl) s = .next t ∧ t.mem = s.mem ∧ t.crews = s.crews ∧ (clusterAt t cl).served = none) ∧
  (∀ (slot : Nat) (s : State) (jb : Job), ctxSteps s (crewAt s slot).ctx = true → postWaits (crewAt s slot) = true →
    headJob (crewAt s slot) = some jb →
    let c := crewAt s slot
    let r := runStage slot jb s
    ∃ t, exec (.postOperator slot) s = .next t ∧ t.mem = s.mem ∧
      (∀ n, jb.kind = .mzero false n →
        (crewAt t slot).jobs = c.jobs.drop 1 ∧ (crewAt t slot).mstatus = c.mstatus ||| jb.status ∧
        ∀ i j, i < 128 → j < 128 → accElem (crewAt t slot) n i j = 0) ∧
      ((∀ n b, jb.kind ≠ .mzero b n) →
        (jb.writes = [] → r.cells = [] → (crewAt t slot).jobs = c.jobs.drop 1 ∧
          (crewAt t slot).mstatus = c.mstatus ||| (jb.status ||| BitVec.ofNat 32 r.stat)) ∧
        (jb.writes = [] → r.cells ≠ [] → (crewAt t slot).mstatus = c.mstatus ∧
          (crewAt t slot).jobs = { jb with status := jb.status ||| BitVec.ofNat 32 r.stat, writes := r.cells,
                                           staged := true } :: c.jobs.drop 1) ∧
        (jb.writes ≠ [] → jb.staged = true → (crewAt t slot).jobs = c.jobs.drop 1 ∧
          (crewAt t slot).mstatus = c.mstatus ||| jb.status) ∧
        (jb.writes ≠ [] → jb.staged = false →
          (crewAt t slot).jobs = { jb with writes := [] } :: c.jobs.drop 1))) ∧
  (∀ (slot id : Nat) (s : State) (cp : Copy), copyAt s slot id = some cp →
    let ctx := (crewAt s slot).ctx
    let p := peerAt s ctx (peerNo cp.peer)
    let waits := cp.sent = true ∧ cp.done = false ∧ portUp s p = true
    (resendDue s slot cp = true →
      ∃ t, exec (.netRetransmitTimeout slot id) s = .next t ∧ t.mem = s.mem ∧
        t.outbox = s.outbox ++ [netMessage cp (ctx * 4096 + peerNo cp.peer) p cp.psn] ∧
        copyAt t slot id = some { cp with tries := cp.tries + 1, sentAt := s.wall }) ∧
    (failureDue s slot cp = true →
      ∃ t, exec (.netTransportFailure slot id) s = .next t ∧
        newRecord ctx s t ⟨(tgetD s.contexts ctx default).fq.nextSeq,
          recordWords slot 0 false true false 0x0D ctx cp.pc cp.peer.toNat 0 0 0, true, !(hasHandler s ctx), false⟩ ∧
        (∀ x, copyAt t slot id = some x → x.done = true ∧ x.left = []) ∧ (peerPull cp.peer = false → t.mem = s.mem)) ∧
    (waits → cp.kind = .cpnet false → ∀ data,
      ∃ t, exec (.cpnetComplete slot id data) s = .next t ∧ t.mem = s.mem ∧
        ∀ x, copyAt t slot id = some x → x.done = true) ∧
    (waits → cp.kind = .cpnet true → cp.net = [] → ∀ data, data.length = boxBytes cp →
      let g := geomOf cp.shape
      ∃ t, exec (.cpnetComplete slot id data) s = .next t ∧ t.mem = s.mem ∧
        ∀ x, copyAt t slot id = some x → x.todo = cp.todo ∧
          ∀ u, u < g.units → tgetD x.net u [] =
            ((data.drop ((g.unit u).row * g.rowBytes + (g.unit u).byte)).take ((g.unit u).size g)).map (fun b => (b, false)))) ∧
  ∀ (h : NetHdr) (s : State) (x : Context), served s h x →
    let ctx := h.dqp / 4096
    (∀ off rkey data, windowAllows s ctx off data.length rkey 1 = true → rangeFree s ctx (windowVa s ctx off) data.length true →
      ∃ t s', storeCtx ctx (windowVa s ctx off) data s = some s' ∧ exec (.rdmaWrite h off rkey data) s = .next t ∧
        t.mem = s'.mem ∧ answered s t h (.ack []) data.length) ∧
    (∀ off rkey data, windowAllows s ctx off data.length rkey 1 = false →
      ∃ t, exec (.rdmaWrite h off rkey data) s = .next t ∧ t = { s with outbox := s.outbox ++ [.answer h.dqp .accessNak] }) ∧
    (∀ off rkey len, windowAllows s ctx off len rkey 0 = true → rangeFree s ctx (windowVa s ctx off) len false →
      ∃ t, exec (.rdmaRead h off rkey len) s = .next t ∧
        answered s t h (.ack (readRange s ctx (windowVa s ctx off) len)) len) ∧
    ∀ data, data.length ≤ 4080 → 0 < x.rxSize →
      let va := x.rxBase + x.rxCount % x.rxSize * 4096
      rangeFree s ctx va 4096 true →
      (slotInUse s ctx va = false →
        ∃ t y, exec (.sendMsg h data) s = .next t ∧ answered s t h (.ack []) data.length ∧
          tget t.contexts ctx = some y ∧ y.rxCount = x.rxCount + 1) ∧
      (slotInUse s ctx va = true →
        let s1 := takeCtxReads ctx (va + 4092) 4 (cacheStarts ctx (pageStarts va 4096) s)
        exec (.sendMsg h data) s = .next { s1 with outbox := s1.outbox ++ [.answer h.dqp .rnrNak] })

/-- 08 R183, 17 R347, R348, R350, R352, 19 R360, R361, 20 R391, 21 R397, R398. A watchdog that has run out kills its context
with record 0x14 for the host. A context whose pre-emption has drained is saved and leaves the device, or is killed with 0x15
where its save area cannot be written. A kill that ends leaves nothing of its context. A migration copies F to G, rewrites the
named leaf's frame and LOCAL bit alone, and leaves no translation of F cached. Leases lapse and recovery sessions close. The
device start ends loaded, or in recovery at the step that failed; the unit counts it holds to the full part's, with each die's
memory as the record gives, and the unloaded fabric after a failure at step 6 are the model's choices (log entries 30, 66), and
so are the stores to F made events before its copy (log entry 28). The parsers that wait for such an effect are looked at by
`endWaits`, whose effect WorkPackets gives; a direct packet that a kill ends is given here. -/
def Obligations.ContextEvents : Prop :=
  (∀ (ctx : Nat) (s : State) (x : Context), tget s.contexts ctx = some x →
    let onDevice := x.status = .resident ∨ x.status = .preempting
    (onDevice → x.halted = false → x.wdLimit ≠ 0 → x.wdLimit ≤ x.wdCount →
      ∃ t y, exec (.watchdogExpiry ctx) s = .next t ∧ tget t.contexts ctx = some y ∧ y.status = .killing ∧
        (x.fq.produced = [] → t.mem = s.mem ∧ t.crews = s.crews ∧ y.host = x.host ++ [killRecord x ctx 0x14 0] ∧
          t.eventCount = s.eventCount + 1)) ∧
    (¬onDevice ∨ x.halted = true ∨ x.wdLimit = 0 ∨ x.wdCount < x.wdLimit →
      exec (.watchdogExpiry ctx) s = .next s)) ∧
  (∀ (ctx : Nat) (s : State) (x : Context), tget s.contexts ctx = some x → x.status = .preempting → x.saved = none →
    let s1 := drainCtx ctx s
    copiesOut s1 ctx = false →
    (x.corrupt = false → firstBad s1 ctx x.save Config.saveSize.toNat (firmPage s1) = none → streamsOf s1 ctx = [] →
      ∃ t0 y v, exec (.contextSave ctx) s = .next (endWaits t0) ∧ tget t0.contexts ctx = some y ∧ y.status = .saved ∧
        y.saved = some v ∧
        ((∀ e ∈ s1.crews, e.2.ctx = ctx → runsSystem e.2 = true → ∃ u ∈ e.2.threads, u.2.run ≠ .exited) →
          v.crews.map (fun e => e.1) = (s1.crews.filter (fun e => e.2.ctx == ctx)).map (fun e => e.1)) ∧
        v.clusters = s1.clusters.filter (fun e => e.2.owner == some ctx) ∧
        (∀ e ∈ t0.crews, e.2.ctx ≠ ctx) ∧ (∀ e ∈ t0.clusters, e.2.owner ≠ some ctx) ∧
        ∀ slot c, (slot, c) ∈ s1.crews → c.ctx ≠ ctx → (slot, c) ∈ t0.crews) ∧
    (∀ a, x.corrupt = false → streamsOf s1 ctx = [] → firstBad s1 ctx x.save Config.saveSize.toNat (firmPage s1) = some a →
      ∃ t0 y, exec (.contextSave ctx) s = .next (endWaits t0) ∧ tget t0.contexts ctx = some y ∧ y.status = .killing ∧
        ((tgetD s1.contexts ctx default).fq.produced = [] →
          y.host = (tgetD s1.contexts ctx default).host ++ [killRecord (tgetD s1.contexts ctx default) ctx 0x15 a]))) ∧
  (∀ (ctx : Nat) (s : State) (x : Context), tget s.contexts ctx = some x → x.status = .killing →
    ∃ t t0, exec (.killComplete ctx) s = .next t ∧ t = raiseEvent (eventWords 4 [] ctx 0 0 0) t0 ∧
      tget t.contexts ctx = none ∧ (∀ e ∈ t.crews, e.2.ctx ≠ ctx) ∧ (∀ e ∈ t.launches, e.2.ctx ≠ ctx) ∧
      (∀ e ∈ t.levels, e.2.ctx ≠ ctx) ∧ (∀ e ∈ t.queues, e.2.ctx ≠ some ctx) ∧ (∀ a ∈ t.atoms, a.ctx ≠ ctx) ∧
      (∀ u ∈ t.updates, u.ctx ≠ ctx) ∧ (∀ f ∈ t.fences, f.ctx ≠ ctx) ∧ (∀ e ∈ t.clusters, e.2.owner ≠ some ctx) ∧
      (∀ e ∈ t.tlb, e.1 / 2 ^ 36 ≠ ctx) ∧ (∀ e ∈ t.streams, e.2.state = .free ∨ e.2.ctx ≠ ctx) ∧
      (s.fabric.direct = some (.kill ctx) → t.fabric.direct = none ∧ t.fabric.pktStatus = 0) ∧
      ∀ h, s.fabric.direct = some h → h ≠ .kill ctx → h.context = some ctx → t.fabric.direct = none ∧ t.fabric.pktStatus = 7) ∧
  (∀ (n : Nat) (s : State) (m : Migration), tget s.migrations n = some m → migrationWaits s m = false →
    m.src + 65536 ≤ m.dst ∨ m.dst + 65536 ≤ m.src → (∀ a ∈ m.leaves, a + 8 ≤ m.dst ∨ m.dst + 65536 ≤ a) →
    let s1 := flushFrame m.src s
    ∃ t0, exec (.migration n) s = .next (endWaits t0) ∧ tget t0.migrations n = none ∧
      (∀ j, j < 65536 → memByte t0 (m.dst + j) = memByte s1 (m.src + j)) ∧
      (∀ e ∈ t0.tlb, e.2.target (e.1 % 2 ^ 36 * 65536) / 65536 ≠ m.src / 65536) ∧
      ∀ a, m.leaves = [a] → a + 8 ≤ m.src ∨ m.src + 65536 ≤ a → m.dst % 65536 = 0 → m.dst < 2 ^ 46 →
        bits (mem64 t0 a) 45 16 * 65536 = m.dst ∧ bitAt (mem64 t0 a) 13 = m.loc ∧
        ∀ b, b < 64 → b < 13 ∨ b = 14 ∨ b = 15 ∨ 46 ≤ b → bitAt (mem64 t0 a) b = bitAt (mem64 s1 a) b) ∧
  (∀ (s : State),
    (∀ m ip lease, (s.owner = .owned m ip lease ∨ ∃ n, s.owner = .offered m ip lease n) →
      (lease ≤ s.wall → exec .leaseLapse s = .next { s with owner := .none }) ∧
      (s.wall < lease → exec .leaseLapse s = .next s)) ∧
    (s.owner = .none → exec .leaseLapse s = .next s) ∧
    (∀ x, s.boot.session = some x →
      (x.last + 10000000 ≤ s.wall →
        exec .recoverySessionTimeout s = .next { s with boot := { s.boot with session := none } }) ∧
      (s.wall < x.last + 10000000 → exec .recoverySessionTimeout s = .next s)) ∧
    (s.boot.session = none → exec .recoverySessionTimeout s = .next s)) ∧
  ∀ (s : State),
    (s.boot.begun = true → exec .deviceStart s = .next s) ∧
    (s.boot.begun = false →
      let ok1 := flashVerifies s 1
      let ok2 := flashVerifies s 2
      let r := Config.recordBody (imageBody (flashImage s 1))
      let ks := stacksOn s.nonce r
      let both := (∃ k ∈ ks, k < 4) ∧ ∃ k ∈ ks, 4 ≤ k
      ∃ t, exec .deviceStart s = .next t ∧ t.mem = s.mem ∧ t.flash = s.flash ∧ t.boot.begun = true ∧
        t.boot.starts = s.boot.starts + 1 ∧
        (ok1 = false → startFailed 2 t) ∧ (1 ∈ s.torn → startFailed 2 t) ∧
        (ok1 = true → t.units.clusters0 = min 64 r.clusters0 ∧ t.units.clusters1 = min 64 r.clusters1 ∧
          t.units.hbmStacks = ks ∧ t.fabric.pwrCap = min 1700 r.powerLimit ∧
          (¬both → startFailed 4 t) ∧
          (both → (ok2 = false → startFailed 5 t) ∧
            (ok2 = true → (deviceKey ≠ r.publicKey → startFailed 6 t) ∧
              (deviceKey = r.publicKey → t.fabric.loaded = true ∧ t.boot.steps = 6 ∧ t.fabric.mhz = 1400 ∧
                t.boot.recovery = s.boot.recovery)))))

/-- 20 R370, R373 to R376, R379, R382, R385, R386, R389, R392, 21 R402. A kick moves KIDX and makes an unmapped queue pending,
or stops a queue that it passes the size of. A write of w2 enables or disables a queue. The mapping engine maps the waiting
queue with the highest effective priority on the lowest free slot, unmaps a queue that has stood idle, and gives an overdue
queue the place of the one mapped longest. A parser reads the packet whose guard matches and whose words have been kicked. A
write to PKTGO reads the packet in PKTBUF. A LAUNCH or QUNBIND that waits ends when it can. PWRCAP takes at most the record's
limit. An event that is not acknowledged is sent again. The model's choices: the lowest slot takes a queue (log entry 20), the
guard is compared as a whole word (log entry 17), a packet of an unknown type ends as one whatever its fields (log entry 16), a
write of w2 that sets EN while it is set, or with LSIZE above 5, is ignored (log entry 19), a poisoned ring word is one that cannot
be read (log entry 76), and a waiting LAUNCH takes its key and ordinal at the push, before which it is checked again (log entry
24). -/
def Obligations.FabricEvents : Prop :=
  (∀ (i : Instr) (s : State), fabricEvents i → s.fabric.loaded = false → exec i s = .next s) ∧
  (∀ (n : Nat) (w : Word) (s : State), s.fabric.loaded = true →
    let q := qcbAt s n
    let taken := q.en = true ∧ q.err = false ∧ 0 < (w - q.kidx).toNat ∧ (w - q.kidx).toNat < 2 ^ 31
    (taken → (w - q.ridx).toNat ≤ q.size →
      ∃ t, exec (.kick n w) s = .next t ∧ t.mem = s.mem ∧
        (slotOf s n = none → qcbAt t n = { q with kidx := w, pending := some (q.pending.getD s.wall) }) ∧
        (slotOf s n ≠ none → qcbAt t n = { q with kidx := w, state := if q.state = 0 then 1 else q.state })) ∧
    (taken → q.size < (w - q.ridx).toNat →
      ∃ t, exec (.kick n w) s = .next t ∧ queueStopped s t n ∧ (qcbAt t n).kidx = w) ∧
    (¬taken → exec (.kick n w) s = .next s)) ∧
  (∀ (n : Nat) (w : Word) (s : State), s.fabric.loaded = true →
    let q := qcbAt s n
    let x := { q with en := true, priv := w.getLsbD 30, prio := bits w.toNat 25 24, lsize := bits w.toNat 23 20,
                      ctx := bits w.toNat 11 0, err := false, kidx := q.ridx, state := 0 }
    (q.en = false → bits w.toNat 23 20 ≤ 5 →
      ∃ t, exec (.queueEnable n w) s = .next t ∧ qcbAt t n = x ∧ t = { s with fabric := t.fabric }) ∧
    (q.en = true ∨ 5 < bits w.toNat 23 20 → exec (.queueEnable n w) s = .next s) ∧
    (q.en = true →
      ∃ t, exec (.queueDisable n) s = .next t ∧ slotOf t n = none ∧ t = { s with fabric := t.fabric } ∧
        qcbAt t n = { q with en := false, err := false, pending := none, header := none, held := none, state := 0 }) ∧
    (q.en = false → exec (.queueDisable n) s = .next s)) ∧
  (∀ (s : State), s.fabric.loaded = true → trises s.fabric.qcbs = true → trises s.fabric.slots = true →
    (∀ slot n since, lowestSlot s slot → (n, since) ∈ waitingQueues s →
      (∀ e ∈ waitingQueues s, e = (n, since) ∨ effectivePrio s e.1 e.2 < effectivePrio s n since ∨
        effectivePrio s e.1 e.2 = effectivePrio s n since ∧ n < e.1) →
      ∃ t0, exec .queueMap s = .next (endHeld (.queue n) t0) ∧ queueMapped s t0 slot n) ∧
    (waitingQueues s = [] → exec .queueMap s = .next s) ∧
    (∀ n slot x, (slot, x) ∈ s.fabric.slots → x.queue = n → (qcbAt s n).state = 0 → (∃ a, x.idle = some a ∧
        a + s.fabric.mapIdle ≤ s.wall) →
      ∃ t, exec (.queueIdleUnmap n) s = .next t ∧ queueUnmapped s t n ∧ t = { s with fabric := t.fabric }) ∧
    ∀ n since slot x, (∀ j, j < s.fabric.hwqSlots → tget s.fabric.slots j ≠ none) → (n, since) ∈ waitingQueues s →
      since + 4 * s.fabric.mapAge ≤ s.wall → (∀ e ∈ waitingQueues s, e = (n, since) ∨ since < e.2) →
      (slot, x) ∈ s.fabric.slots → slot < s.fabric.hwqSlots → (qcbAt s x.queue).state ≤ 4 →
      (∀ e ∈ s.fabric.slots, e.1 < s.fabric.hwqSlots → (qcbAt s e.2.queue).state ≤ 4 → e = (slot, x) ∨
        x.since < e.2.since ∨ x.since = e.2.since ∧ x.queue < e.2.queue) →
      ∃ t0 t1, exec .queueOverdueSwap s = .next (endHeld (.queue n) t1) ∧ queueUnmapped s t0 x.queue ∧
        queueMapped t0 t1 slot n ∧ slotOf t1 x.queue = none ∧ qcbAt t1 x.queue = qcbAt t0 x.queue) ∧
  (∀ (n : Nat) (s : State),
    let q := qcbAt s n
    let r1 := readsRing q (q.ridx + 1).toNat 1 s
    let r2 := readsRing q q.ridx.toNat 1 r1
    (s.fabric.loaded = true → (slotOf s n).isSome = true → q.en = true → q.err = false → q.held = none → q.kidx = q.ridx →
      ∃ t, exec (.packetGuardPoll n) s = .next t ∧ qcbAt t n = { q with state := 0 } ∧ t = { s with fabric := t.fabric }) ∧
    (polls s n → q.header = none → ringWord s q (q.ridx + 1).toNat = none →
      ∃ t, exec (.packetGuardPoll n) s = .next t ∧ queueStopped r1 t n) ∧
    (polls s n → q.header = none → ∀ g, ringWord s q (q.ridx + 1).toNat = some g →
      (g.toNat ≠ q.ridx.toNat % 65536 →
        ∃ t, exec (.packetGuardPoll n) s = .next t ∧ qcbAt t n = { q with state := 1 } ∧ t = { r1 with fabric := t.fabric }) ∧
      (g.toNat = q.ridx.toNat % 65536 → ringWord r1 q q.ridx.toNat = none →
        ∃ t, exec (.packetGuardPoll n) s = .next t ∧ queueStopped r2 t n) ∧
      ∀ h, g.toNat = q.ridx.toNat % 65536 → ringWord r1 q q.ridx.toNat = some h → headerFits h.toNat q.size = false →
        ∃ t, exec (.packetGuardPoll n) s = .next t ∧ queueStopped r2 t n) ∧
    (polls s n → ∀ h r, q.header = some h ∧ r = s ∨ (q.header = none ∧ r = r2 ∧ ringWord r1 q q.ridx.toNat = some h ∧
        headerFits h.toNat q.size = true ∧
        ∃ g, ringWord s q (q.ridx + 1).toNat = some g ∧ g.toNat = q.ridx.toNat % 65536) →
      let len := h.toNat / 65536
      let type := bits h.toNat 11 0
      let r3 := readsRing q (q.ridx.toNat + 1) (len - 1) r
      let ends := fun st => ∃ s1, exec (.packetGuardPoll n) s = .next (finishPacket (.queue n) st s1) ∧
        qcbAt s1 n = { q with header := some h } ∧ s1 = { r3 with fabric := s1.fabric }
      ((q.kidx - q.ridx).toNat < len →
        ∃ t, exec (.packetGuardPoll n) s = .next t ∧ qcbAt t n = { q with header := some h, state := 2 } ∧
          t = { r with fabric := t.fabric }) ∧
      (len ≤ (q.kidx - q.ridx).toNat → ringWords r q (q.ridx.toNat + 1) (len - 1) = none →
        ∃ t, exec (.packetGuardPoll n) s = .next t ∧ queueStopped r3 t n) ∧
      ∀ ws, len ≤ (q.kidx - q.ridx).toNat → ringWords r q (q.ridx.toNat + 1) (len - 1) = some ws →
        (∀ fs, knownType type = true → parseFields (ws.length + 1) (ws.drop 1) = some fs →
          ∃ t, exec (.packetGuardPoll n) s = .next t ∧ packetRead r3 t (.queue n) type fs) ∧
        (knownType type = false → ends (if h.getLsbD 12 then 3 else 1)) ∧
        (knownType type = true → parseFields (ws.length + 1) (ws.drop 1) = none → ends 2))) ∧
  (∀ (w : Word) (s : State), s.fabric.loaded = true →
    let h := (tgetD s.fabric.pktBuf 0 0).toNat
    let ws := (List.range w.toNat).map (fun j => tgetD s.fabric.pktBuf j 0)
    let fits := 2 ≤ w.toNat ∧ w.toNat ≤ 4096 ∧ h / 65536 = w.toNat ∧ bits h 15 13 = 0
    let ends := fun st => exec (.pktgo w) s = .next { s with fabric := { s.fabric with direct := none, pktStatus := st } }
    (s.fabric.direct ≠ none → exec (.pktgo w) s = .next s) ∧
    (s.fabric.direct = none → ¬fits →
      exec (.pktgo w) s = .next { s with fabric := { s.fabric with pktStatus := 2 } }) ∧
    (s.fabric.direct = none → fits → knownType (bits h 11 0) = false → ends (if bitAt h 12 then 3 else 1)) ∧
    (s.fabric.direct = none → fits → knownType (bits h 11 0) = true → parseFields ws.length (ws.drop 2) = none → ends 2) ∧
    ∀ fs, s.fabric.direct = none → fits → knownType (bits h 11 0) = true → parseFields ws.length (ws.drop 2) = some fs →
      ∃ t, exec (.pktgo w) s = .next t ∧ packetRead s t .direct (bits h 11 0) fs) ∧
  (∀ (off n : Nat) (w : Word) (s : State), s.fabric.loaded = true → n < 4096 →
    (1 ≤ w.toNat → w.toNat ≤ 64 →
      exec (.registerWrite 0x10 w) s = .next { s with fabric := { s.fabric with hwqSlots := w.toNat } }) ∧
    (1 ≤ w.toNat → w.toNat ≤ 65535 →
      exec (.registerWrite 0x14 w) s = .next { s with fabric := { s.fabric with mapIdle := w.toNat } } ∧
      exec (.registerWrite 0x18 w) s = .next { s with fabric := { s.fabric with mapAge := w.toNat } }) ∧
    exec (.pwrcap w) s =
      .next { s with fabric := { s.fabric with pwrCap := min (w.toNat % 65536) s.fabric.pwrLimit } } ∧
    exec (.registerWrite 0x30 w) s = exec (.pwrcap w) s ∧
    exec (.registerWrite (0x10000 + 8 * n) w) s = exec (.kick n w) s ∧
    exec (.registerWrite 0x84000 w) s = exec (.pktgo w) s ∧
    (∃ t, exec (.registerWrite (0x80000 + 4 * n) w) s = .next t ∧ tgetD t.fabric.pktBuf n 0 = w ∧
      ∀ j, j ≠ n → tgetD t.fabric.pktBuf j 0 = tgetD s.fabric.pktBuf j 0) ∧
    ((qcbAt s n).en = false → w.getLsbD 31 = true →
      exec (.registerWrite (0x100000 + 64 * n + 8) w) s = exec (.queueEnable n w) s) ∧
    ((qcbAt s n).en = true → w.getLsbD 31 = false →
      exec (.registerWrite (0x100000 + 64 * n + 8) w) s = exec (.queueDisable n) s) ∧
    ((qcbAt s n).en = false →
      ∃ t, exec (.registerWrite (0x100000 + 64 * n + 12) w) s = .next t ∧ qcbAt t n = { qcbAt s n with ridx := w } ∧
        t = { s with fabric := t.fabric }) ∧
    (off ∈ [0x00, 0x08, 0x0C, 0x1C, 0x20, 0x34, 0x38, 0x3C] ∨ (0x30000 ≤ off ∧ off < 0x80000) →
      exec (.registerWrite off w) s = .next s)) ∧
  (∀ (mhz : Nat) (b : Bool) (s : State), exec (.throttleAdjust mhz b) s =
    .next { s with fabric := { s.fabric with mhz := mhz % 65536, throttled := b } }) ∧
  (∀ (n : Nat) (s : State) (e : HostEvent) (m : DWord) (ip : Nat),
    s.events.find? (fun x => x.num == BitVec.ofNat 32 n) = some e → ownerOf s = some (m, ip) →
    (e.sent = 0 ∨ e.last + 1000 ≤ s.wall) →
    (e.sent < 64 →
      ∃ t, exec (.eventResend n) s = .next t ∧ t = { s with outbox := s.outbox ++ [.event m ip e.num e.payload],
                                                            events := t.events } ∧
        t.events.find? (fun x => x.num == BitVec.ofNat 32 n) = some { e with sent := e.sent + 1, last := s.wall }) ∧
    (64 ≤ e.sent →
      exec (.eventResend n) s = .next { s with events := s.events.filter (fun x => x.num != BitVec.ofNat 32 n) })) ∧
  (∀ (src : PktSrc) (s : State) (l : Launch) (q : Nat) (r : List Word), heldBy s src = some (.seed l q r) →
    src ∈ runningSources s →
    let free := (queueAt s q).ctx = some l.ctx ∧ streamOpenTo s l.ctx l.stream = true ∧ identTaken s l.ctx 0 l.ident = false
    (levelDone s 1 l.graph = true → exec (.launchSeedPush src) s = .next (finishPacket src 4 s)) ∧
    (levelDone s 1 l.graph = false → levelCancelled s 3 l.graph = true →
      exec (.launchSeedPush src) s = .next (finishPacket src 8 s)) ∧
    (levelDone s 1 l.graph = false → levelCancelled s 3 l.graph = false → ¬free →
      exec (.launchSeedPush src) s = .next (finishPacket src 4 s)) ∧
    (levelDone s 1 l.graph = false → levelCancelled s 3 l.graph = false → free → (queueAt s q).spilled = 0 → (queueAt s q).chip.length < 32 →
      ∃ t0, exec (.launchSeedPush src) s = .next (finishPacket src 0 (settleQueues t0)) ∧ t0.mem = s.mem ∧
        (queueAt t0 q).chip = (queueAt s q).chip ++ [⟨r, s.uid, none⟩] ∧
        ∃ y, tget t0.launches s.uid = some y ∧ y = { l with counter := l.counter + 1, ordinal := y.ordinal, key := y.key } ∧
          y.ordinal = (tgetD s.levels l.graph default).made ∧ y.key = (tgetD s.contexts l.ctx default).seeds.headD 0)) ∧
  ∀ (src : PktSrc) (s : State) (ctx q : Nat), heldBy s src = some (.unbind ctx q) →
    ((queueAt s q).ctx ≠ some ctx → exec (.queueUnbindComplete src) s = .next (finishPacket src 4 s)) ∧
    ((queueAt s q).ctx = some ctx → (queueAt s q).chip = [] → (queueAt s q).spilled = 0 →
      ∃ t0, exec (.queueUnbindComplete src) s = .next (finishPacket src 0 t0) ∧ queueAt t0 q = TaskQueue.fresh ∧
        t0 = { s with queues := t0.queues }) ∧
    ((queueAt s q).ctx = some ctx → (queueAt s q).isEmpty = false → exec (.queueUnbindComplete src) s = .next s)

/-- 20 R370, R371, R385, R388 to R392. Every request: from master 0 it is dropped, the model's choice (log entry 68); a kept
reply is sent again; a stale number gets status 5; another master than the owner status 1, and a device whose fabric is not
loaded status 4, with no effect. A performed request is answered once; an owner whose lease has lapsed is none. REGRD answers
with the words of the register window; REGWR writes them, the first as a register write does; CLAIM, RENEW, HANDOVER and RELEASE
move the owner state as the table of R391 says; EVACK ends an event. What a CLAIM by the owner gives, and the status of a
handover that the table does not list, is the model's choice (log entry 29). -/
def Obligations.LenselRequests : Prop :=
  (∀ (i : Instr) (type : Nat) (r : Req) (a : Access) (s : State), requestForm i = some (type, r, a) →
    let m := masterOf s r
    (r.master = 0 → exec i s = .next s) ∧
    (∀ x, r.master ≠ 0 → m.replies.find? (fun y => y.seq == r.seq) = some x →
      exec i s = .next { s with outbox := s.outbox ++ [.reply r.master r.ip x] }) ∧
    (∀ h, r.master ≠ 0 → (∀ y ∈ m.replies, y.seq ≠ r.seq) → m.high = some h → 32 < (h - r.seq).toNat →
      (h - r.seq).toNat < 2 ^ 31 →
      exec i s = .next { s with outbox := s.outbox ++ [.reply r.master r.ip ⟨type + 128, r.seq, 5, []⟩] }) ∧
    (performed r .core s → a = .owner ∨ a = .recovery → s.fabric.loaded = true → ownerOf s ≠ some (r.master, r.ip) →
      repliedOnly i type r 1 [] s) ∧
    (performed r .core s → a = .owner ∨ a = .anyone → s.fabric.loaded = false → repliedOnly i type r 4 [] s)) ∧
  (∀ (r : Req) (off n : Nat) (s : State), performed r .core s →
    (s.fabric.loaded = true → off % 4 = 0 → 1 ≤ n → n ≤ 256 → off + 4 * n ≤ 0x1000000 →
      repliedOnly (.regrd r off n) 0x01 r 0
        ((List.range n).flatMap (fun j => bytesOf 4 (windowRead s (off + 4 * j)).toNat)) s) ∧
    (s.fabric.loaded = true → (off % 4 ≠ 0 ∨ n = 0 ∨ 256 < n ∨ 0x1000000 < off + 4 * n) →
      repliedOnly (.regrd r off n) 0x01 r 2 [] s) ∧
    (s.fabric.loaded = false → repliedOnly (.regrd r 0 1) 0x01 r 0 (bytesOf 4 Config.devid.toNat) s ∧
      repliedOnly (.regrd r 0x20 1) 0x01 r 0 (bytesOf 4 (fabstat s).toNat) s ∧
      (n ≠ 1 ∨ off ≠ 0 ∧ off ≠ 0x20 → repliedOnly (.regrd r off n) 0x01 r 4 [] s))) ∧
  (∀ (r : Req) (off : Nat) (w : Word) (ws : List Word) (s : State), performed r .owner s →
    (off % 4 = 0 → off + 4 * (ws.length + 1) ≤ 0x1000000 →
      ∃ s1 t, exec (.registerWrite off w) s = .next s1 ∧ exec (.regwr r off (w :: ws)) s = .next t ∧
        replied 0x02 r 0 [] (writeRegisters (off + 4) ws s1) t) ∧
    (off % 4 ≠ 0 ∨ 0x1000000 < off + 4 * (ws.length + 1) → repliedOnly (.regwr r off (w :: ws)) 0x02 r 2 [] s)) ∧
  (∀ (r : Req) (s : State), performed r .anyone s →
    let mine := Owner.owned r.master r.ip (s.wall + 2000000)
    (s.owner = .none →
      ∃ t, exec (.claim r) s = .next t ∧ replied 0x03 r 0 [] { s with owner := mine } t) ∧
    (∀ m ip lease, (s.owner = .owned m ip lease ∨ ∃ n, s.owner = .offered m ip lease n) → lease ≤ s.wall →
      ∃ t, exec (.claim r) s = .next t ∧ replied 0x03 r 0 [] { s with owner := mine } t) ∧
    (∀ m ip lease, s.owner = .owned m ip lease → s.wall < lease →
      ((m, ip) ≠ (r.master, r.ip) → repliedOnly (.claim r) 0x03 r 1 (bytesOf 8 m.toNat) s) ∧
      ((m, ip) = (r.master, r.ip) → repliedOnly (.claim r) 0x03 r 0 [] s)) ∧
    (∀ m ip lease n, s.owner = .offered m ip lease n → s.wall < lease →
      (n = r.master → ∃ t, exec (.claim r) s = .next t ∧ replied 0x03 r 0 [] { s with owner := mine } t) ∧
      (n ≠ r.master → repliedOnly (.claim r) 0x03 r 1 (bytesOf 8 m.toNat) s))) ∧
  (∀ (r : Req) (n : DWord) (s : State), performed r .owner s →
    (∀ lease, s.owner = .owned r.master r.ip lease →
      (∃ t, exec (.renew r) s = .next t ∧
        replied 0x04 r 0 [] { s with owner := .owned r.master r.ip (s.wall + 2000000) } t) ∧
      (n ≠ 0 → n ≠ r.master → ∃ t, exec (.handover r n) s = .next t ∧
        replied 0x05 r 0 [] { s with owner := .offered r.master r.ip lease n } t) ∧
      (n = 0 → repliedOnly (.handover r n) 0x05 r 2 [] s) ∧
      (n = r.master → repliedOnly (.handover r n) 0x05 r 4 [] s)) ∧
    (∀ lease x, s.owner = .offered r.master r.ip lease x →
      (∃ t, exec (.renew r) s = .next t ∧
        replied 0x04 r 0 [] { s with owner := .offered r.master r.ip (s.wall + 2000000) x } t) ∧
      (n = r.master → ∃ t, exec (.handover r n) s = .next t ∧
        replied 0x05 r 0 [] { s with owner := .owned r.master r.ip lease } t) ∧
      (n ≠ r.master → repliedOnly (.handover r n) 0x05 r (if n = 0 then 2 else 4) [] s)) ∧
    (∃ t, exec (.releaseOwner r) s = .next t ∧ replied 0x06 r 0 [] { s with owner := .none } t)) ∧
  ∀ (r : Req) (n : Nat) (s : State), performed r .owner s →
    ∃ t, exec (.evack r n) s = .next t ∧
      replied 0x41 r 0 [] { s with events := s.events.filter (fun e => e.num != BitVec.ofNat 32 n) } t

/-- 17 R353 to R355, 20 R390. HALT halts a context, what it has issued done, attaching on demand, and puts lanes with one
address that all run or all wait into one group; RUN ends the halt and detaches, and sleeps did not count its clocks; STEP asks
for one issue of the focus thread's group, STEPCREW for one of every group that does not wait at a join or BAR; DREAD waits for
what the crew's slots count, and answers with a halted crew's registers. Each is refused with status 4 for a context that does
not exist or is being killed, and STEP for a thread that is parked or has exited. The layout of DREAD's answer is the model's
choice (log entry 35), and so are status 4 for a thread that is parked or has exited and for a context being killed (log entry
29), and for a context that does not exist (log entry 68). -/
def Obligations.DebugRequests : Prop :=
  (∀ (i : Instr) (type : Nat) (r : Req) (ctx : Nat) (s : State), debugForm i = some (type, r, ctx) → performed r .owner s →
    (tget s.contexts ctx = none ∨ ∃ x, tget s.contexts ctx = some x ∧ x.status = .killing) → repliedOnly i type r 4 [] s) ∧
  (∀ (r : Req) (ctx : Nat) (attach : Bool) (s : State) (x : Context), performed r .owner s →
    tget s.contexts ctx = some x → x.status ≠ .killing →
    let s0 := settleCtx ctx s
    (∃ s1 t y, exec (.halt r ctx attach) s = .next t ∧ replied 0x10 r 0 [] s1 t ∧ tget s1.contexts ctx = some y ∧
      y.halted = true ∧ y.attached = (x.attached || attach) ∧ s1.mem = s0.mem ∧
      ∀ slot, (crewAt s slot).ctx = ctx → runsSystem (crewAt s slot) = false → trises (crewAt s0 slot).threads = true →
        ∀ k j u v, k < 32 → j < 32 → threadAt (crewAt s1 slot) k = some u → threadAt (crewAt s1 slot) j = some v →
          outOfRun u = false → outOfRun v = false → (u.group = v.group ↔ u.pc = v.pc ∧ isWaiting u = isWaiting v)) ∧
    ∃ s1 t y, exec (.runCtx r ctx) s = .next t ∧ replied 0x13 r 0 [] s1 t ∧ tget s1.contexts ctx = some y ∧
      y = { x with halted := false, haltDue := false, attached := false } ∧ s1.mem = s.mem ∧
      (∀ slot k u, threadAt (crewAt s slot) k = some u → (∀ a l, u.run ≠ .waiting (.sleep a l)) →
        (∀ a, u.run ≠ .waiting (.yields a)) → u.helper = none → threadAt (crewAt s1 slot) k = some u) ∧
      (∀ slot k u a l, (crewAt s slot).ctx = ctx → runsSystem (crewAt s slot) = false → x.halted = true →
        threadAt (crewAt s slot) k = some u → u.run = .waiting (.sleep a l) →
        ∃ v, threadAt (crewAt s1 slot) k = some v ∧ v.pc = u.pc ∧
          v.run = .waiting (.sleep (a + (s.clock - x.haltClock)) l)) ∧
      ∀ slot who, Turn.issue slot who ∈ s1.turns → (crewAt s slot).ctx ≠ ctx) ∧
  (∀ (r : Req) (ctx slot : Nat) (who : Tid) (s : State) (c : Crew), performed r .owner s → halted s ctx slot c →
    (∀ u, threadAt c (tkey who) = some u → outOfRun u = false →
      ∃ t, exec (.stepThread r ctx slot who) s = .next t ∧
        replied 0x11 r 0 [] { s with turns := s.turns ++ [.issue slot who] } t) ∧
    ((threadAt c (tkey who) = none ∨ ∃ u, threadAt c (tkey who) = some u ∧ outOfRun u = true) →
      repliedOnly (.stepThread r ctx slot who) 0x11 r 4 [] s) ∧
    ∃ t q, exec (.stepcrew r ctx slot) s = .next t ∧ replied 0x12 r 0 [] { s with turns := s.turns ++ q } t ∧
      (∀ x ∈ q, ∃ k, x = .issue slot (tidOf k) ∧ k ∈ groupLeads c) ∧
      ∀ k ∈ groupLeads c, ∀ u, threadAt c k = some u → atMeeting u = false → Turn.issue slot (tidOf k) ∈ q) ∧
  ∀ (r : Req) (ctx slot off len : Nat) (s : State) (c : Crew), performed r .owner s → halted s ctx slot c →
    (readWaits s ctx slot = true → exec (.dread r ctx slot off len) s =
      .next { s with turns := s.turns ++ [.read r ctx slot off len] }) ∧
    (readWaits s ctx slot = false →
      let s' := settleCrewOps slot s
      ∃ t, exec (.dread r ctx slot off len) s = .next t ∧
        (off + len ≤ 0x100000 → len ≤ 1232 → replied 0x14 r 0 (debugReply s' slot off len) s' t) ∧
        (0x100000 < off + len ∨ 1232 < len → replied 0x14 r 2 [] s' t) ∧ ((∀ o ∈ c.ops, o.done = true) → s' = s))

/-- 21 R395, R398 to R401, 20 R370. ATTQUERY with a nonce of 8 words answers with the report and the device's signature,
fabric loaded or not. RECBEGIN opens a session, refused with status 4 while another master's is open; RECDATA stages
bytes within the image's region; a session that has received no message for 10 s is closed; RECCOMMIT of an image that
verifies writes its region of the flash and no other, and else changes nothing of the flash; a reset during its write
leaves that region unverifiable and the rest of the flash as it was, with no reply; RECRESET starts the device afresh with
the flash as it stands; RECINFO answers with the failed step and the headers in the flash. The layout of RECINFO's answer
and what is remembered over RECRESET are the model's choices (log entry 36). -/
def Obligations.RecoveryRequests : Prop :=
  (∀ (r : Req) (nonce : List Word) (s : State), performed r .core s →
    (nonce.length = 8 → repliedOnly (.attquery r nonce) 0x20 r 0
      (bytesOfWords (reportWords s nonce) ++ deviceSign s.nonce (bytesOfWords (reportWords s nonce))) s) ∧
    (nonce.length ≠ 8 → repliedOnly (.attquery r nonce) 0x20 r 2 [] s)) ∧
  ∀ (r : Req) (s : State), performed r .recovery s →
    let mine := fun (x : Session) => x.master = r.master ∧ x.ip = r.ip
    let withSession := fun (x : Option Session) => { s with boot := { s.boot with session := x } }
    (∀ kind, kind = 1 ∨ kind = 2 → (∀ x, openSession s = some x → mine x) →
      ∃ t, exec (.recbegin r kind) s = .next t ∧
        replied 0x30 r 0 [] (withSession (some ⟨r.master, r.ip, kind, [], s.wall⟩)) t) ∧
    (∀ kind x, openSession s = some x → ¬mine x → repliedOnly (.recbegin r kind) 0x30 r 4 [] s) ∧
    (∀ kind, openSession s = none → kind ≠ 1 → kind ≠ 2 → repliedOnly (.recbegin r kind) 0x30 r 2 [] s) ∧
    (∀ off data, (openSession s = none ∨ ∃ x, openSession s = some x ∧ ¬mine x) →
      repliedOnly (.recdata r off data) 0x31 r 4 [] s ∧ repliedOnly (.reccommit r) 0x32 r 4 [] s) ∧
    (∀ x off data, openSession s = some x → mine x → data.length ≤ 1024 → off + data.length ≤ regionSize x.kind →
      ∃ t y, exec (.recdata r off data) s = .next t ∧ replied 0x31 r 0 [] (withSession (some y)) t ∧
        y = { x with staging := y.staging, last := s.wall } ∧
        (∀ j, j < data.length → tget y.staging (off + j) = data[j]?) ∧
        ∀ a, a < off ∨ off + data.length ≤ a → tget y.staging a = tget x.staging a) ∧
    (∀ x off data, openSession s = some x → mine x → 1024 < data.length ∨ regionSize x.kind < off + data.length →
      ∃ t, exec (.recdata r off data) s = .next t ∧ replied 0x31 r 2 [] (withSession (some { x with last := s.wall })) t) ∧
    (∀ x, openSession s = some x → mine x →
      (imageVerifies x.kind (stagedImage x) = true → resetNext s = true →
        ∃ t, exec (.reccommit r) s = .next t ∧ t.outbox = s.outbox ∧ x.kind ∈ t.torn ∧ t.boot.begun = false ∧
          ∀ a, a < regionBase x.kind ∨ regionBase x.kind + regionSize x.kind ≤ a → tget t.flash a = tget s.flash a) ∧
      (imageVerifies x.kind (stagedImage x) = true → resetNext s = false →
        ∃ s1 t, exec (.reccommit r) s = .next t ∧ replied 0x32 r 0 [] s1 t ∧ s1.boot.session = none ∧ s1.boot.starts = 0 ∧
          (∀ a, a < stagedLength x → flashAt s1 (regionBase x.kind + a) = stagedImage x a) ∧
          ∀ a, a < regionBase x.kind ∨ regionBase x.kind + regionSize x.kind ≤ a → flashAt s1 a = flashAt s a) ∧
      (imageVerifies x.kind (stagedImage x) = false →
        ∃ t, exec (.reccommit r) s = .next t ∧ replied 0x32 r 4 [] (withSession (some { x with last := s.wall })) t)) ∧
    (∃ s1 t, exec (.recreset r) s = .next t ∧ replied 0x33 r 0 [] s1 t ∧ s1.flash = s.flash ∧ s1.boot.begun = false ∧
      s1.boot.starts = s.boot.starts ∧ s1.crews = [] ∧ s1.contexts = [] ∧ s1.owner = .none ∧ s1.fabric = Fabric.reset) ∧
    ∃ s1 t, exec (.recinfo r) s = .next t ∧ replied 0x34 r 0
        (bytesOf 4 s.boot.failStep ++ imageBytes (flashImage s 1) 0 0x60 ++ imageBytes (flashImage s 2) 0 0x60) s1 t ∧
      s1 = withSession s1.boot.session ∧ s1.flash = s.flash

/-- 20 R371, R376 to R380, R393, 17 R347, R349, R352, 08 R172, R183, 10 R207, 19 R362 to R364. The end of a packet: PKTGO's
status, or RIDX past the packet, DONE counted, a status other than 0 noted with the packet's index, and its words all ones. A packet
that fails a check that packets share ends with its status. The packets about contexts, task queues, records, limits, peers, windows, receive rings, pages and
schedules have the effects that R379 gives, within the limits that it gives, and end with 0x0004 outside them. CTXNEW is refused
where a page of the fault queue fails R337. CTXRUN brings crews, banks and buffered tickets back. The order of a packet's checks
(log entry 16), RXRING and EVICT without FIRST (42), CTXNEW whatever the save pages (44), LIMITS keeping the watchdog's count
(46), CTXKILL, PREEMPT and MIGRATE holding their parser with STATE 5 (34), and poisoned tables being ones that cannot be read (76)
are the model's choices, and so are where a restored context is placed (33) and that buffered tickets come back whatever room there
is (77). -/
def Obligations.ContextPackets : Prop :=
  (∀ (i : Instr) (src : PktSrc) (f : List PktField) (priv : Bool) (k : Scope) (need : List Nat) (s : State),
    packetForm i = some (src, f, priv, k, need) →
    (heldBy s src ≠ some .parsing → exec i s = .next s) ∧
    (heldBy s src = some .parsing →
      (packetStatus s src f priv k need ≠ 0 → refusedWith i src (packetStatus s src f priv k need) s) ∧
      (∀ n, src = .queue n → priv = true → (qcbAt s n).priv = false → refusedWith i src 5 s) ∧
      (∀ n x, src = .queue n → priv = false → fieldStatus [] f = 0 → fieldWords f 1 = some [x] →
        x.toNat % 4096 ≠ (qcbAt s n).ctx → refusedWith i src 5 s) ∧
      (∀ id ∈ need, src = .direct → fieldStatus [] f = 0 → fieldWords f id = none → refusedWith i src 4 s))) ∧
  (∀ (st : Nat) (s : State),
    finishPacket .direct st s = { s with fabric := { s.fabric with direct := none, pktStatus := st } } ∧
    ∀ n h, (qcbAt s n).header = some h →
      let q := qcbAt s n
      let len := h.toNat / 65536
      let next := q.ridx + BitVec.ofNat 32 len
      let t := finishPacket (.queue n) st s
      qcbAt t n = { q with ridx := next, done := q.done + 1, header := none, held := none,
                           state := if q.err = true ∨ q.kidx = next then 0 else 1,
                           lastIdx := if st = 0 then q.lastIdx else q.ridx, lastStat := if st = 0 then q.lastStat else st } ∧
      (∀ m, m ≠ n → qcbAt t m = qcbAt s m) ∧ t.crews = s.crews ∧ (tget s.contexts q.ctx = none → t.mem = s.mem) ∧
      ((tget s.contexts q.ctx).isSome = true → t.mem = (clearedFrom q q.ridx.toNat len s).mem)) ∧
  (∀ (f : List PktField) (s : State) (ctx : Nat),
    (performs (.nopPacket .direct f) .direct f ctx s →
      exec (.nopPacket .direct f) s = .next { s with fabric := { s.fabric with direct := none, pktStatus := 0 } }) ∧
    ∀ n h, performs (.nopPacket (.queue n) f) (.queue n) f ctx s →
      let q := qcbAt s n
      let next := q.ridx + BitVec.ofNat 32 (h.toNat / 65536)
      q.header = some h →
      ∃ t, exec (.nopPacket (.queue n) f) s = .next t ∧ t.crews = s.crews ∧
        qcbAt t n = { q with ridx := next, done := q.done + 1, header := none, held := none,
                             state := if q.err = true ∨ q.kidx = next then 0 else 1 }) ∧
  (∀ (src : PktSrc) (f : List PktField) (s : State) (ctx : Nat),
    let i := Instr.ctxnew src f
    let y := newContext f
    let s' := discardCopies ctx (fun _ => true) { s with contexts := tset s.contexts ctx y }
    let fits := 1 ≤ fieldNum f 3 4 ∧ fieldNum f 3 4 ≤ 4 ∧ powerWithin (fieldNum f 4 2) 64 65536 = true ∧
      field64 f 4 0 % 32 = 0 ∧ field64 f 2 0 % 8192 = 0 ∧ backed s (field64 f 2 0) = true
    performs i src f ctx s →
    (tget s.contexts ctx = none → fits → pagesMeet s' ctx (field64 f 4 0) (32 * fieldNum f 4 2) (firmPage s') = true →
      ∃ t0, exec i s = .next (finishPacket src 0 t0) ∧ tget t0.contexts ctx = some y ∧ t0.mem = s.mem ∧
        y.status = .resident ∧ y.root = field64 f 2 0 % 2 ^ 46 ∧ y.hEntry = field64 f 3 0 ∧
        y.hFrame = BitVec.ofNat 64 (field64 f 3 2) ∧ y.toPlace = List.range (fieldNum f 3 4) ∧ y.save = field64 f 5 0 ∧
        y.fq.base = field64 f 4 0 ∧ y.fq.size = fieldNum f 4 2 ∧ y.fq.ring = [] ∧
        y.seeds = [BitVec.ofNat 64 (field64 f 7 0)] ∧ y.wdLimit = fieldNum f 6 0 ∧
        y.stallLimit = if fieldWords f 6 = none then 10000 else fieldNum f 6 1) ∧
    (tget s.contexts ctx = none → fits → pagesMeet s' ctx (field64 f 4 0) (32 * fieldNum f 4 2) (firmPage s') = false →
      refusedWith i src 4 s) ∧
    (tget s.contexts ctx ≠ none ∨ ¬fits → refusedWith i src 4 s)) ∧
  (∀ (src : PktSrc) (f : List PktField) (s : State) (ctx : Nat) (x : Context), tget s.contexts ctx = some x →
    (performs (.ctxkill src f) src f ctx s →
      ∃ t, holdsParser (.ctxkill src f) src (.kill ctx) s t ∧ t = { s with contexts := t.contexts, fabric := t.fabric } ∧
        tget t.contexts ctx = some { x with status := .killing }) ∧
    (performs (.preempt src f) src f ctx s →
      (x.status = .resident →
        ∃ t, holdsParser (.preempt src f) src (.preempt ctx) s t ∧
          t = { s with contexts := t.contexts, fabric := t.fabric, crews := t.crews } ∧
          tget t.contexts ctx = some { x with status := .preempting } ∧
          ∀ slot k u h, (crewAt s slot).ctx = ctx → threadAt (crewAt s slot) k = some u → u.helper = some h →
            h.suspended = false → ∃ v g, threadAt (crewAt t slot) k = some v ∧ v.helper = some g ∧ g.due ≠ none) ∧
      (x.status ≠ .resident → refusedWith (.preempt src f) src 4 s)) ∧
    (performs (.ctxrun src f) src f ctx s →
      (x.status = .saved → x.saved = none →
        changesCtx (.ctxrun src f) src ctx { x with status := .resident, toPlace := List.range x.hCount } s) ∧
      (∀ v, x.status = .saved → x.saved = some v → x.corrupt = true →
        ∃ t0 y, exec (.ctxrun src f) s = .next (finishPacket src 0 t0) ∧ tget t0.contexts ctx = some y ∧
          y.status = .killing) ∧
      (∀ v m r, x.status = .saved → savedWhole s x v → v.spills = [] → streamsOf s ctx = [] →
        let back := { x with status := .resident, toPlace := endedHandlers x }
        restorePlaces { s with contexts := tset s.contexts ctx back } ctx v = some (m, r) →
        ∃ t0, exec (.ctxrun src f) s = .next (finishPacket src 0 t0) ∧
          tget t0.contexts ctx = some { back with saved := none } ∧ broughtBack ctx v m s t0) ∧
      (∀ v n us bs, x.status = .saved → savedWhole s x v → v.crews = [] → v.clusters = [] → s.seams = [] → v.spills = [(n, us)] →
        (∀ e ∈ streamsOf s ctx, (streamAt s e.1).closes = [] ∧ 0 < (streamAt s e.1).c) →
        ctxPoisoned s ctx ((streamAt s n).spill + 0x840) (16 * us.length) = false →
        loadCtx s ctx ((streamAt s n).spill + 0x840) (16 * us.length) = some bs →
        ∃ t0 y, exec (.ctxrun src f) s = .next (finishPacket src 0 t0) ∧ tget t0.contexts ctx = some y ∧
          y.status = .resident ∧ y.saved = none ∧
          (streamAt t0 n).buffered = us.zipIdx.map (fun u =>
            let e := (bs.drop (16 * u.2)).take 16
            { u.1 with ticket := ofBytes (e.take 4), value := BitVec.ofNat 32 (ofBytes ((e.drop 4).take 4)),
                       pa := ofBytes ((e.drop 8).take 8) % 2 ^ 46 }) ++ (streamAt s n).buffered) ∧
      (x.status ≠ .saved → refusedWith (.ctxrun src f) src 4 s))) ∧
  (∀ (src : PktSrc) (f : List PktField) (s : State) (ctx : Nat),
    let q := fieldNum f 0xA 0
    let base := field64 f 0xB 0
    let size := fieldNum f 0xB 2
    let fits := q < 64 ∧ (queueAt s q).ctx = none ∧ base % 64 = 0 ∧ powerWithin size 64 65536 = true ∧
      pagesMeet s ctx base (64 * size) (firmPage s) = true
    (performs (.qbind src f) src f ctx s →
      (fits →
        ∃ t0, exec (.qbind src f) s = .next (finishPacket src 0 t0) ∧ t0 = { s with queues := t0.queues } ∧
          queueAt t0 q = { TaskQueue.fresh with ctx := some ctx, sump := base, size := size }) ∧
      (¬fits → refusedWith (.qbind src f) src 4 s)) ∧
    (performs (.qunbind src f) src f ctx s →
      (q < 64 → (queueAt s q).ctx = some ctx → (queueAt s q).isEmpty = true →
        ∃ t0, exec (.qunbind src f) s = .next (finishPacket src 0 t0) ∧ t0 = { s with queues := t0.queues } ∧
          queueAt t0 q = TaskQueue.fresh) ∧
      (q < 64 → (queueAt s q).ctx = some ctx → (queueAt s q).isEmpty = false →
        ∃ t, holdsParser (.qunbind src f) src (.unbind ctx q) s t ∧ t = { s with fabric := t.fabric }) ∧
      (64 ≤ q ∨ (queueAt s q).ctx ≠ some ctx → refusedWith (.qunbind src f) src 4 s))) ∧
  (∀ (src : PktSrc) (f : List PktField) (s : State) (ctx : Nat),
    let n := fieldNum f 0x12 0
    let act := fieldNum f 0x12 1 % 4
    performs (.recact src f) src f ctx s →
    (act ≠ 3 → n < 2 ^ 31 → withHost s ctx n = true → isParked s ctx n = true →
      ∃ t0, exec (.recact src f) s = .next (finishPacket src 0 t0) ∧ t0.mem = s.mem ∧
        ∀ x k u, (crewAt s x).ctx = ctx → threadAt (crewAt s x) k = some u → u.run = .parked n → actedOn act n x k u s t0) ∧
    (act = 3 ∨ withHost s ctx n = false ∨ isParked s ctx n = false → refusedWith (.recact src f) src 4 s)) ∧
  (∀ (src : PktSrc) (f : List PktField) (s : State) (ctx : Nat) (x : Context), tget s.contexts ctx = some x →
    let first := fieldNum f 0x11 2
    let count := fieldNum f 0x11 3
    (performs (.limits src f) src f ctx s →
      changesCtx (.limits src f) src ctx { x with wdLimit := fieldNum f 6 0, stallLimit := fieldNum f 6 1 } s) ∧
    (performs (.wdrestart src f) src f ctx s → changesCtx (.wdrestart src f) src ctx { x with wdCount := 0 } s) ∧
    (performs (.rxring src f) src f ctx s →
      (powerWithin count 16 4096 = true → changesCtx (.rxring src f) src ctx
        { x with rxBase := field64 f 0x11 0, rxSize := count, rxCount := 0 } s) ∧
      (powerWithin count 16 4096 = false → refusedWith (.rxring src f) src 4 s)) ∧
    (performs (.exportWin src f) src f ctx s →
      (∀ ws, first = 0 → count = 1 → readTable s ctx f 8 = some [ws] → recWord ws 0 % 65536 = 0 → recWord ws 2 % 65536 = 0 →
        changesFrom (.exportWin src f) src ctx { x with window := ws } s (tableRead ctx f 8 s)) ∧
      (first = 0 → count = 1 →
        (readTable s ctx f 8 = none ∨
          ∃ ws, readTable s ctx f 8 = some [ws] ∧ (recWord ws 0 % 65536 ≠ 0 ∨ recWord ws 2 % 65536 ≠ 0)) →
        exec (.exportWin src f) s = .next (finishPacket src 4 (tableRead ctx f 8 s))) ∧
      (first ≠ 0 ∨ count ≠ 1 → refusedWith (.exportWin src f) src 4 s)) ∧
    (performs (.evict src f) src f ctx s →
      (∀ es, count ≤ 1024 → readTable s ctx f 8 = some es →
        changesFrom (.evict src f) src ctx { x with evicts := es.map (fun ws => ⟨ws⟩) } s (tableRead ctx f 8 s)) ∧
      (count ≤ 1024 → readTable s ctx f 8 = none → exec (.evict src f) s = .next (finishPacket src 4 (tableRead ctx f 8 s))) ∧
      (1024 < count → refusedWith (.evict src f) src 4 s)) ∧
    (performs (.peers src f) src f ctx s →
      (∀ es, first + count ≤ 4096 → readTable s ctx f 8 = some es → makesUnused ctx first es = false →
        ∃ t0 y, exec (.peers src f) s = .next (finishPacket src 0 t0) ∧ tget t0.contexts ctx = some y ∧
          (∀ j ws, es[j]? = some ws → tget y.peers (first + j) = some ⟨ws, 0, 0⟩) ∧
          ∀ p, p < first ∨ first + es.length ≤ p → tget y.peers p = tget x.peers p) ∧
      (first + count ≤ 4096 →
        (readTable s ctx f 8 = none ∨ ∃ es, readTable s ctx f 8 = some es ∧ makesUnused ctx first es = true) →
        exec (.peers src f) s = .next (finishPacket src 4 (tableRead ctx f 8 s))) ∧
      (4096 < first + count → refusedWith (.peers src f) src 4 s))) ∧
  ∀ (src : PktSrc) (f : List PktField) (s : State) (ctx : Nat), performs (.migrate src f) src f ctx s →
    let from_ := field64 f 0x13 0
    let dest := field64 f 0x13 2
    let w := fieldNum f 0x13 4
    let leaves := (List.range (w / 65536)).map (fun j => field64 f 0x13 (5 + 2 * j))
    let fits := 1 ≤ w / 65536 ∧ w / 65536 ≤ 16 ∧ from_ ≠ dest ∧ dest % 65536 = 0 ∧ backed s dest = true ∧
      backed s (dest + 65535) = true ∧ ∀ a ∈ leaves, leafMaps s from_ a = true
    (fits → ∃ t, holdsParser (.migrate src f) src (.move s.uid) s t ∧
      tget t.migrations s.uid = some ⟨from_, dest, bitAt w 0, leaves⟩ ∧
      t = { s with uid := s.uid + 1, migrations := t.migrations, fabric := t.fabric }) ∧
    (¬fits → refusedWith (.migrate src f) src 4 s)

/-- 20 R378, R379, R381 to R384, 08 R166 to R168, R181, 10 R208, 12 R240, R241, 17 R347, 19 R361. SOPEN opens the lowest free stream
slot and stores its handle; SFREE frees a drained one. The packets that open a level make an instance, counted by its parent, refused when the identifier
names one that has not completed; PHASEOPEN waits for the phase before. Those that close it let it complete. LAUNCH pushes its
seed, or waits for room. CANCEL sets a flag; WAIT holds its parser; FENCE stores a value and raises an event. The seed stack
takes and loses keys within its 16 places. What a parser holds ends when it has come about: a WAIT with the completion of its
instance, a PHASEOPEN when its job has no running phase, and then the phase begins and applies the eviction schedule, a PREEMPT with
the save, a MIGRATE with the end of the migration; every running parser is looked at, the direct one first. That a held PHASEOPEN
ends with 0x0004 when its job is closed, or its identifier has come to repeat, is the model's choice (log entry 24). -/
def Obligations.WorkPackets : Prop :=
  (∀ (src : PktSrc) (f : List PktField) (s : State) (ctx : Nat),
    let n := fieldNum f 0x14
    let spill := field64 f 0x14 4
    let reply := field64 f 0x15 0
    performs (.sopen src f) src f ctx s →
    (streamLimits (n 0) (n 1) (n 2) spill = true → spillTrap s ctx spill = none → reply % 8 = 0 →
      (∀ k s1 s2, lowestFree s k →
        s1 = { s with streams := tset s.streams k { Stream.fresh with
          gen := (streamAt s k).gen, state := .opened, ctx := ctx, b := n 0, m := n 1, c := n 2, w := n 0, spill := spill } } →
        storeCtx ctx reply (bytesOf 8 ((streamAt s k).gen.toNat * 65536 + k)) s1 = some s2 →
        exec (.sopen src f) s = .next (finishPacket src 0 s2)) ∧
      (∀ s2, (∀ k, k < 256 → (streamAt s k).state ≠ .free) → storeCtx ctx reply (bytesOf 8 0xFFFFFFFF) s = some s2 →
        exec (.sopen src f) s = .next (finishPacket src 6 s2))) ∧
    (streamLimits (n 0) (n 1) (n 2) spill = false ∨ spillTrap s ctx spill ≠ none ∨ reply % 8 ≠ 0 →
      refusedWith (.sopen src f) src 4 s)) ∧
  (∀ (src : PktSrc) (f : List PktField) (s : State) (ctx n : Nat), performs (.sfree src f) src f ctx s →
    streamNamed s ctx (BitVec.ofNat 32 (fieldNum f 0xE 0)) = some n →
    ((streamAt s n).state = .drained →
      ∃ t0, exec (.sfree src f) s = .next (finishPacket src 0 t0) ∧ t0 = { s with streams := t0.streams } ∧
        streamAt t0 n = { Stream.fresh with gen := (streamAt s n).gen + 1 }) ∧
    ((streamAt s n).state ≠ .drained → refusedWith (.sfree src f) src 4 s)) ∧
  (∀ (src : PktSrc) (f : List PktField) (s : State) (ctx : Nat),
    let ident := levelIdent f
    let free := fun (code : Nat) => levelCode f = code ∧ identTaken s ctx code ident = false
    let made := fun (t0 : State) (kind : LevelKind) (p : Nat) => levelMade kind ctx ident p s t0
    (performs (.jobopen src f) src f ctx s →
      (free 3 → openJob s ctx = none →
        ∃ t0, exec (.jobopen src f) s = .next (finishPacket src 0 t0) ∧ made t0 .job 0 ∧ t0.mem = s.mem ∧
          ∀ x, tget s.contexts ctx = some x → tget t0.contexts ctx = some { x with wdCount := 0 }) ∧
      (¬free 3 ∨ openJob s ctx ≠ none → refusedWith (.jobopen src f) src 4 s)) ∧
    (performs (.phaseopen src f) src f ctx s →
      (∀ j, free 2 → openJob s ctx = some j → jobStands s j = true → phaseRunning s j = true →
        ∃ t, holdsParser (.phaseopen src f) src (.phase ctx ident j) s t ∧ t = { s with fabric := t.fabric }) ∧
      (∀ j, free 2 → openJob s ctx = some j → jobStands s j = true → phaseRunning s j = false →
        ∃ t0, exec (.phaseopen src f) s = .next (finishPacket src 0 t0) ∧ made t0 .phase j ∧
          scheduleDone ctx (tgetD s.levels j default).made s t0) ∧
      (¬free 2 ∨ openJob s ctx = none → refusedWith (.phaseopen src f) src 4 s)) ∧
    (performs (.graphopen src f) src f ctx s →
      (∀ p, free 1 → ctxPhase s ctx = some p →
        ∃ t0, exec (.graphopen src f) s = .next (finishPacket src 0 t0) ∧ made t0 .graph p ∧ t0.mem = s.mem) ∧
      (¬free 1 ∨ ctxPhase s ctx = none → refusedWith (.graphopen src f) src 4 s))) ∧
  (∀ (src : PktSrc) (f : List PktField) (s : State) (ctx code : Nat) (i : Instr),
    (i, code) ∈ [(Instr.jobclose src f, 3), (Instr.phaseclose src f, 2), (Instr.graphclose src f, 1)] →
    performs i src f ctx s →
    (∀ id l, levelCode f = code → levelNamed s ctx code (levelIdent f) = some id → tget s.levels id = some l →
      l.closed = false →
      (l.counter ≠ 0 → exec i s =
        .next (finishPacket src 0 (endWaits { s with levels := tset s.levels id { l with closed := true } }))) ∧
      (l.counter = 0 → l.done = false →
        ∃ t0 y, exec i s = .next (finishPacket src 0 (endWaits t0)) ∧ tget t0.levels id = some y ∧ y.done = true ∧
          y.closed = true ∧ ∀ x, l.parent ≠ id → tget s.levels l.parent = some x → x.closed = false →
            tget t0.levels l.parent = some { x with counter := x.counter - 1 })) ∧
    (levelCode f ≠ code ∨ levelNamed s ctx code (levelIdent f) = none → refusedWith i src 4 s)) ∧
  (∀ (src : PktSrc) (f : List PktField) (s : State) (ctx : Nat),
    let i := Instr.launch src f
    let q := fieldNum f 0xA 0
    let r := (fieldWords f 8).getD []
    let l := newLaunch s ctx f
    performs i src f ctx s →
    (launchStatus s ctx f ≠ 0 → refusedWith i src (launchStatus s ctx f) s) ∧
    (levelNamed s ctx 1 (fieldNum f 0xD 0) = none → refusedWith i src 4 s) ∧
    (∀ g x, levelNamed s ctx 1 (fieldNum f 0xD 0) = some g → tget s.levels g = some x →
      (x.closed = true ∨ x.done = true → refusedWith i src 4 s) ∧
      (x.closed = false → x.done = false → x.cancel = true → refusedWith i src 8 s) ∧
      (x.closed = false → x.done = false → levelCancelled s 3 g = false →
        let v := (fieldWords f 9).getD []
        let fits := viewsFit (v.getD 0 0) [v.getD 1 0, v.getD 2 0] ∧ q < 64 ∧ (queueAt s q).ctx = some ctx ∧ recordFits r ∧
          (∀ h, launchStream f = some h → ∃ n, streamNamed s ctx h = some n ∧ (streamAt s n).state = .opened ∧
            (streamAt s n).dispatch = false) ∧ levelCode f = 0
        (¬fits → refusedWith i src 4 s) ∧ (fits → identTaken s ctx 0 (levelIdent f) = false → launchStatus s ctx f = 0))) ∧
    (launchStatus s ctx f = 0 → (queueAt s q).spilled = 0 → (queueAt s q).chip.length < 32 →
      ∃ t0 y, exec i s = .next (finishPacket src 0 (settleQueues t0)) ∧ t0.mem = s.mem ∧
        (queueAt t0 q).chip = (queueAt s q).chip ++ [⟨r, s.uid, none⟩] ∧ tget t0.launches s.uid = some y ∧
        y = { l with counter := 1, ordinal := (tgetD s.levels l.graph default).made,
                     key := (tgetD s.contexts ctx default).seeds.headD 0 } ∧
        ∀ x, tget s.levels l.graph = some x →
          tget t0.levels l.graph = some { x with counter := x.counter + 1, made := x.made + 1 }) ∧
    (launchStatus s ctx f = 0 → (queueAt s q).size ≤ (queueAt s q).spilled → 0 < (queueAt s q).size →
      ∃ t, holdsParser i src (.seed l q r) s t ∧ t = { s with fabric := t.fabric })) ∧
  (∀ (src : PktSrc) (f : List PktField) (s : State) (ctx id : Nat), levelNamed s ctx (levelCode f) (levelIdent f) = some id →
    let code := levelCode f
    (performs (.cancel src f) src f ctx s →
      (levelDone s code id = false →
        ∃ t0, exec (.cancel src f) s = .next (finishPacket src 0 (settleQueues t0)) ∧ t0.mem = s.mem ∧
          (code = 0 → ∀ x, tget s.launches id = some x → tget t0.launches id = some { x with cancel := true }) ∧
          (code ≠ 0 → ∀ x, tget s.levels id = some x → tget t0.levels id = some { x with cancel := true })) ∧
      (levelDone s code id = true → refusedWith (.cancel src f) src 4 s)) ∧
    (performs (.waitPacket src f) src f ctx s →
      (levelDone s code id = false →
        ∃ t, holdsParser (.waitPacket src f) src (.level ctx code id) s t ∧ t = { s with fabric := t.fabric }) ∧
      (levelDone s code id = true →
        ∃ t0, exec (.waitPacket src f) s = .next (finishPacket src 0 t0) ∧ t0 = { s with fabric := t0.fabric })) ∧
    (performs (.fencePacket src f) src f ctx s →
      let va := field64 f 0x10 0
      let v := field64 f 0x10 2
      (levelDone s code id = false → exec (.fencePacket src f) s = .next (finishPacket src 0
        { s with fences := s.fences ++ [⟨ctx, code, id, levelIdent f, va, BitVec.ofNat 64 v⟩] })) ∧
      (∀ s', levelDone s code id = true → storeCtx ctx va (bytesOf 8 v) s = some s' →
        exec (.fencePacket src f) s =
          .next (finishPacket src 0 (raiseEvent (eventWords 1 [] ctx code (levelIdent f) 0) s'))))) ∧
  (∀ (src : PktSrc) (f : List PktField) (s : State) (ctx : Nat) (i : Instr),
    levelNamed s ctx (levelCode f) (levelIdent f) = none →
    i = .cancel src f ∨ i = .waitPacket src f ∨ i = .fencePacket src f → performs i src f ctx s → refusedWith i src 4 s) ∧
  (∀ (src : PktSrc) (f : List PktField) (s : State) (ctx : Nat) (x : Context), tget s.contexts ctx = some x →
    (performs (.seedpush src f) src f ctx s →
      (x.seeds.length < 16 →
        changesCtx (.seedpush src f) src ctx { x with seeds := BitVec.ofNat 64 (field64 f 7 0) :: x.seeds } s) ∧
      (16 ≤ x.seeds.length → refusedWith (.seedpush src f) src 6 s)) ∧
    (performs (.seedpop src f) src f ctx s →
      (2 ≤ x.seeds.length → changesCtx (.seedpop src f) src ctx { x with seeds := x.seeds.drop 1 } s) ∧
      (x.seeds.length < 2 → refusedWith (.seedpop src f) src 6 s)) ∧
    (performs (.seedfork src f) src f ctx s →
      let top := x.seeds.headD 0
      let out := philox 10 (BitVec.ofNat 32 (fieldNum f 0x16 0)) 0 0 0 (top.extractLsb' 0 32) (top.extractLsb' 32 32)
      (x.seeds.length < 16 →
        changesCtx (.seedfork src f) src ctx { x with seeds := (out.2.1 ++ out.1) :: x.seeds } s) ∧
      (16 ≤ x.seeds.length → refusedWith (.seedfork src f) src 6 s))) ∧
  ∀ (src : PktSrc) (s : State),
    let stays := endHeld src s = s
    let ends := fun st => endHeld src s = finishPacket src st s
    endWaits s = (PktSrc.direct :: s.fabric.slots.map (fun e => PktSrc.queue e.2.queue)).foldl (fun t x => endHeld x t) s ∧
    (heldBy s src = none ∨ heldBy s src = some .parsing → stays) ∧
    (∀ ctx code id, heldBy s src = some (.level ctx code id) →
      (levelDone s code id = true → ends 0) ∧ (levelDone s code id = false → stays)) ∧
    (∀ ctx, heldBy s src = some (.preempt ctx) → ∀ x, tget s.contexts ctx = some x →
      (x.status = .saved → ends 0) ∧ (x.status ≠ .saved → stays)) ∧
    (∀ m, heldBy s src = some (.move m) → (tget s.migrations m = none → ends 0) ∧ (tget s.migrations m ≠ none → stays)) ∧
    (∀ ctx, heldBy s src = some (.kill ctx) → stays) ∧ (∀ st, heldBy s src = some (.ended st) → ends st) ∧
    ∀ ctx ident j, heldBy s src = some (.phase ctx ident j) →
      let stands := ∃ l, tget s.levels j = some l ∧ l.closed = false ∧ l.done = false
      (¬stands → ends 4) ∧ (stands → phaseRunning s j = true → stays) ∧
      (stands → phaseRunning s j = false → identTaken s ctx 2 ident = true → ends 4) ∧
      (stands → phaseRunning s j = false → identTaken s ctx 2 ident = false →
        ∃ t0, endHeld src s = finishPacket src 0 t0 ∧ levelMade .phase ctx ident j s t0 ∧
          scheduleDone ctx (tgetD s.levels j default).made s t0)
end

