-- ==== Sys2Proof/Laws/State.lean ====
section
/-!
SUPPORT. What each update of the state leaves and changes: one lemma per field and update, so that no proof unfolds a
record update.
-/
namespace Sys2Proof.Machine

variable (s : State)


/-! ### modCrew -/

@[simp] theorem modCrew_turns (slot : Nat) (f : Crew → Crew) : (modCrew slot f s).turns = s.turns := rfl
@[simp] theorem modCrew_focus (slot : Nat) (f : Crew → Crew) : (modCrew slot f s).focus = s.focus := rfl
@[simp] theorem modCrew_lag (slot : Nat) (f : Crew → Crew) : (modCrew slot f s).lag = s.lag := rfl
@[simp] theorem modCrew_clock (slot : Nat) (f : Crew → Crew) : (modCrew slot f s).clock = s.clock := rfl
@[simp] theorem modCrew_wall (slot : Nat) (f : Crew → Crew) : (modCrew slot f s).wall = s.wall := rfl
@[simp] theorem modCrew_nonce (slot : Nat) (f : Crew → Crew) : (modCrew slot f s).nonce = s.nonce := rfl
@[simp] theorem modCrew_uid (slot : Nat) (f : Crew → Crew) : (modCrew slot f s).uid = s.uid := rfl
@[simp] theorem modCrew_mem (slot : Nat) (f : Crew → Crew) : (modCrew slot f s).mem = s.mem := rfl
@[simp] theorem modCrew_memPoison (slot : Nat) (f : Crew → Crew) : (modCrew slot f s).memPoison = s.memPoison := rfl
@[simp] theorem modCrew_badReads (slot : Nat) (f : Crew → Crew) : (modCrew slot f s).badReads = s.badReads := rfl
@[simp] theorem modCrew_voids (slot : Nat) (f : Crew → Crew) : (modCrew slot f s).voids = s.voids := rfl
@[simp] theorem modCrew_packs (slot : Nat) (f : Crew → Crew) : (modCrew slot f s).packs = s.packs := rfl
@[simp] theorem modCrew_shadow (slot : Nat) (f : Crew → Crew) : (modCrew slot f s).shadow = s.shadow := rfl
@[simp] theorem modCrew_tlb (slot : Nat) (f : Crew → Crew) : (modCrew slot f s).tlb = s.tlb := rfl
@[simp] theorem modCrew_units (slot : Nat) (f : Crew → Crew) : (modCrew slot f s).units = s.units := rfl
@[simp] theorem modCrew_clusters (slot : Nat) (f : Crew → Crew) : (modCrew slot f s).clusters = s.clusters := rfl
@[simp] theorem modCrew_crews (slot : Nat) (f : Crew → Crew) : (modCrew slot f s).crews = tmod s.crews slot f := rfl
@[simp] theorem modCrew_seams (slot : Nat) (f : Crew → Crew) : (modCrew slot f s).seams = s.seams := rfl
@[simp] theorem modCrew_launches (slot : Nat) (f : Crew → Crew) : (modCrew slot f s).launches = s.launches := rfl
@[simp] theorem modCrew_levels (slot : Nat) (f : Crew → Crew) : (modCrew slot f s).levels = s.levels := rfl
@[simp] theorem modCrew_contexts (slot : Nat) (f : Crew → Crew) : (modCrew slot f s).contexts = s.contexts := rfl
@[simp] theorem modCrew_queues (slot : Nat) (f : Crew → Crew) : (modCrew slot f s).queues = s.queues := rfl
@[simp] theorem modCrew_chosen (slot : Nat) (f : Crew → Crew) : (modCrew slot f s).chosen = s.chosen := rfl
@[simp] theorem modCrew_streams (slot : Nat) (f : Crew → Crew) : (modCrew slot f s).streams = s.streams := rfl
@[simp] theorem modCrew_updates (slot : Nat) (f : Crew → Crew) : (modCrew slot f s).updates = s.updates := rfl
@[simp] theorem modCrew_atoms (slot : Nat) (f : Crew → Crew) : (modCrew slot f s).atoms = s.atoms := rfl
@[simp] theorem modCrew_migrations (slot : Nat) (f : Crew → Crew) : (modCrew slot f s).migrations = s.migrations := rfl
@[simp] theorem modCrew_fences (slot : Nat) (f : Crew → Crew) : (modCrew slot f s).fences = s.fences := rfl
@[simp] theorem modCrew_fabric (slot : Nat) (f : Crew → Crew) : (modCrew slot f s).fabric = s.fabric := rfl
@[simp] theorem modCrew_owner (slot : Nat) (f : Crew → Crew) : (modCrew slot f s).owner = s.owner := rfl
@[simp] theorem modCrew_masters (slot : Nat) (f : Crew → Crew) : (modCrew slot f s).masters = s.masters := rfl
@[simp] theorem modCrew_events (slot : Nat) (f : Crew → Crew) : (modCrew slot f s).events = s.events := rfl
@[simp] theorem modCrew_eventCount (slot : Nat) (f : Crew → Crew) : (modCrew slot f s).eventCount = s.eventCount := rfl
@[simp] theorem modCrew_outbox (slot : Nat) (f : Crew → Crew) : (modCrew slot f s).outbox = s.outbox := rfl
@[simp] theorem modCrew_pushed (slot : Nat) (f : Crew → Crew) : (modCrew slot f s).pushed = s.pushed := rfl
@[simp] theorem modCrew_boot (slot : Nat) (f : Crew → Crew) : (modCrew slot f s).boot = s.boot := rfl
@[simp] theorem modCrew_flash (slot : Nat) (f : Crew → Crew) : (modCrew slot f s).flash = s.flash := rfl
@[simp] theorem modCrew_erased (slot : Nat) (f : Crew → Crew) : (modCrew slot f s).erased = s.erased := rfl
@[simp] theorem modCrew_torn (slot : Nat) (f : Crew → Crew) : (modCrew slot f s).torn = s.torn := rfl

/-! ### modThread -/

@[simp] theorem modThread_turns (slot k : Nat) (f : Thread → Thread) : (modThread slot k f s).turns = s.turns := rfl
@[simp] theorem modThread_focus (slot k : Nat) (f : Thread → Thread) : (modThread slot k f s).focus = s.focus := rfl
@[simp] theorem modThread_lag (slot k : Nat) (f : Thread → Thread) : (modThread slot k f s).lag = s.lag := rfl
@[simp] theorem modThread_clock (slot k : Nat) (f : Thread → Thread) : (modThread slot k f s).clock = s.clock := rfl
@[simp] theorem modThread_wall (slot k : Nat) (f : Thread → Thread) : (modThread slot k f s).wall = s.wall := rfl
@[simp] theorem modThread_nonce (slot k : Nat) (f : Thread → Thread) : (modThread slot k f s).nonce = s.nonce := rfl
@[simp] theorem modThread_uid (slot k : Nat) (f : Thread → Thread) : (modThread slot k f s).uid = s.uid := rfl
@[simp] theorem modThread_mem (slot k : Nat) (f : Thread → Thread) : (modThread slot k f s).mem = s.mem := rfl
@[simp] theorem modThread_memPoison (slot k : Nat) (f : Thread → Thread) : (modThread slot k f s).memPoison = s.memPoison := rfl
@[simp] theorem modThread_badReads (slot k : Nat) (f : Thread → Thread) : (modThread slot k f s).badReads = s.badReads := rfl
@[simp] theorem modThread_voids (slot k : Nat) (f : Thread → Thread) : (modThread slot k f s).voids = s.voids := rfl
@[simp] theorem modThread_packs (slot k : Nat) (f : Thread → Thread) : (modThread slot k f s).packs = s.packs := rfl
@[simp] theorem modThread_shadow (slot k : Nat) (f : Thread → Thread) : (modThread slot k f s).shadow = s.shadow := rfl
@[simp] theorem modThread_tlb (slot k : Nat) (f : Thread → Thread) : (modThread slot k f s).tlb = s.tlb := rfl
@[simp] theorem modThread_units (slot k : Nat) (f : Thread → Thread) : (modThread slot k f s).units = s.units := rfl
@[simp] theorem modThread_clusters (slot k : Nat) (f : Thread → Thread) : (modThread slot k f s).clusters = s.clusters := rfl
@[simp] theorem modThread_crews (slot k : Nat) (f : Thread → Thread) : (modThread slot k f s).crews = tmod s.crews slot (fun c => { c with threads := tmod c.threads k f }) := rfl
@[simp] theorem modThread_seams (slot k : Nat) (f : Thread → Thread) : (modThread slot k f s).seams = s.seams := rfl
@[simp] theorem modThread_launches (slot k : Nat) (f : Thread → Thread) : (modThread slot k f s).launches = s.launches := rfl
@[simp] theorem modThread_levels (slot k : Nat) (f : Thread → Thread) : (modThread slot k f s).levels = s.levels := rfl
@[simp] theorem modThread_contexts (slot k : Nat) (f : Thread → Thread) : (modThread slot k f s).contexts = s.contexts := rfl
@[simp] theorem modThread_queues (slot k : Nat) (f : Thread → Thread) : (modThread slot k f s).queues = s.queues := rfl
@[simp] theorem modThread_chosen (slot k : Nat) (f : Thread → Thread) : (modThread slot k f s).chosen = s.chosen := rfl
@[simp] theorem modThread_streams (slot k : Nat) (f : Thread → Thread) : (modThread slot k f s).streams = s.streams := rfl
@[simp] theorem modThread_updates (slot k : Nat) (f : Thread → Thread) : (modThread slot k f s).updates = s.updates := rfl
@[simp] theorem modThread_atoms (slot k : Nat) (f : Thread → Thread) : (modThread slot k f s).atoms = s.atoms := rfl
@[simp] theorem modThread_migrations (slot k : Nat) (f : Thread → Thread) : (modThread slot k f s).migrations = s.migrations := rfl
@[simp] theorem modThread_fences (slot k : Nat) (f : Thread → Thread) : (modThread slot k f s).fences = s.fences := rfl
@[simp] theorem modThread_fabric (slot k : Nat) (f : Thread → Thread) : (modThread slot k f s).fabric = s.fabric := rfl
@[simp] theorem modThread_owner (slot k : Nat) (f : Thread → Thread) : (modThread slot k f s).owner = s.owner := rfl
@[simp] theorem modThread_masters (slot k : Nat) (f : Thread → Thread) : (modThread slot k f s).masters = s.masters := rfl
@[simp] theorem modThread_events (slot k : Nat) (f : Thread → Thread) : (modThread slot k f s).events = s.events := rfl
@[simp] theorem modThread_eventCount (slot k : Nat) (f : Thread → Thread) : (modThread slot k f s).eventCount = s.eventCount := rfl
@[simp] theorem modThread_outbox (slot k : Nat) (f : Thread → Thread) : (modThread slot k f s).outbox = s.outbox := rfl
@[simp] theorem modThread_pushed (slot k : Nat) (f : Thread → Thread) : (modThread slot k f s).pushed = s.pushed := rfl
@[simp] theorem modThread_boot (slot k : Nat) (f : Thread → Thread) : (modThread slot k f s).boot = s.boot := rfl
@[simp] theorem modThread_flash (slot k : Nat) (f : Thread → Thread) : (modThread slot k f s).flash = s.flash := rfl
@[simp] theorem modThread_erased (slot k : Nat) (f : Thread → Thread) : (modThread slot k f s).erased = s.erased := rfl
@[simp] theorem modThread_torn (slot k : Nat) (f : Thread → Thread) : (modThread slot k f s).torn = s.torn := rfl

/-! ### modCtx -/

@[simp] theorem modCtx_turns (ctx : Nat) (f : Context → Context) : (modCtx ctx f s).turns = s.turns := rfl
@[simp] theorem modCtx_focus (ctx : Nat) (f : Context → Context) : (modCtx ctx f s).focus = s.focus := rfl
@[simp] theorem modCtx_lag (ctx : Nat) (f : Context → Context) : (modCtx ctx f s).lag = s.lag := rfl
@[simp] theorem modCtx_clock (ctx : Nat) (f : Context → Context) : (modCtx ctx f s).clock = s.clock := rfl
@[simp] theorem modCtx_wall (ctx : Nat) (f : Context → Context) : (modCtx ctx f s).wall = s.wall := rfl
@[simp] theorem modCtx_nonce (ctx : Nat) (f : Context → Context) : (modCtx ctx f s).nonce = s.nonce := rfl
@[simp] theorem modCtx_uid (ctx : Nat) (f : Context → Context) : (modCtx ctx f s).uid = s.uid := rfl
@[simp] theorem modCtx_mem (ctx : Nat) (f : Context → Context) : (modCtx ctx f s).mem = s.mem := rfl
@[simp] theorem modCtx_memPoison (ctx : Nat) (f : Context → Context) : (modCtx ctx f s).memPoison = s.memPoison := rfl
@[simp] theorem modCtx_badReads (ctx : Nat) (f : Context → Context) : (modCtx ctx f s).badReads = s.badReads := rfl
@[simp] theorem modCtx_voids (ctx : Nat) (f : Context → Context) : (modCtx ctx f s).voids = s.voids := rfl
@[simp] theorem modCtx_packs (ctx : Nat) (f : Context → Context) : (modCtx ctx f s).packs = s.packs := rfl
@[simp] theorem modCtx_shadow (ctx : Nat) (f : Context → Context) : (modCtx ctx f s).shadow = s.shadow := rfl
@[simp] theorem modCtx_tlb (ctx : Nat) (f : Context → Context) : (modCtx ctx f s).tlb = s.tlb := rfl
@[simp] theorem modCtx_units (ctx : Nat) (f : Context → Context) : (modCtx ctx f s).units = s.units := rfl
@[simp] theorem modCtx_clusters (ctx : Nat) (f : Context → Context) : (modCtx ctx f s).clusters = s.clusters := rfl
@[simp] theorem modCtx_crews (ctx : Nat) (f : Context → Context) : (modCtx ctx f s).crews = s.crews := rfl
@[simp] theorem modCtx_seams (ctx : Nat) (f : Context → Context) : (modCtx ctx f s).seams = s.seams := rfl
@[simp] theorem modCtx_launches (ctx : Nat) (f : Context → Context) : (modCtx ctx f s).launches = s.launches := rfl
@[simp] theorem modCtx_levels (ctx : Nat) (f : Context → Context) : (modCtx ctx f s).levels = s.levels := rfl
@[simp] theorem modCtx_contexts (ctx : Nat) (f : Context → Context) : (modCtx ctx f s).contexts = tmod s.contexts ctx f := rfl
@[simp] theorem modCtx_queues (ctx : Nat) (f : Context → Context) : (modCtx ctx f s).queues = s.queues := rfl
@[simp] theorem modCtx_chosen (ctx : Nat) (f : Context → Context) : (modCtx ctx f s).chosen = s.chosen := rfl
@[simp] theorem modCtx_streams (ctx : Nat) (f : Context → Context) : (modCtx ctx f s).streams = s.streams := rfl
@[simp] theorem modCtx_updates (ctx : Nat) (f : Context → Context) : (modCtx ctx f s).updates = s.updates := rfl
@[simp] theorem modCtx_atoms (ctx : Nat) (f : Context → Context) : (modCtx ctx f s).atoms = s.atoms := rfl
@[simp] theorem modCtx_migrations (ctx : Nat) (f : Context → Context) : (modCtx ctx f s).migrations = s.migrations := rfl
@[simp] theorem modCtx_fences (ctx : Nat) (f : Context → Context) : (modCtx ctx f s).fences = s.fences := rfl
@[simp] theorem modCtx_fabric (ctx : Nat) (f : Context → Context) : (modCtx ctx f s).fabric = s.fabric := rfl
@[simp] theorem modCtx_owner (ctx : Nat) (f : Context → Context) : (modCtx ctx f s).owner = s.owner := rfl
@[simp] theorem modCtx_masters (ctx : Nat) (f : Context → Context) : (modCtx ctx f s).masters = s.masters := rfl
@[simp] theorem modCtx_events (ctx : Nat) (f : Context → Context) : (modCtx ctx f s).events = s.events := rfl
@[simp] theorem modCtx_eventCount (ctx : Nat) (f : Context → Context) : (modCtx ctx f s).eventCount = s.eventCount := rfl
@[simp] theorem modCtx_outbox (ctx : Nat) (f : Context → Context) : (modCtx ctx f s).outbox = s.outbox := rfl
@[simp] theorem modCtx_pushed (ctx : Nat) (f : Context → Context) : (modCtx ctx f s).pushed = s.pushed := rfl
@[simp] theorem modCtx_boot (ctx : Nat) (f : Context → Context) : (modCtx ctx f s).boot = s.boot := rfl
@[simp] theorem modCtx_flash (ctx : Nat) (f : Context → Context) : (modCtx ctx f s).flash = s.flash := rfl
@[simp] theorem modCtx_erased (ctx : Nat) (f : Context → Context) : (modCtx ctx f s).erased = s.erased := rfl
@[simp] theorem modCtx_torn (ctx : Nat) (f : Context → Context) : (modCtx ctx f s).torn = s.torn := rfl

/-! ### modCluster -/

@[simp] theorem modCluster_turns (cl : Nat) (f : Cluster → Cluster) : (modCluster cl f s).turns = s.turns := rfl
@[simp] theorem modCluster_focus (cl : Nat) (f : Cluster → Cluster) : (modCluster cl f s).focus = s.focus := rfl
@[simp] theorem modCluster_lag (cl : Nat) (f : Cluster → Cluster) : (modCluster cl f s).lag = s.lag := rfl
@[simp] theorem modCluster_clock (cl : Nat) (f : Cluster → Cluster) : (modCluster cl f s).clock = s.clock := rfl
@[simp] theorem modCluster_wall (cl : Nat) (f : Cluster → Cluster) : (modCluster cl f s).wall = s.wall := rfl
@[simp] theorem modCluster_nonce (cl : Nat) (f : Cluster → Cluster) : (modCluster cl f s).nonce = s.nonce := rfl
@[simp] theorem modCluster_uid (cl : Nat) (f : Cluster → Cluster) : (modCluster cl f s).uid = s.uid := rfl
@[simp] theorem modCluster_mem (cl : Nat) (f : Cluster → Cluster) : (modCluster cl f s).mem = s.mem := rfl
@[simp] theorem modCluster_memPoison (cl : Nat) (f : Cluster → Cluster) : (modCluster cl f s).memPoison = s.memPoison := rfl
@[simp] theorem modCluster_badReads (cl : Nat) (f : Cluster → Cluster) : (modCluster cl f s).badReads = s.badReads := rfl
@[simp] theorem modCluster_voids (cl : Nat) (f : Cluster → Cluster) : (modCluster cl f s).voids = s.voids := rfl
@[simp] theorem modCluster_packs (cl : Nat) (f : Cluster → Cluster) : (modCluster cl f s).packs = s.packs := rfl
@[simp] theorem modCluster_shadow (cl : Nat) (f : Cluster → Cluster) : (modCluster cl f s).shadow = s.shadow := rfl
@[simp] theorem modCluster_tlb (cl : Nat) (f : Cluster → Cluster) : (modCluster cl f s).tlb = s.tlb := rfl
@[simp] theorem modCluster_units (cl : Nat) (f : Cluster → Cluster) : (modCluster cl f s).units = s.units := rfl
@[simp] theorem modCluster_clusters (cl : Nat) (f : Cluster → Cluster) : (modCluster cl f s).clusters = tput s.clusters cl (f (clusterAt s cl)) (freshCluster s cl) := rfl
@[simp] theorem modCluster_crews (cl : Nat) (f : Cluster → Cluster) : (modCluster cl f s).crews = s.crews := rfl
@[simp] theorem modCluster_seams (cl : Nat) (f : Cluster → Cluster) : (modCluster cl f s).seams = s.seams := rfl
@[simp] theorem modCluster_launches (cl : Nat) (f : Cluster → Cluster) : (modCluster cl f s).launches = s.launches := rfl
@[simp] theorem modCluster_levels (cl : Nat) (f : Cluster → Cluster) : (modCluster cl f s).levels = s.levels := rfl
@[simp] theorem modCluster_contexts (cl : Nat) (f : Cluster → Cluster) : (modCluster cl f s).contexts = s.contexts := rfl
@[simp] theorem modCluster_queues (cl : Nat) (f : Cluster → Cluster) : (modCluster cl f s).queues = s.queues := rfl
@[simp] theorem modCluster_chosen (cl : Nat) (f : Cluster → Cluster) : (modCluster cl f s).chosen = s.chosen := rfl
@[simp] theorem modCluster_streams (cl : Nat) (f : Cluster → Cluster) : (modCluster cl f s).streams = s.streams := rfl
@[simp] theorem modCluster_updates (cl : Nat) (f : Cluster → Cluster) : (modCluster cl f s).updates = s.updates := rfl
@[simp] theorem modCluster_atoms (cl : Nat) (f : Cluster → Cluster) : (modCluster cl f s).atoms = s.atoms := rfl
@[simp] theorem modCluster_migrations (cl : Nat) (f : Cluster → Cluster) : (modCluster cl f s).migrations = s.migrations := rfl
@[simp] theorem modCluster_fences (cl : Nat) (f : Cluster → Cluster) : (modCluster cl f s).fences = s.fences := rfl
@[simp] theorem modCluster_fabric (cl : Nat) (f : Cluster → Cluster) : (modCluster cl f s).fabric = s.fabric := rfl
@[simp] theorem modCluster_owner (cl : Nat) (f : Cluster → Cluster) : (modCluster cl f s).owner = s.owner := rfl
@[simp] theorem modCluster_masters (cl : Nat) (f : Cluster → Cluster) : (modCluster cl f s).masters = s.masters := rfl
@[simp] theorem modCluster_events (cl : Nat) (f : Cluster → Cluster) : (modCluster cl f s).events = s.events := rfl
@[simp] theorem modCluster_eventCount (cl : Nat) (f : Cluster → Cluster) : (modCluster cl f s).eventCount = s.eventCount := rfl
@[simp] theorem modCluster_outbox (cl : Nat) (f : Cluster → Cluster) : (modCluster cl f s).outbox = s.outbox := rfl
@[simp] theorem modCluster_pushed (cl : Nat) (f : Cluster → Cluster) : (modCluster cl f s).pushed = s.pushed := rfl
@[simp] theorem modCluster_boot (cl : Nat) (f : Cluster → Cluster) : (modCluster cl f s).boot = s.boot := rfl
@[simp] theorem modCluster_flash (cl : Nat) (f : Cluster → Cluster) : (modCluster cl f s).flash = s.flash := rfl
@[simp] theorem modCluster_erased (cl : Nat) (f : Cluster → Cluster) : (modCluster cl f s).erased = s.erased := rfl
@[simp] theorem modCluster_torn (cl : Nat) (f : Cluster → Cluster) : (modCluster cl f s).torn = s.torn := rfl

/-! ### modGroup -/

@[simp] theorem modGroup_turns (g : Group) (f : Thread → Thread) : (modGroup g f s).turns = s.turns := rfl
@[simp] theorem modGroup_focus (g : Group) (f : Thread → Thread) : (modGroup g f s).focus = s.focus := rfl
@[simp] theorem modGroup_lag (g : Group) (f : Thread → Thread) : (modGroup g f s).lag = s.lag := rfl
@[simp] theorem modGroup_clock (g : Group) (f : Thread → Thread) : (modGroup g f s).clock = s.clock := rfl
@[simp] theorem modGroup_wall (g : Group) (f : Thread → Thread) : (modGroup g f s).wall = s.wall := rfl
@[simp] theorem modGroup_nonce (g : Group) (f : Thread → Thread) : (modGroup g f s).nonce = s.nonce := rfl
@[simp] theorem modGroup_uid (g : Group) (f : Thread → Thread) : (modGroup g f s).uid = s.uid := rfl
@[simp] theorem modGroup_mem (g : Group) (f : Thread → Thread) : (modGroup g f s).mem = s.mem := rfl
@[simp] theorem modGroup_memPoison (g : Group) (f : Thread → Thread) : (modGroup g f s).memPoison = s.memPoison := rfl
@[simp] theorem modGroup_badReads (g : Group) (f : Thread → Thread) : (modGroup g f s).badReads = s.badReads := rfl
@[simp] theorem modGroup_voids (g : Group) (f : Thread → Thread) : (modGroup g f s).voids = s.voids := rfl
@[simp] theorem modGroup_packs (g : Group) (f : Thread → Thread) : (modGroup g f s).packs = s.packs := rfl
@[simp] theorem modGroup_shadow (g : Group) (f : Thread → Thread) : (modGroup g f s).shadow = s.shadow := rfl
@[simp] theorem modGroup_tlb (g : Group) (f : Thread → Thread) : (modGroup g f s).tlb = s.tlb := rfl
@[simp] theorem modGroup_units (g : Group) (f : Thread → Thread) : (modGroup g f s).units = s.units := rfl
@[simp] theorem modGroup_clusters (g : Group) (f : Thread → Thread) : (modGroup g f s).clusters = s.clusters := rfl
@[simp] theorem modGroup_seams (g : Group) (f : Thread → Thread) : (modGroup g f s).seams = s.seams := rfl
@[simp] theorem modGroup_launches (g : Group) (f : Thread → Thread) : (modGroup g f s).launches = s.launches := rfl
@[simp] theorem modGroup_levels (g : Group) (f : Thread → Thread) : (modGroup g f s).levels = s.levels := rfl
@[simp] theorem modGroup_contexts (g : Group) (f : Thread → Thread) : (modGroup g f s).contexts = s.contexts := rfl
@[simp] theorem modGroup_queues (g : Group) (f : Thread → Thread) : (modGroup g f s).queues = s.queues := rfl
@[simp] theorem modGroup_chosen (g : Group) (f : Thread → Thread) : (modGroup g f s).chosen = s.chosen := rfl
@[simp] theorem modGroup_streams (g : Group) (f : Thread → Thread) : (modGroup g f s).streams = s.streams := rfl
@[simp] theorem modGroup_updates (g : Group) (f : Thread → Thread) : (modGroup g f s).updates = s.updates := rfl
@[simp] theorem modGroup_atoms (g : Group) (f : Thread → Thread) : (modGroup g f s).atoms = s.atoms := rfl
@[simp] theorem modGroup_migrations (g : Group) (f : Thread → Thread) : (modGroup g f s).migrations = s.migrations := rfl
@[simp] theorem modGroup_fences (g : Group) (f : Thread → Thread) : (modGroup g f s).fences = s.fences := rfl
@[simp] theorem modGroup_fabric (g : Group) (f : Thread → Thread) : (modGroup g f s).fabric = s.fabric := rfl
@[simp] theorem modGroup_owner (g : Group) (f : Thread → Thread) : (modGroup g f s).owner = s.owner := rfl
@[simp] theorem modGroup_masters (g : Group) (f : Thread → Thread) : (modGroup g f s).masters = s.masters := rfl
@[simp] theorem modGroup_events (g : Group) (f : Thread → Thread) : (modGroup g f s).events = s.events := rfl
@[simp] theorem modGroup_eventCount (g : Group) (f : Thread → Thread) : (modGroup g f s).eventCount = s.eventCount := rfl
@[simp] theorem modGroup_outbox (g : Group) (f : Thread → Thread) : (modGroup g f s).outbox = s.outbox := rfl
@[simp] theorem modGroup_pushed (g : Group) (f : Thread → Thread) : (modGroup g f s).pushed = s.pushed := rfl
@[simp] theorem modGroup_boot (g : Group) (f : Thread → Thread) : (modGroup g f s).boot = s.boot := rfl
@[simp] theorem modGroup_flash (g : Group) (f : Thread → Thread) : (modGroup g f s).flash = s.flash := rfl
@[simp] theorem modGroup_erased (g : Group) (f : Thread → Thread) : (modGroup g f s).erased = s.erased := rfl
@[simp] theorem modGroup_torn (g : Group) (f : Thread → Thread) : (modGroup g f s).torn = s.torn := rfl

/-! ### advance -/

@[simp] theorem advance_turns (i : Instr) (g : Group) : (advance i g s).turns = s.turns := rfl
@[simp] theorem advance_focus (i : Instr) (g : Group) : (advance i g s).focus = s.focus := rfl
@[simp] theorem advance_lag (i : Instr) (g : Group) : (advance i g s).lag = s.lag := rfl
@[simp] theorem advance_clock (i : Instr) (g : Group) : (advance i g s).clock = s.clock := rfl
@[simp] theorem advance_wall (i : Instr) (g : Group) : (advance i g s).wall = s.wall := rfl
@[simp] theorem advance_nonce (i : Instr) (g : Group) : (advance i g s).nonce = s.nonce := rfl
@[simp] theorem advance_uid (i : Instr) (g : Group) : (advance i g s).uid = s.uid := rfl
@[simp] theorem advance_mem (i : Instr) (g : Group) : (advance i g s).mem = s.mem := rfl
@[simp] theorem advance_memPoison (i : Instr) (g : Group) : (advance i g s).memPoison = s.memPoison := rfl
@[simp] theorem advance_badReads (i : Instr) (g : Group) : (advance i g s).badReads = s.badReads := rfl
@[simp] theorem advance_voids (i : Instr) (g : Group) : (advance i g s).voids = s.voids := rfl
@[simp] theorem advance_packs (i : Instr) (g : Group) : (advance i g s).packs = s.packs := rfl
@[simp] theorem advance_shadow (i : Instr) (g : Group) : (advance i g s).shadow = s.shadow := rfl
@[simp] theorem advance_tlb (i : Instr) (g : Group) : (advance i g s).tlb = s.tlb := rfl
@[simp] theorem advance_units (i : Instr) (g : Group) : (advance i g s).units = s.units := rfl
@[simp] theorem advance_clusters (i : Instr) (g : Group) : (advance i g s).clusters = s.clusters := rfl
@[simp] theorem advance_seams (i : Instr) (g : Group) : (advance i g s).seams = s.seams := rfl
@[simp] theorem advance_launches (i : Instr) (g : Group) : (advance i g s).launches = s.launches := rfl
@[simp] theorem advance_levels (i : Instr) (g : Group) : (advance i g s).levels = s.levels := rfl
@[simp] theorem advance_contexts (i : Instr) (g : Group) : (advance i g s).contexts = s.contexts := rfl
@[simp] theorem advance_queues (i : Instr) (g : Group) : (advance i g s).queues = s.queues := rfl
@[simp] theorem advance_chosen (i : Instr) (g : Group) : (advance i g s).chosen = s.chosen := rfl
@[simp] theorem advance_streams (i : Instr) (g : Group) : (advance i g s).streams = s.streams := rfl
@[simp] theorem advance_updates (i : Instr) (g : Group) : (advance i g s).updates = s.updates := rfl
@[simp] theorem advance_atoms (i : Instr) (g : Group) : (advance i g s).atoms = s.atoms := rfl
@[simp] theorem advance_migrations (i : Instr) (g : Group) : (advance i g s).migrations = s.migrations := rfl
@[simp] theorem advance_fences (i : Instr) (g : Group) : (advance i g s).fences = s.fences := rfl
@[simp] theorem advance_fabric (i : Instr) (g : Group) : (advance i g s).fabric = s.fabric := rfl
@[simp] theorem advance_owner (i : Instr) (g : Group) : (advance i g s).owner = s.owner := rfl
@[simp] theorem advance_masters (i : Instr) (g : Group) : (advance i g s).masters = s.masters := rfl
@[simp] theorem advance_events (i : Instr) (g : Group) : (advance i g s).events = s.events := rfl
@[simp] theorem advance_eventCount (i : Instr) (g : Group) : (advance i g s).eventCount = s.eventCount := rfl
@[simp] theorem advance_outbox (i : Instr) (g : Group) : (advance i g s).outbox = s.outbox := rfl
@[simp] theorem advance_pushed (i : Instr) (g : Group) : (advance i g s).pushed = s.pushed := rfl
@[simp] theorem advance_boot (i : Instr) (g : Group) : (advance i g s).boot = s.boot := rfl
@[simp] theorem advance_flash (i : Instr) (g : Group) : (advance i g s).flash = s.flash := rfl
@[simp] theorem advance_erased (i : Instr) (g : Group) : (advance i g s).erased = s.erased := rfl
@[simp] theorem advance_torn (i : Instr) (g : Group) : (advance i g s).torn = s.torn := rfl

/-! ### wait -/

@[simp] theorem wait_turns (w : Wait) (g : Group) : (wait w g s).turns = s.turns := rfl
@[simp] theorem wait_focus (w : Wait) (g : Group) : (wait w g s).focus = s.focus := rfl
@[simp] theorem wait_lag (w : Wait) (g : Group) : (wait w g s).lag = s.lag := rfl
@[simp] theorem wait_clock (w : Wait) (g : Group) : (wait w g s).clock = s.clock := rfl
@[simp] theorem wait_wall (w : Wait) (g : Group) : (wait w g s).wall = s.wall := rfl
@[simp] theorem wait_nonce (w : Wait) (g : Group) : (wait w g s).nonce = s.nonce := rfl
@[simp] theorem wait_uid (w : Wait) (g : Group) : (wait w g s).uid = s.uid := rfl
@[simp] theorem wait_mem (w : Wait) (g : Group) : (wait w g s).mem = s.mem := rfl
@[simp] theorem wait_memPoison (w : Wait) (g : Group) : (wait w g s).memPoison = s.memPoison := rfl
@[simp] theorem wait_badReads (w : Wait) (g : Group) : (wait w g s).badReads = s.badReads := rfl
@[simp] theorem wait_voids (w : Wait) (g : Group) : (wait w g s).voids = s.voids := rfl
@[simp] theorem wait_packs (w : Wait) (g : Group) : (wait w g s).packs = s.packs := rfl
@[simp] theorem wait_shadow (w : Wait) (g : Group) : (wait w g s).shadow = s.shadow := rfl
@[simp] theorem wait_tlb (w : Wait) (g : Group) : (wait w g s).tlb = s.tlb := rfl
@[simp] theorem wait_units (w : Wait) (g : Group) : (wait w g s).units = s.units := rfl
@[simp] theorem wait_clusters (w : Wait) (g : Group) : (wait w g s).clusters = s.clusters := rfl
@[simp] theorem wait_seams (w : Wait) (g : Group) : (wait w g s).seams = s.seams := rfl
@[simp] theorem wait_launches (w : Wait) (g : Group) : (wait w g s).launches = s.launches := rfl
@[simp] theorem wait_levels (w : Wait) (g : Group) : (wait w g s).levels = s.levels := rfl
@[simp] theorem wait_contexts (w : Wait) (g : Group) : (wait w g s).contexts = s.contexts := rfl
@[simp] theorem wait_queues (w : Wait) (g : Group) : (wait w g s).queues = s.queues := rfl
@[simp] theorem wait_chosen (w : Wait) (g : Group) : (wait w g s).chosen = s.chosen := rfl
@[simp] theorem wait_streams (w : Wait) (g : Group) : (wait w g s).streams = s.streams := rfl
@[simp] theorem wait_updates (w : Wait) (g : Group) : (wait w g s).updates = s.updates := rfl
@[simp] theorem wait_atoms (w : Wait) (g : Group) : (wait w g s).atoms = s.atoms := rfl
@[simp] theorem wait_migrations (w : Wait) (g : Group) : (wait w g s).migrations = s.migrations := rfl
@[simp] theorem wait_fences (w : Wait) (g : Group) : (wait w g s).fences = s.fences := rfl
@[simp] theorem wait_fabric (w : Wait) (g : Group) : (wait w g s).fabric = s.fabric := rfl
@[simp] theorem wait_owner (w : Wait) (g : Group) : (wait w g s).owner = s.owner := rfl
@[simp] theorem wait_masters (w : Wait) (g : Group) : (wait w g s).masters = s.masters := rfl
@[simp] theorem wait_events (w : Wait) (g : Group) : (wait w g s).events = s.events := rfl
@[simp] theorem wait_eventCount (w : Wait) (g : Group) : (wait w g s).eventCount = s.eventCount := rfl
@[simp] theorem wait_outbox (w : Wait) (g : Group) : (wait w g s).outbox = s.outbox := rfl
@[simp] theorem wait_pushed (w : Wait) (g : Group) : (wait w g s).pushed = s.pushed := rfl
@[simp] theorem wait_boot (w : Wait) (g : Group) : (wait w g s).boot = s.boot := rfl
@[simp] theorem wait_flash (w : Wait) (g : Group) : (wait w g s).flash = s.flash := rfl
@[simp] theorem wait_erased (w : Wait) (g : Group) : (wait w g s).erased = s.erased := rfl
@[simp] theorem wait_torn (w : Wait) (g : Group) : (wait w g s).torn = s.torn := rfl

/-! ### regroup -/

@[simp] theorem regroup_turns (slot : Nat) (keys : List Nat) : (regroup slot keys s).turns = s.turns := rfl
@[simp] theorem regroup_focus (slot : Nat) (keys : List Nat) : (regroup slot keys s).focus = s.focus := rfl
@[simp] theorem regroup_lag (slot : Nat) (keys : List Nat) : (regroup slot keys s).lag = s.lag := rfl
@[simp] theorem regroup_clock (slot : Nat) (keys : List Nat) : (regroup slot keys s).clock = s.clock := rfl
@[simp] theorem regroup_wall (slot : Nat) (keys : List Nat) : (regroup slot keys s).wall = s.wall := rfl
@[simp] theorem regroup_nonce (slot : Nat) (keys : List Nat) : (regroup slot keys s).nonce = s.nonce := rfl
@[simp] theorem regroup_uid (slot : Nat) (keys : List Nat) : (regroup slot keys s).uid = s.uid := rfl
@[simp] theorem regroup_mem (slot : Nat) (keys : List Nat) : (regroup slot keys s).mem = s.mem := rfl
@[simp] theorem regroup_memPoison (slot : Nat) (keys : List Nat) : (regroup slot keys s).memPoison = s.memPoison := rfl
@[simp] theorem regroup_badReads (slot : Nat) (keys : List Nat) : (regroup slot keys s).badReads = s.badReads := rfl
@[simp] theorem regroup_voids (slot : Nat) (keys : List Nat) : (regroup slot keys s).voids = s.voids := rfl
@[simp] theorem regroup_packs (slot : Nat) (keys : List Nat) : (regroup slot keys s).packs = s.packs := rfl
@[simp] theorem regroup_shadow (slot : Nat) (keys : List Nat) : (regroup slot keys s).shadow = s.shadow := rfl
@[simp] theorem regroup_tlb (slot : Nat) (keys : List Nat) : (regroup slot keys s).tlb = s.tlb := rfl
@[simp] theorem regroup_units (slot : Nat) (keys : List Nat) : (regroup slot keys s).units = s.units := rfl
@[simp] theorem regroup_clusters (slot : Nat) (keys : List Nat) : (regroup slot keys s).clusters = s.clusters := rfl
@[simp] theorem regroup_seams (slot : Nat) (keys : List Nat) : (regroup slot keys s).seams = s.seams := rfl
@[simp] theorem regroup_launches (slot : Nat) (keys : List Nat) : (regroup slot keys s).launches = s.launches := rfl
@[simp] theorem regroup_levels (slot : Nat) (keys : List Nat) : (regroup slot keys s).levels = s.levels := rfl
@[simp] theorem regroup_contexts (slot : Nat) (keys : List Nat) : (regroup slot keys s).contexts = s.contexts := rfl
@[simp] theorem regroup_queues (slot : Nat) (keys : List Nat) : (regroup slot keys s).queues = s.queues := rfl
@[simp] theorem regroup_chosen (slot : Nat) (keys : List Nat) : (regroup slot keys s).chosen = s.chosen := rfl
@[simp] theorem regroup_streams (slot : Nat) (keys : List Nat) : (regroup slot keys s).streams = s.streams := rfl
@[simp] theorem regroup_updates (slot : Nat) (keys : List Nat) : (regroup slot keys s).updates = s.updates := rfl
@[simp] theorem regroup_atoms (slot : Nat) (keys : List Nat) : (regroup slot keys s).atoms = s.atoms := rfl
@[simp] theorem regroup_migrations (slot : Nat) (keys : List Nat) : (regroup slot keys s).migrations = s.migrations := rfl
@[simp] theorem regroup_fences (slot : Nat) (keys : List Nat) : (regroup slot keys s).fences = s.fences := rfl
@[simp] theorem regroup_fabric (slot : Nat) (keys : List Nat) : (regroup slot keys s).fabric = s.fabric := rfl
@[simp] theorem regroup_owner (slot : Nat) (keys : List Nat) : (regroup slot keys s).owner = s.owner := rfl
@[simp] theorem regroup_masters (slot : Nat) (keys : List Nat) : (regroup slot keys s).masters = s.masters := rfl
@[simp] theorem regroup_events (slot : Nat) (keys : List Nat) : (regroup slot keys s).events = s.events := rfl
@[simp] theorem regroup_eventCount (slot : Nat) (keys : List Nat) : (regroup slot keys s).eventCount = s.eventCount := rfl
@[simp] theorem regroup_outbox (slot : Nat) (keys : List Nat) : (regroup slot keys s).outbox = s.outbox := rfl
@[simp] theorem regroup_pushed (slot : Nat) (keys : List Nat) : (regroup slot keys s).pushed = s.pushed := rfl
@[simp] theorem regroup_boot (slot : Nat) (keys : List Nat) : (regroup slot keys s).boot = s.boot := rfl
@[simp] theorem regroup_flash (slot : Nat) (keys : List Nat) : (regroup slot keys s).flash = s.flash := rfl
@[simp] theorem regroup_erased (slot : Nat) (keys : List Nat) : (regroup slot keys s).erased = s.erased := rfl
@[simp] theorem regroup_torn (slot : Nat) (keys : List Nat) : (regroup slot keys s).torn = s.torn := rfl

/-! ### writeRegLat -/

@[simp] theorem writeRegLat_turns (slot k sel lat : Nat) (v : Word) : (writeRegLat slot k sel lat v s).turns = s.turns := by
  unfold writeRegLat; split <;> rfl
@[simp] theorem writeRegLat_focus (slot k sel lat : Nat) (v : Word) : (writeRegLat slot k sel lat v s).focus = s.focus := by
  unfold writeRegLat; split <;> rfl
@[simp] theorem writeRegLat_lag (slot k sel lat : Nat) (v : Word) : (writeRegLat slot k sel lat v s).lag = s.lag := by
  unfold writeRegLat; split <;> rfl
@[simp] theorem writeRegLat_clock (slot k sel lat : Nat) (v : Word) : (writeRegLat slot k sel lat v s).clock = s.clock := by
  unfold writeRegLat; split <;> rfl
@[simp] theorem writeRegLat_wall (slot k sel lat : Nat) (v : Word) : (writeRegLat slot k sel lat v s).wall = s.wall := by
  unfold writeRegLat; split <;> rfl
@[simp] theorem writeRegLat_nonce (slot k sel lat : Nat) (v : Word) : (writeRegLat slot k sel lat v s).nonce = s.nonce := by
  unfold writeRegLat; split <;> rfl
@[simp] theorem writeRegLat_uid (slot k sel lat : Nat) (v : Word) : (writeRegLat slot k sel lat v s).uid = s.uid := by
  unfold writeRegLat; split <;> rfl
@[simp] theorem writeRegLat_mem (slot k sel lat : Nat) (v : Word) : (writeRegLat slot k sel lat v s).mem = s.mem := by
  unfold writeRegLat; split <;> rfl
@[simp] theorem writeRegLat_memPoison (slot k sel lat : Nat) (v : Word) : (writeRegLat slot k sel lat v s).memPoison = s.memPoison := by
  unfold writeRegLat; split <;> rfl
@[simp] theorem writeRegLat_badReads (slot k sel lat : Nat) (v : Word) : (writeRegLat slot k sel lat v s).badReads = s.badReads := by
  unfold writeRegLat; split <;> rfl
@[simp] theorem writeRegLat_voids (slot k sel lat : Nat) (v : Word) : (writeRegLat slot k sel lat v s).voids = s.voids := by
  unfold writeRegLat; split <;> rfl
@[simp] theorem writeRegLat_packs (slot k sel lat : Nat) (v : Word) : (writeRegLat slot k sel lat v s).packs = s.packs := by
  unfold writeRegLat; split <;> rfl
@[simp] theorem writeRegLat_shadow (slot k sel lat : Nat) (v : Word) : (writeRegLat slot k sel lat v s).shadow = s.shadow := by
  unfold writeRegLat; split <;> rfl
@[simp] theorem writeRegLat_tlb (slot k sel lat : Nat) (v : Word) : (writeRegLat slot k sel lat v s).tlb = s.tlb := by
  unfold writeRegLat; split <;> rfl
@[simp] theorem writeRegLat_units (slot k sel lat : Nat) (v : Word) : (writeRegLat slot k sel lat v s).units = s.units := by
  unfold writeRegLat; split <;> rfl
@[simp] theorem writeRegLat_clusters (slot k sel lat : Nat) (v : Word) : (writeRegLat slot k sel lat v s).clusters = s.clusters := by
  unfold writeRegLat; split <;> rfl
@[simp] theorem writeRegLat_seams (slot k sel lat : Nat) (v : Word) : (writeRegLat slot k sel lat v s).seams = s.seams := by
  unfold writeRegLat; split <;> rfl
@[simp] theorem writeRegLat_launches (slot k sel lat : Nat) (v : Word) : (writeRegLat slot k sel lat v s).launches = s.launches := by
  unfold writeRegLat; split <;> rfl
@[simp] theorem writeRegLat_levels (slot k sel lat : Nat) (v : Word) : (writeRegLat slot k sel lat v s).levels = s.levels := by
  unfold writeRegLat; split <;> rfl
@[simp] theorem writeRegLat_contexts (slot k sel lat : Nat) (v : Word) : (writeRegLat slot k sel lat v s).contexts = s.contexts := by
  unfold writeRegLat; split <;> rfl
@[simp] theorem writeRegLat_queues (slot k sel lat : Nat) (v : Word) : (writeRegLat slot k sel lat v s).queues = s.queues := by
  unfold writeRegLat; split <;> rfl
@[simp] theorem writeRegLat_chosen (slot k sel lat : Nat) (v : Word) : (writeRegLat slot k sel lat v s).chosen = s.chosen := by
  unfold writeRegLat; split <;> rfl
@[simp] theorem writeRegLat_streams (slot k sel lat : Nat) (v : Word) : (writeRegLat slot k sel lat v s).streams = s.streams := by
  unfold writeRegLat; split <;> rfl
@[simp] theorem writeRegLat_updates (slot k sel lat : Nat) (v : Word) : (writeRegLat slot k sel lat v s).updates = s.updates := by
  unfold writeRegLat; split <;> rfl
@[simp] theorem writeRegLat_atoms (slot k sel lat : Nat) (v : Word) : (writeRegLat slot k sel lat v s).atoms = s.atoms := by
  unfold writeRegLat; split <;> rfl
@[simp] theorem writeRegLat_migrations (slot k sel lat : Nat) (v : Word) : (writeRegLat slot k sel lat v s).migrations = s.migrations := by
  unfold writeRegLat; split <;> rfl
@[simp] theorem writeRegLat_fences (slot k sel lat : Nat) (v : Word) : (writeRegLat slot k sel lat v s).fences = s.fences := by
  unfold writeRegLat; split <;> rfl
@[simp] theorem writeRegLat_fabric (slot k sel lat : Nat) (v : Word) : (writeRegLat slot k sel lat v s).fabric = s.fabric := by
  unfold writeRegLat; split <;> rfl
@[simp] theorem writeRegLat_owner (slot k sel lat : Nat) (v : Word) : (writeRegLat slot k sel lat v s).owner = s.owner := by
  unfold writeRegLat; split <;> rfl
@[simp] theorem writeRegLat_masters (slot k sel lat : Nat) (v : Word) : (writeRegLat slot k sel lat v s).masters = s.masters := by
  unfold writeRegLat; split <;> rfl
@[simp] theorem writeRegLat_events (slot k sel lat : Nat) (v : Word) : (writeRegLat slot k sel lat v s).events = s.events := by
  unfold writeRegLat; split <;> rfl
@[simp] theorem writeRegLat_eventCount (slot k sel lat : Nat) (v : Word) : (writeRegLat slot k sel lat v s).eventCount = s.eventCount := by
  unfold writeRegLat; split <;> rfl
@[simp] theorem writeRegLat_outbox (slot k sel lat : Nat) (v : Word) : (writeRegLat slot k sel lat v s).outbox = s.outbox := by
  unfold writeRegLat; split <;> rfl
@[simp] theorem writeRegLat_pushed (slot k sel lat : Nat) (v : Word) : (writeRegLat slot k sel lat v s).pushed = s.pushed := by
  unfold writeRegLat; split <;> rfl
@[simp] theorem writeRegLat_boot (slot k sel lat : Nat) (v : Word) : (writeRegLat slot k sel lat v s).boot = s.boot := by
  unfold writeRegLat; split <;> rfl
@[simp] theorem writeRegLat_flash (slot k sel lat : Nat) (v : Word) : (writeRegLat slot k sel lat v s).flash = s.flash := by
  unfold writeRegLat; split <;> rfl
@[simp] theorem writeRegLat_erased (slot k sel lat : Nat) (v : Word) : (writeRegLat slot k sel lat v s).erased = s.erased := by
  unfold writeRegLat; split <;> rfl
@[simp] theorem writeRegLat_torn (slot k sel lat : Nat) (v : Word) : (writeRegLat slot k sel lat v s).torn = s.torn := by
  unfold writeRegLat; split <;> rfl

/-! ### writePredLat -/

@[simp] theorem writePredLat_turns (slot k p lat : Nat) (v : Bool) : (writePredLat slot k p lat v s).turns = s.turns := by
  unfold writePredLat; split <;> rfl
@[simp] theorem writePredLat_focus (slot k p lat : Nat) (v : Bool) : (writePredLat slot k p lat v s).focus = s.focus := by
  unfold writePredLat; split <;> rfl
@[simp] theorem writePredLat_lag (slot k p lat : Nat) (v : Bool) : (writePredLat slot k p lat v s).lag = s.lag := by
  unfold writePredLat; split <;> rfl
@[simp] theorem writePredLat_clock (slot k p lat : Nat) (v : Bool) : (writePredLat slot k p lat v s).clock = s.clock := by
  unfold writePredLat; split <;> rfl
@[simp] theorem writePredLat_wall (slot k p lat : Nat) (v : Bool) : (writePredLat slot k p lat v s).wall = s.wall := by
  unfold writePredLat; split <;> rfl
@[simp] theorem writePredLat_nonce (slot k p lat : Nat) (v : Bool) : (writePredLat slot k p lat v s).nonce = s.nonce := by
  unfold writePredLat; split <;> rfl
@[simp] theorem writePredLat_uid (slot k p lat : Nat) (v : Bool) : (writePredLat slot k p lat v s).uid = s.uid := by
  unfold writePredLat; split <;> rfl
@[simp] theorem writePredLat_mem (slot k p lat : Nat) (v : Bool) : (writePredLat slot k p lat v s).mem = s.mem := by
  unfold writePredLat; split <;> rfl
@[simp] theorem writePredLat_memPoison (slot k p lat : Nat) (v : Bool) : (writePredLat slot k p lat v s).memPoison = s.memPoison := by
  unfold writePredLat; split <;> rfl
@[simp] theorem writePredLat_badReads (slot k p lat : Nat) (v : Bool) : (writePredLat slot k p lat v s).badReads = s.badReads := by
  unfold writePredLat; split <;> rfl
@[simp] theorem writePredLat_voids (slot k p lat : Nat) (v : Bool) : (writePredLat slot k p lat v s).voids = s.voids := by
  unfold writePredLat; split <;> rfl
@[simp] theorem writePredLat_packs (slot k p lat : Nat) (v : Bool) : (writePredLat slot k p lat v s).packs = s.packs := by
  unfold writePredLat; split <;> rfl
@[simp] theorem writePredLat_shadow (slot k p lat : Nat) (v : Bool) : (writePredLat slot k p lat v s).shadow = s.shadow := by
  unfold writePredLat; split <;> rfl
@[simp] theorem writePredLat_tlb (slot k p lat : Nat) (v : Bool) : (writePredLat slot k p lat v s).tlb = s.tlb := by
  unfold writePredLat; split <;> rfl
@[simp] theorem writePredLat_units (slot k p lat : Nat) (v : Bool) : (writePredLat slot k p lat v s).units = s.units := by
  unfold writePredLat; split <;> rfl
@[simp] theorem writePredLat_clusters (slot k p lat : Nat) (v : Bool) : (writePredLat slot k p lat v s).clusters = s.clusters := by
  unfold writePredLat; split <;> rfl
@[simp] theorem writePredLat_seams (slot k p lat : Nat) (v : Bool) : (writePredLat slot k p lat v s).seams = s.seams := by
  unfold writePredLat; split <;> rfl
@[simp] theorem writePredLat_launches (slot k p lat : Nat) (v : Bool) : (writePredLat slot k p lat v s).launches = s.launches := by
  unfold writePredLat; split <;> rfl
@[simp] theorem writePredLat_levels (slot k p lat : Nat) (v : Bool) : (writePredLat slot k p lat v s).levels = s.levels := by
  unfold writePredLat; split <;> rfl
@[simp] theorem writePredLat_contexts (slot k p lat : Nat) (v : Bool) : (writePredLat slot k p lat v s).contexts = s.contexts := by
  unfold writePredLat; split <;> rfl
@[simp] theorem writePredLat_queues (slot k p lat : Nat) (v : Bool) : (writePredLat slot k p lat v s).queues = s.queues := by
  unfold writePredLat; split <;> rfl
@[simp] theorem writePredLat_chosen (slot k p lat : Nat) (v : Bool) : (writePredLat slot k p lat v s).chosen = s.chosen := by
  unfold writePredLat; split <;> rfl
@[simp] theorem writePredLat_streams (slot k p lat : Nat) (v : Bool) : (writePredLat slot k p lat v s).streams = s.streams := by
  unfold writePredLat; split <;> rfl
@[simp] theorem writePredLat_updates (slot k p lat : Nat) (v : Bool) : (writePredLat slot k p lat v s).updates = s.updates := by
  unfold writePredLat; split <;> rfl
@[simp] theorem writePredLat_atoms (slot k p lat : Nat) (v : Bool) : (writePredLat slot k p lat v s).atoms = s.atoms := by
  unfold writePredLat; split <;> rfl
@[simp] theorem writePredLat_migrations (slot k p lat : Nat) (v : Bool) : (writePredLat slot k p lat v s).migrations = s.migrations := by
  unfold writePredLat; split <;> rfl
@[simp] theorem writePredLat_fences (slot k p lat : Nat) (v : Bool) : (writePredLat slot k p lat v s).fences = s.fences := by
  unfold writePredLat; split <;> rfl
@[simp] theorem writePredLat_fabric (slot k p lat : Nat) (v : Bool) : (writePredLat slot k p lat v s).fabric = s.fabric := by
  unfold writePredLat; split <;> rfl
@[simp] theorem writePredLat_owner (slot k p lat : Nat) (v : Bool) : (writePredLat slot k p lat v s).owner = s.owner := by
  unfold writePredLat; split <;> rfl
@[simp] theorem writePredLat_masters (slot k p lat : Nat) (v : Bool) : (writePredLat slot k p lat v s).masters = s.masters := by
  unfold writePredLat; split <;> rfl
@[simp] theorem writePredLat_events (slot k p lat : Nat) (v : Bool) : (writePredLat slot k p lat v s).events = s.events := by
  unfold writePredLat; split <;> rfl
@[simp] theorem writePredLat_eventCount (slot k p lat : Nat) (v : Bool) : (writePredLat slot k p lat v s).eventCount = s.eventCount := by
  unfold writePredLat; split <;> rfl
@[simp] theorem writePredLat_outbox (slot k p lat : Nat) (v : Bool) : (writePredLat slot k p lat v s).outbox = s.outbox := by
  unfold writePredLat; split <;> rfl
@[simp] theorem writePredLat_pushed (slot k p lat : Nat) (v : Bool) : (writePredLat slot k p lat v s).pushed = s.pushed := by
  unfold writePredLat; split <;> rfl
@[simp] theorem writePredLat_boot (slot k p lat : Nat) (v : Bool) : (writePredLat slot k p lat v s).boot = s.boot := by
  unfold writePredLat; split <;> rfl
@[simp] theorem writePredLat_flash (slot k p lat : Nat) (v : Bool) : (writePredLat slot k p lat v s).flash = s.flash := by
  unfold writePredLat; split <;> rfl
@[simp] theorem writePredLat_erased (slot k p lat : Nat) (v : Bool) : (writePredLat slot k p lat v s).erased = s.erased := by
  unfold writePredLat; split <;> rfl
@[simp] theorem writePredLat_torn (slot k p lat : Nat) (v : Bool) : (writePredLat slot k p lat v s).torn = s.torn := by
  unfold writePredLat; split <;> rfl

/-! ### raiseFlags -/

@[simp] theorem raiseFlags_turns (slot : Nat) (f : FpFlags) : (raiseFlags slot f s).turns = s.turns := rfl
@[simp] theorem raiseFlags_focus (slot : Nat) (f : FpFlags) : (raiseFlags slot f s).focus = s.focus := rfl
@[simp] theorem raiseFlags_lag (slot : Nat) (f : FpFlags) : (raiseFlags slot f s).lag = s.lag := rfl
@[simp] theorem raiseFlags_clock (slot : Nat) (f : FpFlags) : (raiseFlags slot f s).clock = s.clock := rfl
@[simp] theorem raiseFlags_wall (slot : Nat) (f : FpFlags) : (raiseFlags slot f s).wall = s.wall := rfl
@[simp] theorem raiseFlags_nonce (slot : Nat) (f : FpFlags) : (raiseFlags slot f s).nonce = s.nonce := rfl
@[simp] theorem raiseFlags_uid (slot : Nat) (f : FpFlags) : (raiseFlags slot f s).uid = s.uid := rfl
@[simp] theorem raiseFlags_mem (slot : Nat) (f : FpFlags) : (raiseFlags slot f s).mem = s.mem := rfl
@[simp] theorem raiseFlags_memPoison (slot : Nat) (f : FpFlags) : (raiseFlags slot f s).memPoison = s.memPoison := rfl
@[simp] theorem raiseFlags_badReads (slot : Nat) (f : FpFlags) : (raiseFlags slot f s).badReads = s.badReads := rfl
@[simp] theorem raiseFlags_voids (slot : Nat) (f : FpFlags) : (raiseFlags slot f s).voids = s.voids := rfl
@[simp] theorem raiseFlags_packs (slot : Nat) (f : FpFlags) : (raiseFlags slot f s).packs = s.packs := rfl
@[simp] theorem raiseFlags_shadow (slot : Nat) (f : FpFlags) : (raiseFlags slot f s).shadow = s.shadow := rfl
@[simp] theorem raiseFlags_tlb (slot : Nat) (f : FpFlags) : (raiseFlags slot f s).tlb = s.tlb := rfl
@[simp] theorem raiseFlags_units (slot : Nat) (f : FpFlags) : (raiseFlags slot f s).units = s.units := rfl
@[simp] theorem raiseFlags_clusters (slot : Nat) (f : FpFlags) : (raiseFlags slot f s).clusters = s.clusters := rfl
@[simp] theorem raiseFlags_seams (slot : Nat) (f : FpFlags) : (raiseFlags slot f s).seams = s.seams := rfl
@[simp] theorem raiseFlags_launches (slot : Nat) (f : FpFlags) : (raiseFlags slot f s).launches = s.launches := rfl
@[simp] theorem raiseFlags_levels (slot : Nat) (f : FpFlags) : (raiseFlags slot f s).levels = s.levels := rfl
@[simp] theorem raiseFlags_contexts (slot : Nat) (f : FpFlags) : (raiseFlags slot f s).contexts = s.contexts := rfl
@[simp] theorem raiseFlags_queues (slot : Nat) (f : FpFlags) : (raiseFlags slot f s).queues = s.queues := rfl
@[simp] theorem raiseFlags_chosen (slot : Nat) (f : FpFlags) : (raiseFlags slot f s).chosen = s.chosen := rfl
@[simp] theorem raiseFlags_streams (slot : Nat) (f : FpFlags) : (raiseFlags slot f s).streams = s.streams := rfl
@[simp] theorem raiseFlags_updates (slot : Nat) (f : FpFlags) : (raiseFlags slot f s).updates = s.updates := rfl
@[simp] theorem raiseFlags_atoms (slot : Nat) (f : FpFlags) : (raiseFlags slot f s).atoms = s.atoms := rfl
@[simp] theorem raiseFlags_migrations (slot : Nat) (f : FpFlags) : (raiseFlags slot f s).migrations = s.migrations := rfl
@[simp] theorem raiseFlags_fences (slot : Nat) (f : FpFlags) : (raiseFlags slot f s).fences = s.fences := rfl
@[simp] theorem raiseFlags_fabric (slot : Nat) (f : FpFlags) : (raiseFlags slot f s).fabric = s.fabric := rfl
@[simp] theorem raiseFlags_owner (slot : Nat) (f : FpFlags) : (raiseFlags slot f s).owner = s.owner := rfl
@[simp] theorem raiseFlags_masters (slot : Nat) (f : FpFlags) : (raiseFlags slot f s).masters = s.masters := rfl
@[simp] theorem raiseFlags_events (slot : Nat) (f : FpFlags) : (raiseFlags slot f s).events = s.events := rfl
@[simp] theorem raiseFlags_eventCount (slot : Nat) (f : FpFlags) : (raiseFlags slot f s).eventCount = s.eventCount := rfl
@[simp] theorem raiseFlags_outbox (slot : Nat) (f : FpFlags) : (raiseFlags slot f s).outbox = s.outbox := rfl
@[simp] theorem raiseFlags_pushed (slot : Nat) (f : FpFlags) : (raiseFlags slot f s).pushed = s.pushed := rfl
@[simp] theorem raiseFlags_boot (slot : Nat) (f : FpFlags) : (raiseFlags slot f s).boot = s.boot := rfl
@[simp] theorem raiseFlags_flash (slot : Nat) (f : FpFlags) : (raiseFlags slot f s).flash = s.flash := rfl
@[simp] theorem raiseFlags_erased (slot : Nat) (f : FpFlags) : (raiseFlags slot f s).erased = s.erased := rfl
@[simp] theorem raiseFlags_torn (slot : Nat) (f : FpFlags) : (raiseFlags slot f s).torn = s.torn := rfl

/-! ### atIssue -/

@[simp] theorem atIssue_turns (i : Instr) (g : Group) : (atIssue i g s).turns = s.turns := rfl
@[simp] theorem atIssue_focus (i : Instr) (g : Group) : (atIssue i g s).focus = s.focus := rfl
@[simp] theorem atIssue_lag (i : Instr) (g : Group) : (atIssue i g s).lag = s.lag := rfl
@[simp] theorem atIssue_clock (i : Instr) (g : Group) : (atIssue i g s).clock = issueClock s g i := rfl
@[simp] theorem atIssue_wall (i : Instr) (g : Group) : (atIssue i g s).wall = s.wall := rfl
@[simp] theorem atIssue_nonce (i : Instr) (g : Group) : (atIssue i g s).nonce = s.nonce + 8 := rfl
@[simp] theorem atIssue_uid (i : Instr) (g : Group) : (atIssue i g s).uid = s.uid := rfl
@[simp] theorem atIssue_mem (i : Instr) (g : Group) : (atIssue i g s).mem = s.mem := rfl
@[simp] theorem atIssue_memPoison (i : Instr) (g : Group) : (atIssue i g s).memPoison = s.memPoison := rfl
@[simp] theorem atIssue_badReads (i : Instr) (g : Group) : (atIssue i g s).badReads = s.badReads := rfl
@[simp] theorem atIssue_voids (i : Instr) (g : Group) : (atIssue i g s).voids = s.voids := rfl
@[simp] theorem atIssue_packs (i : Instr) (g : Group) : (atIssue i g s).packs = s.packs := rfl
@[simp] theorem atIssue_shadow (i : Instr) (g : Group) : (atIssue i g s).shadow = s.shadow := rfl
@[simp] theorem atIssue_tlb (i : Instr) (g : Group) : (atIssue i g s).tlb = s.tlb := rfl
@[simp] theorem atIssue_units (i : Instr) (g : Group) : (atIssue i g s).units = s.units := rfl
@[simp] theorem atIssue_clusters (i : Instr) (g : Group) : (atIssue i g s).clusters = s.clusters := rfl
@[simp] theorem atIssue_seams (i : Instr) (g : Group) : (atIssue i g s).seams = s.seams := rfl
@[simp] theorem atIssue_launches (i : Instr) (g : Group) : (atIssue i g s).launches = s.launches := rfl
@[simp] theorem atIssue_levels (i : Instr) (g : Group) : (atIssue i g s).levels = s.levels := rfl
@[simp] theorem atIssue_contexts (i : Instr) (g : Group) : (atIssue i g s).contexts = s.contexts := rfl
@[simp] theorem atIssue_queues (i : Instr) (g : Group) : (atIssue i g s).queues = s.queues := rfl
@[simp] theorem atIssue_chosen (i : Instr) (g : Group) : (atIssue i g s).chosen = s.chosen := rfl
@[simp] theorem atIssue_streams (i : Instr) (g : Group) : (atIssue i g s).streams = s.streams := rfl
@[simp] theorem atIssue_updates (i : Instr) (g : Group) : (atIssue i g s).updates = s.updates := rfl
@[simp] theorem atIssue_atoms (i : Instr) (g : Group) : (atIssue i g s).atoms = s.atoms := rfl
@[simp] theorem atIssue_migrations (i : Instr) (g : Group) : (atIssue i g s).migrations = s.migrations := rfl
@[simp] theorem atIssue_fences (i : Instr) (g : Group) : (atIssue i g s).fences = s.fences := rfl
@[simp] theorem atIssue_fabric (i : Instr) (g : Group) : (atIssue i g s).fabric = s.fabric := rfl
@[simp] theorem atIssue_owner (i : Instr) (g : Group) : (atIssue i g s).owner = s.owner := rfl
@[simp] theorem atIssue_masters (i : Instr) (g : Group) : (atIssue i g s).masters = s.masters := rfl
@[simp] theorem atIssue_events (i : Instr) (g : Group) : (atIssue i g s).events = s.events := rfl
@[simp] theorem atIssue_eventCount (i : Instr) (g : Group) : (atIssue i g s).eventCount = s.eventCount := rfl
@[simp] theorem atIssue_outbox (i : Instr) (g : Group) : (atIssue i g s).outbox = s.outbox := rfl
@[simp] theorem atIssue_pushed (i : Instr) (g : Group) : (atIssue i g s).pushed = s.pushed := rfl
@[simp] theorem atIssue_boot (i : Instr) (g : Group) : (atIssue i g s).boot = s.boot := rfl
@[simp] theorem atIssue_flash (i : Instr) (g : Group) : (atIssue i g s).flash = s.flash := rfl
@[simp] theorem atIssue_erased (i : Instr) (g : Group) : (atIssue i g s).erased = s.erased := rfl
@[simp] theorem atIssue_torn (i : Instr) (g : Group) : (atIssue i g s).torn = s.torn := rfl

/-! ### parkThread -/

@[simp] theorem parkThread_turns (slot pc n k : Nat) : (parkThread slot pc n k s).turns = s.turns := rfl
@[simp] theorem parkThread_focus (slot pc n k : Nat) : (parkThread slot pc n k s).focus = s.focus := rfl
@[simp] theorem parkThread_lag (slot pc n k : Nat) : (parkThread slot pc n k s).lag = s.lag := rfl
@[simp] theorem parkThread_clock (slot pc n k : Nat) : (parkThread slot pc n k s).clock = s.clock := rfl
@[simp] theorem parkThread_wall (slot pc n k : Nat) : (parkThread slot pc n k s).wall = s.wall := rfl
@[simp] theorem parkThread_nonce (slot pc n k : Nat) : (parkThread slot pc n k s).nonce = s.nonce := rfl
@[simp] theorem parkThread_uid (slot pc n k : Nat) : (parkThread slot pc n k s).uid = s.uid := rfl
@[simp] theorem parkThread_mem (slot pc n k : Nat) : (parkThread slot pc n k s).mem = s.mem := rfl
@[simp] theorem parkThread_memPoison (slot pc n k : Nat) : (parkThread slot pc n k s).memPoison = s.memPoison := rfl
@[simp] theorem parkThread_badReads (slot pc n k : Nat) : (parkThread slot pc n k s).badReads = s.badReads := rfl
@[simp] theorem parkThread_voids (slot pc n k : Nat) : (parkThread slot pc n k s).voids = s.voids := rfl
@[simp] theorem parkThread_packs (slot pc n k : Nat) : (parkThread slot pc n k s).packs = s.packs := rfl
@[simp] theorem parkThread_shadow (slot pc n k : Nat) : (parkThread slot pc n k s).shadow = s.shadow := rfl
@[simp] theorem parkThread_tlb (slot pc n k : Nat) : (parkThread slot pc n k s).tlb = s.tlb := rfl
@[simp] theorem parkThread_units (slot pc n k : Nat) : (parkThread slot pc n k s).units = s.units := rfl
@[simp] theorem parkThread_clusters (slot pc n k : Nat) : (parkThread slot pc n k s).clusters = s.clusters := rfl
@[simp] theorem parkThread_seams (slot pc n k : Nat) : (parkThread slot pc n k s).seams = s.seams := rfl
@[simp] theorem parkThread_launches (slot pc n k : Nat) : (parkThread slot pc n k s).launches = s.launches := rfl
@[simp] theorem parkThread_levels (slot pc n k : Nat) : (parkThread slot pc n k s).levels = s.levels := rfl
@[simp] theorem parkThread_contexts (slot pc n k : Nat) : (parkThread slot pc n k s).contexts = s.contexts := rfl
@[simp] theorem parkThread_queues (slot pc n k : Nat) : (parkThread slot pc n k s).queues = s.queues := rfl
@[simp] theorem parkThread_chosen (slot pc n k : Nat) : (parkThread slot pc n k s).chosen = s.chosen := rfl
@[simp] theorem parkThread_streams (slot pc n k : Nat) : (parkThread slot pc n k s).streams = s.streams := rfl
@[simp] theorem parkThread_updates (slot pc n k : Nat) : (parkThread slot pc n k s).updates = s.updates := rfl
@[simp] theorem parkThread_atoms (slot pc n k : Nat) : (parkThread slot pc n k s).atoms = s.atoms := rfl
@[simp] theorem parkThread_migrations (slot pc n k : Nat) : (parkThread slot pc n k s).migrations = s.migrations := rfl
@[simp] theorem parkThread_fences (slot pc n k : Nat) : (parkThread slot pc n k s).fences = s.fences := rfl
@[simp] theorem parkThread_fabric (slot pc n k : Nat) : (parkThread slot pc n k s).fabric = s.fabric := rfl
@[simp] theorem parkThread_owner (slot pc n k : Nat) : (parkThread slot pc n k s).owner = s.owner := rfl
@[simp] theorem parkThread_masters (slot pc n k : Nat) : (parkThread slot pc n k s).masters = s.masters := rfl
@[simp] theorem parkThread_events (slot pc n k : Nat) : (parkThread slot pc n k s).events = s.events := rfl
@[simp] theorem parkThread_eventCount (slot pc n k : Nat) : (parkThread slot pc n k s).eventCount = s.eventCount := rfl
@[simp] theorem parkThread_outbox (slot pc n k : Nat) : (parkThread slot pc n k s).outbox = s.outbox := rfl
@[simp] theorem parkThread_pushed (slot pc n k : Nat) : (parkThread slot pc n k s).pushed = s.pushed := rfl
@[simp] theorem parkThread_boot (slot pc n k : Nat) : (parkThread slot pc n k s).boot = s.boot := rfl
@[simp] theorem parkThread_flash (slot pc n k : Nat) : (parkThread slot pc n k s).flash = s.flash := rfl
@[simp] theorem parkThread_erased (slot pc n k : Nat) : (parkThread slot pc n k s).erased = s.erased := rfl
@[simp] theorem parkThread_torn (slot pc n k : Nat) : (parkThread slot pc n k s).torn = s.torn := rfl

end Sys2Proof.Machine
end

