-- ==== Sys2Proof/Laws/Table.lean ====
section
/-!
SUPPORT. Laws of tables: what is read after a write, and that every operation keeps the canonical form.
-/
namespace Sys2Proof.Machine

variable {α : Type}

@[simp] theorem tget_nil (x : Nat) : tget ([] : Table α) x = none := rfl

@[simp] theorem tget_tset_same (t : Table α) (x : Nat) (a : α) : tget (tset t x a) x = some a := by
  induction t with
  | nil => simp [tset, tget]
  | cons e t ih =>
    obtain ⟨k, v⟩ := e
    unfold tset
    split
    · simp [tget, *]
    · split
      · simp [tget]
      · simp [tget, *]

theorem tget_tset_other (t : Table α) {x y : Nat} (a : α) (h : y ≠ x) : tget (tset t x a) y = tget t y := by
  induction t with
  | nil => simp [tset, tget, h]
  | cons e t ih =>
    obtain ⟨k, v⟩ := e
    unfold tset
    split
    · next hk => subst hk; simp [tget, h]
    · split
      · simp [tget, h]
      · simp only [tget, ih]

/-- What a key reads as after a write. -/
theorem tget_tset (t : Table α) (x y : Nat) (a : α) : tget (tset t x a) y = if y = x then some a else tget t y := by
  split
  · next h => rw [h, tget_tset_same]
  · next h => exact tget_tset_other t a h

theorem tget_tdel (t : Table α) (x y : Nat) : tget (tdel t x) y = if y = x then none else tget t y := by
  induction t with
  | nil => simp [tdel, tget]
  | cons e t ih =>
    obtain ⟨k, v⟩ := e
    simp only [tdel] at ih ⊢
    by_cases hk : k = x
    · subst hk
      simp only [List.filter, bne_self_eq_false, tget, ih]
      by_cases hy : y = k <;> simp [hy]
    · have hb : (k != x) = true := by simp [hk]
      simp only [List.filter, hb, tget, ih]
      by_cases hy : y = k
      · subst hy; simp [hk]
      · simp [hy]

/-- A table with a default value: what is read after a write. -/
theorem tgetD_tput [DecidableEq α] (t : Table α) (x y : Nat) (a d : α) :
    tgetD (tput t x a d) y d = if y = x then a else tgetD t y d := by
  unfold tput tgetD
  by_cases ha : a = d
  · simp only [ha, if_true, tget_tdel]
    by_cases hy : y = x <;> simp [hy]
  · simp only [ha, if_false, tget_tset]
    by_cases hy : y = x <;> simp [hy]

/-- Changing an entry that is there. -/
theorem tget_tmod (t : Table α) (x y : Nat) (f : α → α) :
    tget (tmod t x f) y = if y = x then (tget t x).map f else tget t y := by
  unfold tmod
  cases h : tget t x with
  | none =>
    by_cases hy : y = x
    · subst hy; simp [h]
    · simp [hy]
  | some v => simp [tget_tset]

/-- Changing entries by their keys. -/
theorem tget_map (t : Table α) (y : Nat) (f : Nat → α → α) :
    tget (t.map (fun e => (e.1, f e.1 e.2))) y = (tget t y).map (f y) := by
  induction t with
  | nil => rfl
  | cons e t ih =>
    obtain ⟨k, v⟩ := e
    simp only [List.map, tget, ih]
    by_cases hy : y = k <;> simp [hy]

/-! ## The canonical form -/

theorem trisesFrom_none_of_some {n : Nat} {t : Table α} (h : trisesFrom (some n) t = true) : trisesFrom none t = true := by
  cases t with
  | nil => rfl
  | cons e t =>
    obtain ⟨k, v⟩ := e
    simp only [trisesFrom, Bool.and_eq_true] at h ⊢
    exact h.2

theorem trisesFrom_mono {n m : Nat} {t : Table α} (hm : m ≤ n) (h : trisesFrom (some n) t = true) :
    trisesFrom (some m) t = true := by
  cases t with
  | nil => rfl
  | cons e t =>
    obtain ⟨k, v⟩ := e
    simp only [trisesFrom, Bool.and_eq_true, decide_eq_true_eq] at h ⊢
    exact ⟨by omega, h.2⟩

theorem trisesFrom_tset {n x : Nat} {t : Table α} (a : α) (hx : n < x) (h : trisesFrom (some n) t = true) :
    trisesFrom (some n) (tset t x a) = true := by
  induction t generalizing n with
  | nil => simp [tset, trisesFrom, hx]
  | cons e t ih =>
    obtain ⟨k, v⟩ := e
    simp only [trisesFrom, Bool.and_eq_true, decide_eq_true_eq] at h
    unfold tset
    split
    · simp [trisesFrom, h]
    · split
      · next hlt => simp [trisesFrom, hx, hlt, h.2]
      · next hne hlt =>
        simp only [trisesFrom, Bool.and_eq_true, decide_eq_true_eq]
        exact ⟨h.1, ih (by omega) h.2⟩

/-- A write keeps the canonical form. -/
theorem trises_tset {t : Table α} (x : Nat) (a : α) (h : trises t = true) : trises (tset t x a) = true := by
  cases t with
  | nil => rfl
  | cons e t =>
    obtain ⟨k, v⟩ := e
    simp only [trises, trisesFrom] at h
    unfold tset
    split
    · exact h
    · split
      · next hlt => simp [trises, trisesFrom, hlt, h]
      · next hne hlt => exact trisesFrom_tset a (by omega) h

theorem trisesFrom_filter {n : Nat} {t : Table α} (p : Nat × α → Bool) (h : trisesFrom (some n) t = true) :
    trisesFrom (some n) (t.filter p) = true := by
  induction t generalizing n with
  | nil => rfl
  | cons e t ih =>
    obtain ⟨k, v⟩ := e
    simp only [trisesFrom, Bool.and_eq_true, decide_eq_true_eq] at h
    by_cases hp : p (k, v) = true
    · simp [List.filter, hp, trisesFrom, h.1, ih h.2]
    · simp only [List.filter, hp]
      exact ih (trisesFrom_mono (by omega) h.2)

/-- Dropping entries keeps the canonical form. -/
theorem trises_filter {t : Table α} (p : Nat × α → Bool) (h : trises t = true) : trises (t.filter p) = true := by
  induction t with
  | nil => rfl
  | cons e t ih =>
    obtain ⟨k, v⟩ := e
    simp only [trises, trisesFrom] at h
    by_cases hp : p (k, v) = true
    · simpa [List.filter, hp, trises, trisesFrom] using trisesFrom_filter p h
    · simp only [List.filter, hp]
      exact ih (trisesFrom_none_of_some h)

theorem trises_tdel {t : Table α} (x : Nat) (h : trises t = true) : trises (tdel t x) = true := trises_filter _ h

theorem trises_tput [DecidableEq α] {t : Table α} (x : Nat) (a d : α) (h : trises t = true) :
    trises (tput t x a d) = true := by
  unfold tput
  split
  · exact trises_tdel x h
  · exact trises_tset x a h

theorem trises_tmod {t : Table α} (x : Nat) (f : α → α) (h : trises t = true) : trises (tmod t x f) = true := by
  unfold tmod
  split
  · exact trises_tset _ _ h
  · exact h

theorem trisesFrom_map {β : Type} {t : Table α} (f : Nat × α → β) (n : Option Nat) :
    trisesFrom n (t.map (fun e => (e.1, f e))) = trisesFrom n t := by
  induction t generalizing n with
  | nil => cases n <;> rfl
  | cons e t ih =>
    obtain ⟨k, v⟩ := e
    cases n <;> simp [trisesFrom, ih]

/-- Changing entries keeps the canonical form. -/
theorem trises_map {β : Type} {t : Table α} (f : Nat × α → β) : trises (t.map (fun e => (e.1, f e))) = trises t :=
  trisesFrom_map f none

/-! ## Rising lists of numbers -/

theorem mem_sadd {t : List Nat} {x y : Nat} : y ∈ sadd t x ↔ y = x ∨ y ∈ t := by
  induction t with
  | nil => simp [sadd]
  | cons k t ih =>
    simp only [sadd]
    split
    · next h => subst h; simp
    · split
      · simp
      · simp only [List.mem_cons, ih]; exact or_left_comm

theorem sadd_rises {t : List Nat} (x : Nat) (h : t.Pairwise (· < ·)) : (sadd t x).Pairwise (· < ·) := by
  induction t with
  | nil => simp [sadd]
  | cons k t ih =>
    obtain ⟨hk, ht⟩ := List.pairwise_cons.mp h
    simp only [sadd]
    split
    · exact h
    · next hne =>
      split
      · next hlt =>
        refine List.pairwise_cons.mpr ⟨fun y hy => ?_, h⟩
        obtain rfl | hy := List.mem_cons.mp hy
        · exact hlt
        · exact Nat.lt_trans hlt (hk y hy)
      · next hge =>
        refine List.pairwise_cons.mpr ⟨fun y hy => ?_, ih ht⟩
        obtain rfl | hy := mem_sadd.mp hy
        · omega
        · exact hk y hy

theorem mem_foldl_sadd {l t : List Nat} {y : Nat} : y ∈ l.foldl sadd t ↔ y ∈ l ∨ y ∈ t := by
  induction l generalizing t with
  | nil => simp
  | cons x l ih =>
    simp only [List.foldl_cons, ih, mem_sadd, List.mem_cons]
    constructor
    · rintro (h | h | h)
      · exact .inl (.inr h)
      · exact .inl (.inl h)
      · exact .inr h
    · rintro ((h | h) | h)
      · exact .inr (.inl h)
      · exact .inl h
      · exact .inr (.inr h)

theorem foldl_sadd_rises {l t : List Nat} (h : t.Pairwise (· < ·)) : (l.foldl sadd t).Pairwise (· < ·) := by
  induction l generalizing t with
  | nil => exact h
  | cons x l ih => exact ih (sadd_rises x h)

end Sys2Proof.Machine
end

