-- ==== Sys2Proof/Laws/Ops.lean ====
section
/-!
SUPPORT. Laws of the shared operations on crews, registers and groups: what a register write does and leaves, what going
on does, and what the issue of a ready group answers.
-/
namespace Sys2Proof.Machine

/-! ## Crews and threads -/

theorem crewAt_modCrew_same {s : State} {slot : Nat} (f : Crew → Crew) (h : (tget s.crews slot).isSome) :
    crewAt (modCrew slot f s) slot = f (crewAt s slot) := by
  obtain ⟨c, hc⟩ := Option.isSome_iff_exists.mp h
  simp [crewAt, tgetD, modCrew, tget_tmod, hc]

theorem crewAt_modCrew_other {s : State} {slot x : Nat} (f : Crew → Crew) (h : x ≠ slot) :
    crewAt (modCrew slot f s) x = crewAt s x := by
  simp [crewAt, tgetD, modCrew, tget_tmod, h]

theorem tget_modCrew_other {s : State} {slot x : Nat} (f : Crew → Crew) (h : x ≠ slot) :
    tget (modCrew slot f s).crews x = tget s.crews x := by
  simp [modCrew, tget_tmod, h]

@[simp] theorem tget_modCrew_isSome (s : State) (slot x : Nat) (f : Crew → Crew) :
    (tget (modCrew slot f s).crews x).isSome = (tget s.crews x).isSome := by
  simp only [modCrew, tget_tmod]
  split
  · next h => subst h; cases tget s.crews x <;> rfl
  · rfl

theorem threadAt_setThreads (c : Crew) (k j : Nat) (f : Thread → Thread) :
    threadAt { c with threads := tmod c.threads k f } j = if j = k then (threadAt c k).map f else threadAt c j := by
  simp [threadAt, tget_tmod]

/-! ## Timing tables leave registers alone -/

@[simp] theorem noteHazard_eq (k pl lat clock : Nat) (old : Word) (c : Crew) :
    { noteHazard k pl lat clock old c with hazards := c.hazards } = c := rfl

@[simp] theorem dropHazard_eq (op : Option Nat) (pl : Nat) (c : Crew) : { dropHazard op pl c with hazards := c.hazards } = c := rfl

theorem overwritten_plain (pl : Nat) (v w : Word) (o : Op) : (Op.overwritten pl v w o).plain = o.plain := by
  unfold Op.overwritten; split <;> rfl

/-- What a register write notes in counted operations is their overwritten places and values. -/
theorem noteWrite_ops (pl : Nat) (v w : Word) (c : Crew) : (noteWrite pl v w c).ops.map Op.plain = c.ops.map Op.plain := by
  simp only [noteWrite, clobber, List.map_map]
  apply List.map_congr_left
  intro o _
  simp only [Function.comp, overwritten_plain]
  split <;> rfl

/-- A register write notes itself in counted operations alone. -/
theorem noteWrite_form (pl : Nat) (v w : Word) (c : Crew) :
    ∃ l, noteWrite pl v w c = { c with ops := l } ∧ l.map Op.plain = c.ops.map Op.plain :=
  ⟨_, rfl, noteWrite_ops pl v w c⟩

/-- Over no result that has returned unwaited, a write leaves its own value. -/
theorem keptWord_landed {n pl : Nat} {c : Crew} (v : Word) (h : landed c pl = true) : keptWord n pl c v = v := by
  unfold landed at h
  unfold keptWord
  generalize c.ops = l at h
  induction l with
  | nil => rfl
  | cons o l ih =>
    simp only [List.all_cons, Bool.and_eq_true, Option.isNone_iff_eq_none] at h
    simp only [List.foldl_cons, h.1]
    exact ih h.2

/-! ## Registers -/

@[simp] theorem coverWord_threads (w : Nat) (c : Crew) : (coverWord w c).threads = c.threads := by
  unfold coverWord; simp only []; split
  · split <;> rfl
  · rfl

theorem coverWord_eq (w : Nat) (c : Crew) :
    coverWord w c = { c with spacePoison := (coverWord w c).spacePoison, cover := (coverWord w c).cover } := by
  unfold coverWord; simp only []; split
  · split <;> rfl
  · rfl

theorem setSpace_eq (w : Nat) (v : Word) (c : Crew) :
    setSpace w v c = { c with
      space := tput c.space w v 0, spacePoison := (coverWord w c).spacePoison, cover := (coverWord w c).cover,
      inUse := c.inUse ||| granuleBit w, dirty := c.dirty ||| granuleBit w } := by
  unfold setSpace; rw [coverWord_eq]

/-- The helper that a key names, if any. -/
abbrev helperAt (c : Crew) (k : Nat) : Option Helper := (threadAt c k).bind (·.helper)

theorem keyFits_lane {c : Crew} {k : Nat} (h : keyFits c k = true) (hk : k < 32) : helperAt c k = none := by
  unfold keyFits at h
  have : decide (32 ≤ k) = false := by simp; omega
  rw [this] at h
  simpa using h

theorem keyFits_helper {c : Crew} {k : Nat} (h : keyFits c k = true) (hk : 32 ≤ k) : ∃ x, helperAt c k = some x := by
  unfold keyFits at h
  have : decide (32 ≤ k) = true := by simp [hk]
  rw [this] at h
  exact Option.isSome_iff_exists.mp (by simpa using h)

theorem vword_inj {c : Crew} {k k' n n' : Nat} (hk : k < 32) (hk' : k' < 32) (h : vword c k n = vword c k' n') :
    k = k' ∧ n = n' := by
  unfold vword at h; omega

theorem place_inj {k k' n n' : Nat} (hn : n < 128) (hn' : n' < 128) (h : place k n = place k' n') :
    n = n' ∧ (k = k' ∨ (96 ≤ n ∧ k < 32 ∧ k' < 32)) := by
  unfold place at h
  split at h <;> split at h <;> omega

/-- What every register holds after one is set. -/
theorem rawReg_setRaw {c : Crew} {k sel k' sel' : Nat} (v : Word) (hs : sel < 128) (hs' : sel' < 128)
    (hk : keyFits c k = true) (hk' : keyFits c k' = true) :
    rawReg (setRaw k sel v c) k' sel' =
      if place k' sel' = place k sel ∧ writable c k sel = true then v else rawReg c k' sel' := by
  by_cases hl : k < 32
  · -- a lane writes
    have hn := keyFits_lane hk hl
    simp only [helperAt] at hn
    have hw : writable c k sel = decide (sel < 127) := by simp only [writable, hn]
    have hk32 : ¬ 32 ≤ k := by omega
    unfold setRaw
    simp only [hn, hw, hk32, if_false, decide_eq_true_eq]
    by_cases hsc : 96 ≤ sel
    · simp only [hsc, if_true]
      by_cases h31 : sel = 127
      · subst h31; simp
      · simp only [h31, if_false]
        have h127 : sel < 127 := by omega
        simp only [h127, and_true]
        by_cases hl' : k' < 32
        · have hn' := keyFits_lane hk' hl'
          simp only [helperAt] at hn'
          have hn'' : (threadAt { c with sregs := tput c.sregs (sel - 96) v 0, sregPoison := sdel c.sregPoison (sel - 96) } k').bind
              (·.helper) = none := hn'
          simp only [rawReg, hn', hn'']
          by_cases hsc' : 96 ≤ sel'
          · simp only [hsc', if_true]
            have hp : place k' sel' = place k sel ↔ sel' = sel := by
              unfold place; simp only [hsc, hsc', hl, hl', and_self, if_true]; omega
            simp only [hp, tgetD_tput]
            by_cases he : sel' = sel
            · subst he; simp [h31]
            · have : ¬ (sel' - 96 = sel - 96) := by omega
              simp [he, this]
          · simp only [hsc', if_false]
            have hp : place k' sel' ≠ place k sel := by
              intro h; have := (place_inj hs' hs h).1; omega
            simp [hp, vword]
        · obtain ⟨x, hx⟩ := keyFits_helper hk' (by omega)
          simp only [helperAt] at hx
          have hx' : (threadAt { c with sregs := tput c.sregs (sel - 96) v 0, sregPoison := sdel c.sregPoison (sel - 96) } k').bind
              (·.helper) = some x := hx
          have hp : place k' sel' ≠ place k sel := by
            unfold place; simp only [hsc, hl, and_self, if_true]; split <;> omega
          simp only [rawReg, hx, hx', hp, if_false]
          rfl
    · simp only [hsc, if_false]
      have h127 : sel < 127 := by omega
      simp only [h127, and_true]
      rw [setSpace_eq]
      by_cases hl' : k' < 32
      · have hn' := keyFits_lane hk' hl'
        simp only [helperAt] at hn'
        simp only [rawReg, threadAt] at hn' ⊢
        simp only [hn']
        by_cases hsc' : 96 ≤ sel'
        · simp only [hsc', if_true]
          have hp : place k' sel' ≠ place k sel := by
            intro h; have := (place_inj hs' hs h).1; omega
          simp [hp]
        · simp only [hsc', if_false]
          have hp : place k' sel' = place k sel ↔ vword c k' sel' = vword c k sel := by
            constructor
            · intro h; obtain ⟨h1, h2⟩ := place_inj hs' hs h
              rcases h2 with h2 | h2
              · rw [h1, h2]
              · omega
            · intro h; obtain ⟨h1, h2⟩ := vword_inj hl' hl h; rw [h1, h2]
          simp only [hp]
          exact tgetD_tput c.space (vword c k sel) (vword c k' sel') v 0
      · obtain ⟨x, hx⟩ := keyFits_helper hk' (by omega)
        simp only [helperAt] at hx
        have hp : place k' sel' ≠ place k sel := by
          intro h; have := (place_inj hs' hs h).2; omega
        simp only [rawReg, threadAt] at hx ⊢
        simp only [hx, hp, if_false]
        rfl
  · -- a helper writes
    obtain ⟨x, hx⟩ := keyFits_helper hk (by omega)
    simp only [helperAt] at hx
    unfold setRaw
    simp only [hx, writable, decide_eq_true_eq]
    by_cases hr : 32 ≤ sel ∧ sel < 64
    · simp only [hr, if_true, and_self, and_true]
      by_cases hkk : k' = k
      · subst hkk
        have hb : ∃ t, threadAt c k' = some t ∧ t.helper = some x := by
          cases ht : threadAt c k' with
          | none => simp [ht] at hx
          | some t => exact ⟨t, rfl, by simpa [ht] using hx⟩
        obtain ⟨t, ht, hth⟩ := hb
        have hp : place k' sel' = place k' sel ↔ sel' = sel := by
          unfold place; simp only [hl, and_false, if_false]; omega
        have ht' : (threadAt { c with threads := tmod c.threads k' (fun t => { t with helper := some { x with priv := tput x.priv sel v 0 } }) } k').bind (·.helper)
            = some { x with priv := tput x.priv sel v 0 } := by
          rw [threadAt_setThreads]; simp [ht]
        simp only [rawReg, ht', hx, hp]
        by_cases hsc' : 96 ≤ sel'
        · have : sel' ≠ sel := by omega
          simp only [hsc', if_true, this, if_false]; rfl
        · by_cases h32 : sel' < 32
          · have : sel' ≠ sel := by omega
            simp only [hsc', if_false, h32, if_true, this]; rfl
          · simp only [hsc', if_false, h32, tgetD_tput]
      · have hp : place k' sel' ≠ place k sel := by
          intro h; have := (place_inj hs' hs h).2; omega
        have ht' : threadAt { c with threads := tmod c.threads k (fun t => { t with helper := some { x with priv := tput x.priv sel v 0 } }) } k' = threadAt c k' := by
          rw [threadAt_setThreads]; simp [hkk]
        simp only [rawReg, ht', hp, if_false]
        cases h : (threadAt c k').bind (·.helper) <;> rfl
    · simp [hr]

@[simp] theorem setRaw_recruits (k sel : Nat) (v : Word) (c : Crew) : (setRaw k sel v c).recruits = c.recruits := by
  unfold setRaw
  split <;> split
  · rfl
  · rfl
  · rfl
  · split
    · split <;> rfl
    · rw [setSpace_eq]

/-- A register write leaves everything of a crew but registers and their flags. -/
theorem setRaw_eq (k sel : Nat) (v : Word) (c : Crew) :
    setRaw k sel v c = { c with
      sregs := (setRaw k sel v c).sregs, sregPoison := (setRaw k sel v c).sregPoison, space := (setRaw k sel v c).space,
      spacePoison := (setRaw k sel v c).spacePoison, cover := (setRaw k sel v c).cover,
      inUse := (setRaw k sel v c).inUse, dirty := (setRaw k sel v c).dirty,
      threads := (setRaw k sel v c).threads } := by
  unfold setRaw
  split <;> split
  · rfl
  · rfl
  · rfl
  · split
    · split <;> rfl
    · rw [setSpace_eq]

theorem setRaw_ops (k sel : Nat) (v : Word) (c : Crew) : (setRaw k sel v c).ops = c.ops := by rw [setRaw_eq]

theorem setRaw_hazards (k sel : Nat) (v : Word) (c : Crew) : (setRaw k sel v c).hazards = c.hazards := by rw [setRaw_eq]

theorem setRaw_clocks (k sel : Nat) (v : Word) (c : Crew) :
    (setRaw k sel v c).floatUntil = c.floatUntil ∧ (setRaw k sel v c).last = c.last ∧ (setRaw k sel v c).lastOn = c.lastOn := by
  refine ⟨?_, ?_, ?_⟩ <;> rw [setRaw_eq]

theorem setRaw_bare (k sel : Nat) (v : Word) (c : Crew) (j : Nat) :
    (threadAt (setRaw k sel v c) j).map Thread.bare = (threadAt c j).map Thread.bare := by
  unfold setRaw
  split
  · next h hh =>
    split
    · rw [threadAt_setThreads]
      split
      · next hj =>
        subst hj
        cases ht : threadAt c j with
        | none => rfl
        | some t =>
          have hth : t.helper = some h := by simpa [ht] using hh
          simp [Thread.bare, hth]
      · rfl
    · rfl
  · split
    · rfl
    · split
      · split <;> rfl
      · rw [setSpace_eq]; rfl

theorem keyFits_of_bare {c c' : Crew} {j : Nat} (h : (threadAt c' j).map Thread.bare = (threadAt c j).map Thread.bare) :
    keyFits c' j = keyFits c j := by
  unfold keyFits
  cases h1 : threadAt c' j <;> cases h2 : threadAt c j <;> simp_all
  next t u =>
    have := congrArg Thread.helper h
    simp only [Thread.bare] at this
    cases ht : t.helper <;> cases hu : u.helper <;> simp_all

theorem writable_of_bare {c c' : Crew} {j : Nat} (sel : Nat)
    (h : (threadAt c' j).map Thread.bare = (threadAt c j).map Thread.bare) : writable c' j sel = writable c j sel := by
  unfold writable
  cases h1 : threadAt c' j <;> cases h2 : threadAt c j <;> simp_all
  next t u =>
    have := congrArg Thread.helper h
    simp only [Thread.bare] at this
    cases ht : t.helper <;> cases hu : u.helper <;> simp_all

theorem rawPred_of_bare {c c' : Crew} {j : Nat} (p : Nat)
    (h : (threadAt c' j).map Thread.bare = (threadAt c j).map Thread.bare) : rawPred c' j p = rawPred c j p := by
  unfold rawPred
  split
  · rfl
  · cases h1 : threadAt c' j <;> cases h2 : threadAt c j <;> rw [h1, h2] at h
    · simp at h
    · simp at h
    · next t u =>
      have h' : t.bare = u.bare := by simpa using h
      have : t.bare.preds = u.bare.preds := by rw [h']
      simp only [Thread.bare] at this
      simp only [this]

/-! ## Runs of register writes -/

/-- What register writes by threads of one crew can change. -/
structure Wrote (slot : Nat) (s t : State) : Prop where
  only : t = { s with crews := t.crews }
  other : ∀ x, x ≠ slot → tget t.crews x = tget s.crews x
  there : (tget t.crews slot).isSome = (tget s.crews slot).isSome
  crew : sameButRegs (crewAt s slot) (crewAt t slot)
  bare : ∀ k, (threadAt (crewAt t slot) k).map Thread.bare = (threadAt (crewAt s slot) k).map Thread.bare

theorem sameButRegs.refl (c : Crew) : sameButRegs c c := ⟨rfl, rfl⟩

theorem sameButRegs.trans {a b c : Crew} (h : sameButRegs a b) (h' : sameButRegs b c) : sameButRegs a c := by
  refine ⟨?_, h'.2.trans h.2⟩
  conv => lhs; rw [h'.1, h.1]

theorem Wrote.refl (slot : Nat) (s : State) : Wrote slot s s :=
  ⟨rfl, fun _ _ => rfl, rfl, sameButRegs.refl _, fun _ => rfl⟩

theorem Wrote.trans {slot : Nat} {a b c : State} (h : Wrote slot a b) (h' : Wrote slot b c) : Wrote slot a c := by
  refine ⟨?_, fun x hx => (h'.other x hx).trans (h.other x hx), h'.there.trans h.there, h.crew.trans h'.crew,
    fun k => (h'.bare k).trans (h.bare k)⟩
  conv => lhs; rw [h'.only, h.only]

theorem Wrote.keyFits {slot : Nat} {s t : State} (h : Wrote slot s t) (k : Nat) :
    keyFits (crewAt t slot) k = keyFits (crewAt s slot) k := keyFits_of_bare (h.bare k)

theorem Wrote.writable {slot : Nat} {s t : State} (h : Wrote slot s t) (k sel : Nat) :
    writable (crewAt t slot) k sel = writable (crewAt s slot) k sel := writable_of_bare sel (h.bare k)

theorem landed_of_ops {c c' : Crew} (h : c'.ops.map Op.plain = c.ops.map Op.plain) (pl : Nat) :
    landed c' pl = landed c pl := by
  have key : ∀ l : List Op, l.all (fun o => (landedWord o pl).isNone) =
      (l.map Op.plain).all (fun o => (landedWord o pl).isNone) := by
    intro l; simp only [List.all_map]; rfl
  unfold landed
  rw [key, h, ← key]

theorem Wrote.landed {slot : Nat} {s t : State} (h : Wrote slot s t) (pl : Nat) :
    landed (crewAt t slot) pl = landed (crewAt s slot) pl := landed_of_ops h.crew.2 pl

/-- The crew after one write. -/
theorem crewAt_writeRegLat {s : State} {slot k sel : Nat} (lat : Nat) (v : Word) (h : (tget s.crews slot).isSome)
    (h31 : ¬(sel = 127 ∧ k < 32)) :
    crewAt (writeRegLat slot k sel lat v s) slot =
      (let c := crewAt s slot
       let w := keptWord s.nonce (place k sel) c v
       setRaw k sel w (noteHazard k (place k sel) lat s.clock (rawReg c k sel) (noteWrite (place k sel) v w c))) := by
  unfold writeRegLat; simp only [h31, if_false]; rw [crewAt_modCrew_same _ h]

theorem wrote_writeRegLat (slot k sel lat : Nat) (v : Word) (s : State) : Wrote slot s (writeRegLat slot k sel lat v s) := by
  by_cases h31 : sel = 127 ∧ k < 32
  · have : writeRegLat slot k sel lat v s = s := by unfold writeRegLat; simp only [h31, and_self, if_true]
    rw [this]; exact Wrote.refl _ _
  by_cases hp : (tget s.crews slot).isSome
  · have hc := crewAt_writeRegLat lat v hp h31
    have hm : ∃ f, writeRegLat slot k sel lat v s = modCrew slot f s := by
      unfold writeRegLat; simp only [h31, if_false]; exact ⟨_, rfl⟩
    obtain ⟨f, hm⟩ := hm
    refine ⟨by rw [hm]; rfl, fun x hx => by rw [hm]; exact tget_modCrew_other _ hx,
      by rw [hm]; exact tget_modCrew_isSome _ _ _ _, ?_, ?_⟩
    · rw [hc]
      obtain ⟨l, hl, hpl⟩ := noteWrite_form (place k sel) v (keptWord s.nonce (place k sel) (crewAt s slot) v) (crewAt s slot)
      simp only [hl]
      refine ⟨?_, ?_⟩
      · rw [setRaw_hazards, setRaw_ops, (setRaw_clocks _ _ _ _).1, (setRaw_clocks _ _ _ _).2.1, (setRaw_clocks _ _ _ _).2.2]
        conv => lhs; rw [setRaw_eq]
        rfl
      · rw [setRaw_ops]; exact hpl
    · intro j
      rw [hc]
      obtain ⟨l, hl, -⟩ := noteWrite_form (place k sel) v (keptWord s.nonce (place k sel) (crewAt s slot) v) (crewAt s slot)
      simp only [hl]
      rw [setRaw_bare]; rfl
  · have hn : tget s.crews slot = none := by simpa using hp
    have : writeRegLat slot k sel lat v s = s := by
      unfold writeRegLat modCrew tmod; simp only [hn, ite_self]
    rw [this]; exact Wrote.refl _ _

/-- What a register holds after one write. -/
theorem rawReg_writeRegLat {s : State} {slot k sel k' sel' : Nat} (lat : Nat) (v : Word) (hp : (tget s.crews slot).isSome)
    (hs : sel < 128) (hs' : sel' < 128) (hk : keyFits (crewAt s slot) k = true)
    (hk' : keyFits (crewAt s slot) k' = true) :
    (place k' sel' ≠ place k sel →
      rawReg (crewAt (writeRegLat slot k sel lat v s) slot) k' sel' = rawReg (crewAt s slot) k' sel') ∧
    (place k' sel' = place k sel → landed (crewAt s slot) (place k sel) = true → writable (crewAt s slot) k sel = true →
      rawReg (crewAt (writeRegLat slot k sel lat v s) slot) k' sel' = v) := by
  by_cases h31 : sel = 127 ∧ k < 32
  · have hsame : writeRegLat slot k sel lat v s = s := by unfold writeRegLat; simp only [h31, and_self, if_true]
    refine ⟨fun _ => by rw [hsame], fun _ _ hw => ?_⟩
    have hn := keyFits_lane hk h31.2
    simp only [helperAt] at hn
    unfold writable at hw
    rw [hn, h31.1] at hw
    simp at hw
  rw [crewAt_writeRegLat lat v hp h31]
  obtain ⟨l, hops, -⟩ := noteWrite_form (place k sel) v (keptWord s.nonce (place k sel) (crewAt s slot) v) (crewAt s slot)
  simp only [hops]
  have hset := @rawReg_setRaw (noteHazard k (place k sel) lat s.clock (rawReg (crewAt s slot) k sel)
    { crewAt s slot with ops := l }) k sel k' sel' (keptWord s.nonce (place k sel) (crewAt s slot) v) hs hs' hk hk'
  refine ⟨fun hne => ?_, fun he hl hw => ?_⟩
  · rw [hset]; simp only [hne, false_and, if_false]; rfl
  · rw [hset, keptWord_landed v hl]
    have : writable (noteHazard k (place k sel) lat s.clock (rawReg (crewAt s slot) k sel)
      { crewAt s slot with ops := l }) k sel = true := hw
    simp only [he, this, and_self, if_true]

/-- A list of register writes: thread, selector, value. -/
def writeAll (slot lat : Nat) (l : List (Nat × Nat × Word)) (s : State) : State :=
  l.foldl (fun s e => writeRegLat slot e.1 e.2.1 lat e.2.2 s) s

theorem wrote_writeAll (slot lat : Nat) (l : List (Nat × Nat × Word)) (s : State) : Wrote slot s (writeAll slot lat l s) := by
  induction l generalizing s with
  | nil => exact Wrote.refl _ _
  | cons e l ih => exact (wrote_writeRegLat slot e.1 e.2.1 lat e.2.2 s).trans (ih _)

/-- A register that no write of a list names keeps its value. -/
theorem rawReg_writeAll_other {slot lat k n : Nat} {l : List (Nat × Nat × Word)} {s : State}
    (hp : (tget s.crews slot).isSome) (hn : n < 128) (hk : keyFits (crewAt s slot) k = true)
    (hl : ∀ e ∈ l, e.2.1 < 128 ∧ keyFits (crewAt s slot) e.1 = true ∧ place k n ≠ place e.1 e.2.1) :
    rawReg (crewAt (writeAll slot lat l s) slot) k n = rawReg (crewAt s slot) k n := by
  induction l generalizing s with
  | nil => rfl
  | cons e l ih =>
    have hw := wrote_writeRegLat slot e.1 e.2.1 lat e.2.2 s
    obtain ⟨h1, h2, h3⟩ := hl e (by simp)
    have := ih (s := writeRegLat slot e.1 e.2.1 lat e.2.2 s) (by rw [hw.there]; exact hp) (by rw [hw.keyFits]; exact hk)
      (fun e' he' => by rw [hw.keyFits]; exact hl e' (by simp [he']))
    show rawReg (crewAt (writeAll slot lat l (writeRegLat slot e.1 e.2.1 lat e.2.2 s)) slot) k n = _
    rw [this]
    exact (rawReg_writeRegLat lat e.2.2 hp h1 hn h2 hk).1 h3

/-- A register that writes of a list name, all with one value, takes that value. -/
theorem rawReg_writeAll_same {slot lat k n : Nat} {v : Word} {l : List (Nat × Nat × Word)} {s : State}
    (hp : (tget s.crews slot).isSome) (hn : n < 128) (hk : keyFits (crewAt s slot) k = true)
    (hl : ∀ e ∈ l, e.2.1 < 128 ∧ keyFits (crewAt s slot) e.1 = true)
    (hv : ∀ e ∈ l, place k n = place e.1 e.2.1 → e.2.2 = v ∧ writable (crewAt s slot) e.1 e.2.1 = true)
    (hla : landed (crewAt s slot) (place k n) = true) (hex : ∃ e ∈ l, place k n = place e.1 e.2.1) :
    rawReg (crewAt (writeAll slot lat l s) slot) k n = v := by
  induction l generalizing s with
  | nil => obtain ⟨e, he, _⟩ := hex; cases he
  | cons e l ih =>
    have hw := wrote_writeRegLat slot e.1 e.2.1 lat e.2.2 s
    have hp' : (tget (writeRegLat slot e.1 e.2.1 lat e.2.2 s).crews slot).isSome := by rw [hw.there]; exact hp
    have hk' : keyFits (crewAt (writeRegLat slot e.1 e.2.1 lat e.2.2 s) slot) k = true := by rw [hw.keyFits]; exact hk
    show rawReg (crewAt (writeAll slot lat l (writeRegLat slot e.1 e.2.1 lat e.2.2 s)) slot) k n = _
    by_cases hr : ∃ e' ∈ l, place k n = place e'.1 e'.2.1
    · refine ih hp' hk' (fun e' he' => ?_) (fun e' he' hpl => ?_) ?_ hr
      · rw [hw.keyFits]; exact hl e' (by simp [he'])
      · rw [hw.writable]; exact hv e' (by simp [he']) hpl
      · rw [hw.landed]; exact hla
    · obtain ⟨h1, h2⟩ := hl e (by simp)
      rw [rawReg_writeAll_other hp' hn hk' (fun e' he' => ⟨(hl e' (by simp [he'])).1, by
        rw [hw.keyFits]; exact (hl e' (by simp [he'])).2, fun hpl => hr ⟨e', he', hpl⟩⟩)]
      obtain ⟨e', he', hpl⟩ := hex
      rcases List.mem_cons.mp he' with rfl | hin
      · obtain ⟨hv1, hv2⟩ := hv e' (by simp) hpl
        rw [← hv1]
        exact (rawReg_writeRegLat lat e'.2.2 hp h1 hn h2 hk).2 hpl (by rw [← hpl]; exact hla) hv2
      · exact absurd ⟨e', hin, hpl⟩ hr

theorem writeRegs_eq (slot k lat : Nat) (vs : List Word) (sel : Nat) (s : State) :
    writeRegs slot k sel lat vs s = writeAll slot lat (vs.mapIdx (fun j v => (k, sel + j, v))) s := by
  induction vs generalizing sel s with
  | nil => rfl
  | cons v vs ih =>
    simp only [writeRegs, ih, writeAll, List.mapIdx_cons, List.foldl_cons, Nat.add_zero]
    congr 1
    apply List.mapIdx_eq_mapIdx_iff.mpr
    intro i _
    simp only [Prod.mk.injEq, true_and, and_true]
    omega

end Sys2Proof.Machine
end

