-- ==== Sys2Proof/Laws/Issue.lean ====
section
/-!
SUPPORT. Laws of issue: what a group is, what the issue of a ready group answers, and the frame and the results of
instructions that write registers and predicates.
-/
namespace Sys2Proof.Machine

/-! ## Groups -/

/-- What a group of the state is. -/
structure IsGroup (g : Group) (s : State) : Prop where
  present : (tget s.crews g.slot).isSome
  nonempty : g.keys ≠ []
  members : ∀ k ∈ g.keys, ∃ u, threadAt (crewAt s g.slot) k = some u ∧ u.pc = g.pc ∧ canIssue u = true ∧ kindOk k u = true
  kinds : ∀ j ∈ g.keys, ∀ k ∈ g.keys, (32 ≤ j ↔ 32 ≤ k)
  rises : g.keys.Pairwise (· < ·)

theorem mem_keys_of_tget {α : Type} {t : Table α} {k : Nat} {v : α} (h : tget t k = some v) : k ∈ t.map (·.1) := by
  induction t with
  | nil => simp at h
  | cons e t ih =>
    obtain ⟨a, b⟩ := e
    simp only [tget] at h
    split at h
    · next hk => simp [hk]
    · simp [ih h]

theorem groupOf_isGroup {s : State} {slot k : Nat} {g : Group} (h : groupOf s slot k = some g) :
    IsGroup g s ∧ g.slot = slot ∧ k ∈ g.keys := by
  unfold groupOf at h
  split at h
  · next t ht =>
    split at h
    · next hc =>
      rw [Bool.and_eq_true] at hc
      have hg := Option.some.inj h
      subst hg
      have hself : k ∈ ((crewAt s slot).threads.map (·.1)).filter (ganged (crewAt s slot) k t) := by
        rw [List.mem_filter]
        refine ⟨mem_keys_of_tget ht, ?_⟩
        simp [ganged, ht, hc.1, hc.2]
      have hp : (tget s.crews slot).isSome := by
        cases hn : tget s.crews slot with
        | some c => rfl
        | none =>
          have : crewAt s slot = default := by simp [crewAt, tgetD, hn]
          rw [this] at ht
          exact absurd ht (by simp [threadAt]; intro h; cases h)
      have hmem : ∀ j, j ∈ (((crewAt s slot).threads.map (·.1)).filter (ganged (crewAt s slot) k t)).foldl sadd [] →
          j ∈ ((crewAt s slot).threads.map (·.1)).filter (ganged (crewAt s slot) k t) := fun j hj =>
        (mem_foldl_sadd.mp hj).elim id (fun h => absurd h (List.not_mem_nil))
      have hself' : k ∈ (((crewAt s slot).threads.map (·.1)).filter (ganged (crewAt s slot) k t)).foldl sadd [] :=
        mem_foldl_sadd.mpr (.inl hself)
      refine ⟨⟨hp, List.ne_nil_of_mem hself', ?_, ?_, foldl_sadd_rises .nil⟩, rfl, hself'⟩
      · intro j hj
        have := (List.mem_filter.mp (hmem j hj)).2
        unfold ganged at this
        split at this
        · next u hu =>
          simp only [Bool.and_eq_true, beq_iff_eq] at this
          exact ⟨u, hu, this.1.1.1.1.1.2, this.1.1.1.2, this.1.2⟩
        · cases this
      · have key : ∀ j ∈ ((crewAt s slot).threads.map (·.1)).filter (ganged (crewAt s slot) k t), (32 ≤ j ↔ 32 ≤ k) := by
          intro j hj
          have := (List.mem_filter.mp hj).2
          unfold ganged at this
          split at this
          · simp only [Bool.and_eq_true, beq_iff_eq] at this
            have h2 := this.2
            simp only [decide_eq_decide] at h2
            exact h2
          · cases this
        intro j hj j' hj'
        exact (key j (hmem j hj)).trans (key j' (hmem j' hj')).symm
    · cases h
  · cases h

theorem Ready.isGroup {i : Instr} {g : Group} {s : State} (h : Ready i g s) : IsGroup g s :=
  (groupOf_isGroup h.1).1

theorem IsGroup.keyFits {g : Group} {s : State} (h : IsGroup g s) {k : Nat} (hk : k ∈ g.keys) :
    keyFits (crewAt s g.slot) k = true := by
  obtain ⟨u, hu, _, _, hkind⟩ := h.members k hk
  simpa [Machine.keyFits, hu, kindOk] using hkind

theorem IsGroup.lead_mem {g : Group} {s : State} (h : IsGroup g s) : g.lead ∈ g.keys := by
  unfold Group.lead
  cases hk : g.keys with
  | nil => exact absurd hk h.nonempty
  | cons a l => simp

/-! ## Issue -/

theorem failures_nil {chk : Nat → Option Trap} {ks : List Nat} (h : ∀ k ∈ ks, chk k = none) : failures chk ks = [] := by
  unfold failures
  rw [List.filterMap_eq_nil_iff]
  intro k hk
  simp [h k hk]

/-- A ready group's instruction takes its effect on the state at its issue. -/
theorem issue_ready {i : Instr} {g : Group} {s : State} (body : Group → State → State) (h : Ready i g s) :
    issue i body s = .next (body g (atIssue i g s)) := by
  have hf : issueFails i g (atIssue i g s) = [] := failures_nil (fun k hk => h.2.2 k (List.mem_filter.mp hk).1)
  simp only [issue, h.1, issueGroup, h.2.1, hf, ite_self, List.isEmpty_nil, if_true]

/-- A group that arrives at an instruction which fails a check of its own takes the fault. -/
theorem issue_trap {i : Instr} {g : Group} {s : State} {tr : Trap} (body : Group → State → State)
    (h : focusGroup s = some g) (ha : hasIssued (crewAt (atIssue i g s) g.slot) g.lead = false) (ht : groupTrap i g (atIssue i g s) = some tr) :
    issue i body s = .next (takeFault g.slot g.pc (g.keys.map (fun k => (k, tr))) (atIssue i g s)) := by
  simp only [issue, h, issueGroup, ha, ht, Bool.false_eq_true, if_false]

theorem issue_noIssuer {i : Instr} {s : State} (body : Group → State → State) (h : focusGroup s = none) :
    issue i body s = .fault .noIssuer := by
  simp only [issue, h]

/-- The crew at issue. -/
theorem crewAt_atIssue {i : Instr} {g : Group} {s : State} (h : (tget s.crews g.slot).isSome) :
    crewAt (atIssue i g s) g.slot = { crewAt s g.slot with
      cover := [], last := (issueClock s g i, g.lead),
      lastOn := (slicesOf (crewAt s g.slot) g.keys).map (fun x => ⟨x, issueClock s g i, g.pc, g.lead⟩) ++
        (crewAt s g.slot).lastOn.filter (fun x => !((slicesOf (crewAt s g.slot) g.keys).contains x.slice)),
      hazards := (crewAt s g.slot).hazards.filter (fun h => decide (issueClock s g i < h.until_)) } := by
  unfold atIssue
  exact crewAt_modCrew_same (s := { s with clock := issueClock s g i, nonce := s.nonce + 8 }) _ h

/-! ## Register results -/

/-- The register writes of a result. -/
def resultWrites (d : Sel) (val : Nat → List Word) (g : Group) : List (Nat × Nat × Word) :=
  if isScalar d then (val g.lead).mapIdx (fun j v => (g.lead, d.toNat + j, v))
  else g.keys.flatMap (fun k => (val k).mapIdx (fun j v => (k, d.toNat + j, v)))

theorem writeAll_append (slot lat : Nat) (l l' : List (Nat × Nat × Word)) (s : State) :
    writeAll slot lat (l ++ l') s = writeAll slot lat l' (writeAll slot lat l s) := by
  simp [writeAll, List.foldl_append]

theorem writeResult_eq (i : Instr) (d : Sel) (val : Nat → List Word) (g : Group) (s : State) :
    writeResult i d val g s = writeAll g.slot i.latency (resultWrites d val g) s := by
  unfold writeResult resultWrites
  split
  · exact writeRegs_eq _ _ _ _ _ _
  · generalize g.keys = ks
    induction ks generalizing s with
    | nil => rfl
    | cons k ks ih =>
      rw [List.foldl_cons, ih, writeRegs_eq, List.flatMap_cons, writeAll_append]

/-! ## The frame -/

theorem threadAt_modGroup {g : Group} {s : State} (f : Thread → Thread) (h : (tget s.crews g.slot).isSome) (k : Nat) :
    threadAt (crewAt (modGroup g f s) g.slot) k =
      (threadAt (crewAt s g.slot) k).map (fun t => if g.keys.contains k then f t else t) := by
  unfold modGroup
  rw [crewAt_modCrew_same _ h]
  have e : (fun (e : Nat × Thread) => if g.keys.contains e.1 then (e.1, f e.2) else e) =
      fun e => (e.1, (fun k t => if g.keys.contains k then f t else t) e.1 e.2) := by
    funext e; split <;> simp_all
  show tget ((crewAt s g.slot).threads.map _) k = _
  rw [e]
  exact tget_map _ k (fun k t => if g.keys.contains k then f t else t)

theorem crewAt_modGroup {g : Group} {s : State} (f : Thread → Thread) (h : (tget s.crews g.slot).isSome) :
    crewAt (modGroup g f s) g.slot = { crewAt s g.slot with threads := (crewAt (modGroup g f s) g.slot).threads } := by
  unfold modGroup
  rw [crewAt_modCrew_same _ h]

/-- Going on leaves registers as they are. -/
theorem rawReg_advance (i : Instr) (g : Group) {w : State} (hp : (tget w.crews g.slot).isSome) (k n : Nat) :
    rawReg (crewAt (advance i g w) g.slot) k n = rawReg (crewAt w g.slot) k n := by
  have hcm := crewAt_modGroup (g := g) (s := w)
    (fun t => { t with pc := nextPc g.pc i.words, run := .running, ready := w.clock + 1 + i.stall }) hp
  have htm := threadAt_modGroup (g := g) (s := w)
    (fun t => { t with pc := nextPc g.pc i.words, run := .running, ready := w.clock + 1 + i.stall }) hp
  have hbind : ((threadAt (crewAt (advance i g w) g.slot) k).bind (·.helper)) =
      (threadAt (crewAt w g.slot) k).bind (·.helper) := by
    show ((threadAt (crewAt (modGroup g _ w) g.slot) k).bind (·.helper)) = _
    rw [htm k]
    cases threadAt (crewAt w g.slot) k with
    | none => rfl
    | some t => simp only [Option.map_some, Option.bind_some]; split <;> rfl
  have hcm' : crewAt (advance i g w) g.slot =
    { crewAt w g.slot with threads := (crewAt (advance i g w) g.slot).threads } := hcm
  unfold rawReg
  rw [hbind, hcm']
  rfl

/-- Going on leaves predicates as they are. -/
theorem rawPred_advance (i : Instr) (g : Group) {w : State} (hp : (tget w.crews g.slot).isSome) (k p : Nat) :
    rawPred (crewAt (advance i g w) g.slot) k p = rawPred (crewAt w g.slot) k p := by
  have htm := threadAt_modGroup (g := g) (s := w)
    (fun t => { t with pc := nextPc g.pc i.words, run := .running, ready := w.clock + 1 + i.stall }) hp
  unfold rawPred
  split
  · rfl
  · show (match threadAt (crewAt (modGroup g _ w) g.slot) k with | some t => t.preds.getLsbD p | none => false) = _
    rw [htm k]
    cases threadAt (crewAt w g.slot) k with
    | none => rfl
    | some t => simp only [Option.map_some]; split <;> rfl

/-- What a ready group's instruction can do that writes registers and predicates of its threads, up to `w`, and goes on. -/
theorem crewFrame_advance {i : Instr} {g : Group} {s w : State} {places : List Nat} {c0 : Crew} (hg : IsGroup g s)
    (hw : onlyCrew g.slot (atIssue i g s) w) (hp : (tget w.crews g.slot).isSome)
    (hc : sameButRegs c0 (crewAt w g.slot))
    (hr : regsKept places (crewAt (atIssue i g s) g.slot) (crewAt w g.slot))
    (hq : predsKept places (crewAt (atIssue i g s) g.slot) (crewAt w g.slot))
    (hn : ∀ k, threadAt (crewAt s g.slot) k = none → threadAt (crewAt w g.slot) k = none)
    (ht : ∀ k u, threadAt (crewAt s g.slot) k = some u →
      ∃ u', threadAt (crewAt w g.slot) k = some u' ∧ (k ∈ g.keys → u'.bareP = u.bareP) ∧ (k ∉ g.keys → u' = u)) :
    crewFrame i g places c0 s (advance i g w) := by
  have hci := crewAt_atIssue (i := i) hg.present
  have hcm := crewAt_modGroup (g := g) (s := w)
    (fun t => { t with pc := nextPc g.pc i.words, run := .running, ready := w.clock + 1 + i.stall }) hp
  have htm := threadAt_modGroup (g := g) (s := w)
    (fun t => { t with pc := nextPc g.pc i.words, run := .running, ready := w.clock + 1 + i.stall }) hp
  have hpred := rawPred_advance i g hp
  have hreg := rawReg_advance i g hp
  refine ⟨⟨?_, ?_⟩, ⟨?_, ?_⟩, ?_, ?_, ?_, ?_⟩
  · show modGroup g _ w = _
    unfold modGroup modCrew
    conv => lhs; rw [hw.1]
    rfl
  · intro x hx
    show tget (modGroup g _ w).crews x = _
    unfold modGroup
    rw [tget_modCrew_other _ hx, hw.2 x hx]
    exact tget_modCrew_other _ hx
  · have h1 := hc.1
    have hcm' : crewAt (advance i g w) g.slot =
      { crewAt w g.slot with threads := (crewAt (advance i g w) g.slot).threads } := hcm
    rw [hcm']
    conv => lhs; rw [h1]
  · have h2 := hc.2
    have hcm' : crewAt (advance i g w) g.slot =
      { crewAt w g.slot with threads := (crewAt (advance i g w) g.slot).threads } := hcm
    rw [hcm']
    exact h2
  · intro k n hk hn hpl
    rw [hreg]
    have := hr k n (by rw [hci]; exact hk) hn hpl
    rw [this, hci]; rfl
  · intro k p hp' hpl
    rw [hpred]
    have := hq k p hp' hpl
    rw [this, hci]; rfl
  · intro k hk
    show threadAt (crewAt (modGroup g _ w) g.slot) k = none
    rw [htm k, hn k hk]
    rfl
  · intro k u hu
    obtain ⟨u', hu', hin, hout⟩ := ht k u hu
    refine ⟨_, (htm k).trans (congrArg _ hu'), ?_, ?_⟩
    · intro hm
      have hcn : g.keys.contains k = true := by simpa using hm
      have hb := hin hm
      simp only [hcn, if_true]
      refine ⟨rfl, rfl, ?_⟩
      have h1 : u'.pc = u.pc := show u'.bareP.pc = u.bareP.pc by rw [hb]
      have h2 : u'.run = u.run := show u'.bareP.run = u.bareP.run by rw [hb]
      have h3 : u'.ready = u.ready := show u'.bareP.ready = u.bareP.ready by rw [hb]
      rw [← hb, ← h1, ← h2, ← h3]
      rfl
    · intro hm
      have hcn : g.keys.contains k = false := by simpa using hm
      simp only [hcn, Bool.false_eq_true, if_false]
      exact hout hm

theorem bareP_of_bare {t u : Thread} (h : t.bare = u.bare) : t.bareP = u.bareP := by simp only [Thread.bareP, h]

/-- A crew at issue differs from before in its timing tables. -/
theorem sameButRegs_atIssue {i : Instr} {g : Group} {s : State} (hg : IsGroup g s) :
    sameButRegs (crewAt s g.slot) (crewAt (atIssue i g s) g.slot) := by
  rw [crewAt_atIssue hg.present]; exact ⟨rfl, rfl⟩

theorem Wrote.onlyCrew {slot : Nat} {s w : State} (h : Wrote slot s w) : onlyCrew slot s w := by
  have e1 : w.clock = s.clock := by rw [h.only]
  have e2 : w.nonce = s.nonce := by rw [h.only]
  refine ⟨?_, h.other⟩
  rw [e1, e2]
  exact h.only

/-- Register writes up to `w`, FPCTL set to `x` in `w'`, and going on: the frame. -/
theorem crewFrame_of_wrote {i : Instr} {g : Group} {s w w' : State} {places : List Nat} {x : Word} (hg : IsGroup g s)
    (hw : Wrote g.slot (atIssue i g s) w) (hp : (tget w'.crews g.slot).isSome)
    (hcw : ∃ y, crewAt w' g.slot = { crewAt w g.slot with fpctl := x, floatUntil := y }) (hoc : onlyCrew g.slot (atIssue i g s) w')
    (hr : regsKept places (crewAt (atIssue i g s) g.slot) (crewAt w g.slot))
    (ho : ∀ k, k ∉ g.keys → threadAt (crewAt w g.slot) k = threadAt (crewAt (atIssue i g s) g.slot) k) :
    crewFrame i g places { crewAt s g.slot with fpctl := x } s (advance i g w') := by
  obtain ⟨y, hcw⟩ := hcw
  have hci := crewAt_atIssue (i := i) hg.present
  have hth : ∀ k, threadAt (crewAt (atIssue i g s) g.slot) k = threadAt (crewAt s g.slot) k := by intro k; rw [hci]; rfl
  have hsame : sameButRegs (crewAt s g.slot) (crewAt w g.slot) := (sameButRegs_atIssue hg).trans hw.crew
  have htw : ∀ k, threadAt (crewAt w' g.slot) k = threadAt (crewAt w g.slot) k := by intro k; rw [hcw]; rfl
  refine crewFrame_advance hg hoc hp ?_ ?_ ?_ ?_ ?_
  · rw [hcw]
    refine ⟨?_, hsame.2⟩
    have h1 := hsame.1
    conv => lhs; rw [h1]
  · intro k n hk hn hpl
    rw [hcw]
    exact hr k n hk hn hpl
  · intro k p _ _
    rw [hcw]
    exact rawPred_of_bare p (hw.bare k)
  · intro k hk
    have := hw.bare k
    rw [hth, hk] at this
    rw [htw]
    simpa using this
  · intro k u hu
    rw [htw]
    have hb := hw.bare k
    rw [hth, hu] at hb
    cases hwk : threadAt (crewAt w g.slot) k with
    | none => rw [hwk] at hb; simp at hb
    | some u' =>
      rw [hwk] at hb
      refine ⟨u', rfl, fun _ => bareP_of_bare (by simpa using hb), fun hk => ?_⟩
      have h2 := ho k hk
      rw [hth, hu, hwk] at h2
      exact Option.some.inj h2

theorem setRaw_thread_other {k sel j : Nat} (v : Word) {c : Crew} (h : j ≠ k) :
    threadAt (setRaw k sel v c) j = threadAt c j := by
  unfold setRaw
  split
  · split
    · rw [threadAt_setThreads]; simp [h]
    · rfl
  · split
    · rfl
    · split
      · split <;> rfl
      · rw [setSpace_eq]; rfl

theorem writeRegLat_thread_other {slot k sel j : Nat} (lat : Nat) (v : Word) {s : State} (hp : (tget s.crews slot).isSome)
    (h : j ≠ k) : threadAt (crewAt (writeRegLat slot k sel lat v s) slot) j = threadAt (crewAt s slot) j := by
  by_cases h31 : sel = 127 ∧ k < 32
  · unfold writeRegLat; simp only [h31, and_self, if_true]
  · rw [crewAt_writeRegLat lat v hp h31]
    simp only
    rw [setRaw_thread_other _ h]; rfl

theorem writeAll_thread_other {slot lat j : Nat} {l : List (Nat × Nat × Word)} {s : State}
    (hp : (tget s.crews slot).isSome) (h : ∀ e ∈ l, j ≠ e.1) :
    threadAt (crewAt (writeAll slot lat l s) slot) j = threadAt (crewAt s slot) j := by
  induction l generalizing s with
  | nil => rfl
  | cons e l ih =>
    have hw := wrote_writeRegLat slot e.1 e.2.1 lat e.2.2 s
    show threadAt (crewAt (writeAll slot lat l (writeRegLat slot e.1 e.2.1 lat e.2.2 s)) slot) j = _
    rw [ih (by rw [hw.there]; exact hp) (fun e' he' => h e' (by simp [he']))]
    exact writeRegLat_thread_other lat e.2.2 hp (h e (by simp))

/-- Which writes a result is: threads of the group, registers from the destination on. -/
theorem mem_resultWrites {d : Sel} {val : Nat → List Word} {g : Group} (hg : g.lead ∈ g.keys)
    {e : Nat × Nat × Word} (he : e ∈ resultWrites d val g) :
    e.1 ∈ g.keys ∧ (isScalar d = true → e.1 = g.lead) ∧
      ∃ j, j < (val e.1).length ∧ e.2.1 = d.toNat + j ∧ e.2.2 = (val e.1).getD j 0 := by
  unfold resultWrites at he
  split at he
  · next hs =>
    obtain ⟨j, hj, rfl⟩ := List.mem_mapIdx.mp he
    refine ⟨hg, fun _ => rfl, j, hj, rfl, ?_⟩
    simp [List.getD, hj]
  · next hs =>
    obtain ⟨k, hk, he⟩ := List.mem_flatMap.mp he
    obtain ⟨j, hj, rfl⟩ := List.mem_mapIdx.mp he
    refine ⟨hk, fun h => absurd h hs, j, hj, rfl, ?_⟩
    simp [List.getD, hj]

/-- An instruction with a register result of at most `n` words, with FPCTL set to `x`: its frame and its results. -/
theorem result_spec_fp {i : Instr} {g : Group} {s w' : State} {d : Sel} {val : Nat → List Word} {n : Nat} {x : Word}
    (hg : IsGroup g s) (hn : ∀ k ∈ g.keys, (val k).length ≤ n)
    (hd : ∀ k ∈ g.keys, d.toNat + (val k).length ≤ 128 ∧ (isScalar d = false → d.toNat + (val k).length ≤ 96))
    (hp' : (tget w'.crews g.slot).isSome)
    (hcw : ∃ y, crewAt w' g.slot = { crewAt (writeResult i d val g (atIssue i g s)) g.slot with fpctl := x, floatUntil := y })
    (hoc : onlyCrew g.slot (atIssue i g s) w') :
    crewFrame i g (resultPlaces g d.toNat n) { crewAt s g.slot with fpctl := x } s (advance i g w') ∧
    ∀ k ∈ g.keys, ∀ j, j < (val (if isScalar d then g.lead else k)).length →
      writable (crewAt s g.slot) k (d.toNat + j) = true →
      landed (crewAt s g.slot) (place k (d.toNat + j)) = true →
      rawReg (crewAt (advance i g w') g.slot) k (d.toNat + j) = (val (if isScalar d then g.lead else k)).getD j 0 := by
  have hp : (tget (atIssue i g s).crews g.slot).isSome := (tget_modCrew_isSome _ _ _ _).trans hg.present
  have hci := crewAt_atIssue (i := i) hg.present
  have hkf : ∀ k, keyFits (crewAt (atIssue i g s) g.slot) k = keyFits (crewAt s g.slot) k := by intro k; rw [hci]; rfl
  rw [writeResult_eq] at hcw
  obtain ⟨y, hcw⟩ := hcw
  have hw := wrote_writeAll g.slot i.latency (resultWrites d val g) (atIssue i g s)
  have hmem := fun e => @mem_resultWrites d val g hg.lead_mem e
  have hl : ∀ e ∈ resultWrites d val g, e.2.1 < 128 ∧ keyFits (crewAt (atIssue i g s) g.slot) e.1 = true := by
    intro e he
    obtain ⟨h1, _, j, hj, h2, _⟩ := hmem e he
    have := (hd e.1 h1).1
    exact ⟨by omega, by rw [hkf]; exact hg.keyFits h1⟩
  refine ⟨crewFrame_of_wrote hg hw hp' ⟨y, hcw⟩ hoc ?_ ?_, ?_⟩
  · intro k m hk hm hpl
    refine rawReg_writeAll_other hp hm hk (fun e he => ⟨(hl e he).1, (hl e he).2, fun heq => hpl ?_⟩)
    obtain ⟨h1, _, j, hj, h2, _⟩ := hmem e he
    rw [heq, h2]
    have := hn e.1 h1
    exact List.mem_flatMap.mpr ⟨e.1, h1, List.mem_map.mpr ⟨j, List.mem_range.mpr (by omega), rfl⟩⟩
  · intro k hk
    refine writeAll_thread_other hp (fun e he => ?_)
    rintro rfl
    exact hk (hmem e he).1
  · intro k hk j hj hwr hla
    have hk' := hg.keyFits hk
    have hreg : ∀ m, rawReg (crewAt (advance i g w') g.slot) k m =
        rawReg (crewAt (writeAll g.slot i.latency (resultWrites d val g) (atIssue i g s)) g.slot) k m := by
      intro m
      rw [rawReg_advance i g hp' k m, hcw]
      rfl
    rw [hreg]
    by_cases hsc : isScalar d = true
    · -- a scalar destination: only lanes can write it
      have h96 : 96 ≤ d.toNat := by simpa [isScalar] using hsc
      have hlane : k < 32 := by
        rcases Nat.lt_or_ge k 32 with h | h
        · exact h
        · obtain ⟨x, hx⟩ := keyFits_helper hk' h
          have hw1 := hwr
          simp only [writable] at hw1
          rw [show ((threadAt (crewAt s g.slot) k).bind (·.helper)) = some x from hx] at hw1
          simp only [decide_eq_true_eq] at hw1; omega
      have hleadlane : g.lead < 32 := by
        have := hg.kinds k hk g.lead hg.lead_mem
        omega
      have hple : place k (d.toNat + j) = place g.lead (d.toNat + j) := by
        unfold place
        rw [if_pos ⟨by omega, hlane⟩, if_pos ⟨by omega, hleadlane⟩]
      simp only [hsc, if_true] at hj ⊢
      have hb := (hd g.lead hg.lead_mem).1
      refine rawReg_writeAll_same hp (by omega) (by rw [hkf]; exact hk') hl ?_ (by rw [hci]; exact hla) ?_
      · intro e he heq
        obtain ⟨h1, h2, j', hj', h3, h4⟩ := hmem e he
        have hel := h2 hsc
        have hb2 := (hd e.1 h1).1
        have hpe := place_inj (by omega) (by omega) (heq.symm.trans hple ▸ rfl : place e.1 e.2.1 = place g.lead (d.toNat + j))
        have : j' = j := by omega
        subst this
        refine ⟨by rw [h4, hel], ?_⟩
        have hw2 : writable (crewAt s g.slot) k (d.toNat + j') = true := hwr
        have hnl := keyFits_lane (hg.keyFits hg.lead_mem) hleadlane
        have hnk := keyFits_lane hk' hlane
        rw [h3, hel, hci]
        show writable (crewAt s g.slot) g.lead (d.toNat + j') = true
        simp only [writable, helperAt] at hw2 hnl hnk ⊢
        rw [hnl]
        rw [hnk] at hw2
        exact hw2
      · have hin : (g.lead, d.toNat + j, (val g.lead).getD j 0) ∈ resultWrites d val g := by
          unfold resultWrites
          rw [if_pos hsc]
          refine List.mem_mapIdx.mpr ⟨j, hj, ?_⟩
          simp [List.getD, hj]
        exact ⟨_, hin, hple⟩
    · -- a vector destination
      simp only [hsc, if_false, Bool.false_eq_true] at hj ⊢
      have h96 := (hd k hk).2 (by simpa using hsc)
      refine rawReg_writeAll_same hp (by omega) (by rw [hkf]; exact hk') hl ?_ (by rw [hci]; exact hla) ?_
      · intro e he heq
        obtain ⟨h1, h2, j', hj', h3, h4⟩ := hmem e he
        have hb2 := (hd e.1 h1).2 (by simpa using hsc)
        have hpe := place_inj (by omega) (by omega) heq
        have hj2 : j' = j := by omega
        have hke : e.1 = k := by
          rcases hpe.2 with h | h
          · exact h.symm
          · omega
        subst hj2
        refine ⟨by rw [h4, hke], ?_⟩
        rw [h3, hke, hci]; exact hwr
      · have hin : (k, d.toNat + j, (val k).getD j 0) ∈ resultWrites d val g := by
          unfold resultWrites
          rw [if_neg hsc]
          refine List.mem_flatMap.mpr ⟨k, hk, List.mem_mapIdx.mpr ⟨j, hj, ?_⟩⟩
          simp [List.getD, hj]
        exact ⟨_, hin, rfl⟩

theorem writeResult_wrote (i : Instr) (d : Sel) (val : Nat → List Word) (g : Group) (s : State) :
    Wrote g.slot s (writeResult i d val g s) := by
  rw [writeResult_eq]; exact wrote_writeAll _ _ _ _

theorem present_atIssue {i : Instr} {g : Group} {s : State} (hg : IsGroup g s) :
    (tget (atIssue i g s).crews g.slot).isSome := (tget_modCrew_isSome _ _ _ _).trans hg.present

/-! ### The end of a floating-point instruction: flags raised, and the clock from which FPCTL holds them -/

theorem floatEnd_there (i : Instr) (g : Group) (f : FpFlags) (s : State) :
    (tget (holdFloat i g (raiseFlags g.slot f s)).crews g.slot).isSome = (tget s.crews g.slot).isSome := by
  rw [holdFloat, tget_modCrew_isSome, raiseFlags, tget_modCrew_isSome]

theorem crewAt_floatEnd {i : Instr} {g : Group} (f : FpFlags) {s : State} (hp : (tget s.crews g.slot).isSome) :
    ∃ y, crewAt (holdFloat i g (raiseFlags g.slot f s)) g.slot =
      { crewAt s g.slot with fpctl := (crewAt s g.slot).fpctl ||| f.toWord, floatUntil := y } := by
  have h1 : crewAt (raiseFlags g.slot f s) g.slot = _ := crewAt_modCrew_same _ hp
  have h2 : crewAt (holdFloat i g (raiseFlags g.slot f s)) g.slot = _ :=
    crewAt_modCrew_same _ ((tget_modCrew_isSome _ _ _ _).trans hp)
  exact ⟨_, by rw [h2, h1]⟩

theorem floatEnd_onlyCrew {i : Instr} {g : Group} (f : FpFlags) {s w : State} (h : onlyCrew g.slot s w) :
    onlyCrew g.slot s (holdFloat i g (raiseFlags g.slot f w)) := by
  refine ⟨?_, fun y hy => ?_⟩
  · unfold holdFloat raiseFlags modCrew
    conv => lhs; rw [h.1]
  · rw [holdFloat, tget_modCrew_other _ hy, raiseFlags, tget_modCrew_other _ hy, h.2 y hy]

/-- An instruction with a register result of `n` words: its frame and its results. -/
theorem result_spec {i : Instr} {g : Group} {s : State} {d : Sel} {val : Nat → List Word} {n : Nat} (hg : IsGroup g s)
    (hn : ∀ k, (val k).length = n) (hd : d.toNat + n ≤ 128) (hv : isScalar d = false → d.toNat + n ≤ 96) :
    regFrame i g (resultPlaces g d.toNat n) s (advance i g (writeResult i d val g (atIssue i g s))) ∧
    ∀ k ∈ g.keys, ∀ j, j < n → writable (crewAt s g.slot) k (d.toNat + j) = true →
      landed (crewAt s g.slot) (place k (d.toNat + j)) = true →
      rawReg (crewAt (advance i g (writeResult i d val g (atIssue i g s))) g.slot) k (d.toNat + j) =
        (val (if isScalar d then g.lead else k)).getD j 0 := by
  have hw := writeResult_wrote i d val g (atIssue i g s)
  have hfp : (crewAt (writeResult i d val g (atIssue i g s)) g.slot).fpctl = (crewAt s g.slot).fpctl := by
    rw [((sameButRegs_atIssue hg).trans hw.crew).1]
  have h := result_spec_fp (x := (crewAt s g.slot).fpctl) (n := n) hg (fun k _ => Nat.le_of_eq (hn k))
    (fun k _ => by rw [hn]; exact ⟨hd, hv⟩) (by rw [hw.there]; exact present_atIssue hg) ⟨_, by rw [← hfp]⟩ hw.onlyCrew
  exact ⟨h.1, fun k hk j hj => h.2 k hk j (by rw [hn]; exact hj)⟩

/-- The same with flags ORed into FPCTL, each thread's result of its own length. -/
theorem result_spec_flags {i : Instr} {g : Group} {s : State} {d : Sel} {val : Nat → List Word} {n : Nat} (f : FpFlags)
    (hg : IsGroup g s) (hn : ∀ k ∈ g.keys, (val k).length ≤ n)
    (hd : ∀ k ∈ g.keys, d.toNat + (val k).length ≤ 128 ∧ (isScalar d = false → d.toNat + (val k).length ≤ 96)) :
    fpFrame i g (resultPlaces g d.toNat n) f s (advance i g (holdFloat i g (raiseFlags g.slot f (writeResult i d val g (atIssue i g s))))) ∧
    ∀ k ∈ g.keys, ∀ j, j < (val (if isScalar d then g.lead else k)).length →
      writable (crewAt s g.slot) k (d.toNat + j) = true → landed (crewAt s g.slot) (place k (d.toNat + j)) = true →
      rawReg (crewAt (advance i g (holdFloat i g (raiseFlags g.slot f (writeResult i d val g (atIssue i g s))))) g.slot) k (d.toNat + j) =
        (val (if isScalar d then g.lead else k)).getD j 0 := by
  have hw := writeResult_wrote i d val g (atIssue i g s)
  have hp : (tget (writeResult i d val g (atIssue i g s)).crews g.slot).isSome := by
    rw [hw.there]; exact present_atIssue hg
  have hfp : (crewAt (writeResult i d val g (atIssue i g s)) g.slot).fpctl = (crewAt s g.slot).fpctl := by
    rw [((sameButRegs_atIssue hg).trans hw.crew).1]
  refine result_spec_fp (x := (crewAt s g.slot).fpctl ||| f.toWord) hg hn hd
    (by rw [floatEnd_there]; exact hp) ?_ (floatEnd_onlyCrew f hw.onlyCrew)
  · rw [← hfp]; exact crewAt_floatEnd f hp

/-! ## Predicate results -/

theorem getLsbD_pow {p j : Nat} (hj : j < 8) : (BitVec.ofNat 8 (2 ^ p)).getLsbD j = decide (j = p) := by
  rw [BitVec.getLsbD_ofNat]
  simp only [hj, decide_true, Bool.true_and]
  rw [Nat.testBit_two_pow]
  simp [eq_comm]

/-- What every predicate is after one is set. -/
theorem rawPred_setRawPred {c : Crew} {k p k' p' : Nat} (v : Bool) (hp' : p' < 8) (hk : (threadAt c k).isSome) :
    rawPred (setRawPred k p v c) k' p' = if k' = k ∧ p' = p ∧ p ≠ 7 then v else rawPred c k' p' := by
  unfold setRawPred
  by_cases h7 : p = 7
  · simp [h7]
  · simp only [h7, if_false]
    unfold rawPred
    by_cases h7' : p' = 7
    · have : ¬ (p' = p) := by omega
      simp only [h7', if_true]
      split
      · omega
      · rfl
    · simp only [h7', if_false]
      rw [threadAt_setThreads]
      obtain ⟨u, hu⟩ := Option.isSome_iff_exists.mp hk
      by_cases hkk : k' = k
      · subst hkk
        simp only [if_true, hu, Option.map_some, true_and]
        by_cases hpp : p' = p
        · subst hpp
          have hm := getLsbD_pow (p := p') hp'
          cases v <;> simp only [h7, ne_eq, not_false_eq_true, and_self, if_true, if_false, Bool.false_eq_true,
            BitVec.getLsbD_or, BitVec.getLsbD_and, BitVec.getLsbD_not, hm] <;> simp
        · have hm := getLsbD_pow (p := p) hp'
          cases v <;> simp only [hpp, false_and, if_true, if_false, Bool.false_eq_true,
            BitVec.getLsbD_or, BitVec.getLsbD_and, BitVec.getLsbD_not, hm] <;> simp [hp']
      · simp [hkk]

theorem setRawPred_eq (k p : Nat) (v : Bool) (c : Crew) :
    setRawPred k p v c = { c with threads := (setRawPred k p v c).threads } := by
  unfold setRawPred; split <;> rfl

theorem setRawPred_thread (k p : Nat) (v : Bool) (c : Crew) (j : Nat) :
    (threadAt (setRawPred k p v c) j).map Thread.bareP = (threadAt c j).map Thread.bareP ∧
    (threadAt (setRawPred k p v c) j).bind (·.helper) = (threadAt c j).bind (·.helper) ∧
    (j ≠ k → threadAt (setRawPred k p v c) j = threadAt c j) := by
  unfold setRawPred
  split
  · exact ⟨rfl, rfl, fun _ => rfl⟩
  · rw [threadAt_setThreads]
    by_cases hj : j = k
    · subst hj
      simp only [if_true]
      cases threadAt c j with
      | none => exact ⟨rfl, rfl, fun _ => rfl⟩
      | some u => exact ⟨rfl, rfl, fun h => (h rfl).elim⟩
    · simp [hj]

/-- What predicate writes by threads of one crew can change. -/
structure WroteP (g : Group) (p : Nat) (s t : State) : Prop where
  only : t = { s with crews := t.crews }
  other : ∀ x, x ≠ g.slot → tget t.crews x = tget s.crews x
  there : (tget t.crews g.slot).isSome = (tget s.crews g.slot).isSome
  crew : sameButRegs (crewAt s g.slot) (crewAt t g.slot)
  bare : ∀ k, (threadAt (crewAt t g.slot) k).map Thread.bareP = (threadAt (crewAt s g.slot) k).map Thread.bareP
  regs : ∀ k n, rawReg (crewAt t g.slot) k n = rawReg (crewAt s g.slot) k n

/-- The crew after one predicate is set, but for p7, which is not. -/
theorem crewAt_writePredLat {slot k p : Nat} (lat : Nat) (v : Bool) {s : State} (hp : (tget s.crews slot).isSome) (h7 : p ≠ 7) :
    crewAt (writePredLat slot k p lat v s) slot =
      setRawPred k p v (noteHazard k (predPlace k p) lat s.clock (if rawPred (crewAt s slot) k p then 1 else 0) (crewAt s slot)) := by
  unfold writePredLat; rw [if_neg h7, crewAt_modCrew_same _ hp]

theorem wroteP_one (g : Group) (k p lat : Nat) (v : Bool) (s : State) (hp : (tget s.crews g.slot).isSome) :
    WroteP g p s (writePredLat g.slot k p lat v s) := by
  by_cases h7 : p = 7
  · have : writePredLat g.slot k p lat v s = s := by unfold writePredLat; rw [if_pos h7]
    rw [this]; exact ⟨rfl, fun _ _ => rfl, rfl, sameButRegs.refl _, fun _ => rfl, fun _ _ => rfl⟩
  have hc := crewAt_writePredLat (k := k) lat v hp h7
  have hm : ∃ f, writePredLat g.slot k p lat v s = modCrew g.slot f s := by
    unfold writePredLat; rw [if_neg h7]; exact ⟨_, rfl⟩
  obtain ⟨f, hm⟩ := hm
  refine ⟨by rw [hm]; rfl, fun x hx => by rw [hm]; exact tget_modCrew_other _ hx,
    by rw [hm]; exact tget_modCrew_isSome _ _ _ _, ?_, ?_, ?_⟩
  · rw [hc, setRawPred_eq]; exact ⟨rfl, rfl⟩
  · intro j
    rw [hc, (setRawPred_thread _ _ _ _ _).1]
    rfl
  · intro j n
    rw [hc]
    unfold rawReg
    rw [(setRawPred_thread _ _ _ _ _).2.1, setRawPred_eq]
    rfl

theorem rawPred_writePredLat {g : Group} {k p lat k' p' : Nat} {v : Bool} {s : State} (hp : (tget s.crews g.slot).isSome)
    (hp' : p' < 8) (hk : (threadAt (crewAt s g.slot) k).isSome) :
    rawPred (crewAt (writePredLat g.slot k p lat v s) g.slot) k' p' =
      if k' = k ∧ p' = p ∧ p ≠ 7 then v else rawPred (crewAt s g.slot) k' p' := by
  by_cases h7 : p = 7
  · have : writePredLat g.slot k p lat v s = s := by unfold writePredLat; rw [if_pos h7]
    rw [this]; simp [h7]
  rw [crewAt_writePredLat lat v hp h7]
  exact rawPred_setRawPred v hp' hk

theorem WroteP.trans {g : Group} {p : Nat} {a b c : State} (h : WroteP g p a b) (h' : WroteP g p b c) : WroteP g p a c := by
  refine ⟨?_, fun x hx => (h'.other x hx).trans (h.other x hx), h'.there.trans h.there, h.crew.trans h'.crew,
    fun k => (h'.bare k).trans (h.bare k), fun k n => (h'.regs k n).trans (h.regs k n)⟩
  conv => lhs; rw [h'.only, h.only]

/-- Predicate writes by the threads of a list. -/
theorem predWrites_spec {g : Group} {p lat : Nat} (val : Nat → Bool) (ks : List Nat) {s : State}
    (hp : (tget s.crews g.slot).isSome) (hk : ∀ k ∈ ks, (threadAt (crewAt s g.slot) k).isSome) :
    WroteP g p s (ks.foldl (fun s k => writePredLat g.slot k p lat (val k) s) s) ∧
    (∀ k', k' ∉ ks → threadAt (crewAt (ks.foldl (fun s k => writePredLat g.slot k p lat (val k) s) s) g.slot) k' =
      threadAt (crewAt s g.slot) k') ∧
    ∀ k' p', p' < 8 → rawPred (crewAt (ks.foldl (fun s k => writePredLat g.slot k p lat (val k) s) s) g.slot) k' p' =
      if k' ∈ ks ∧ p' = p ∧ p ≠ 7 then val k' else rawPred (crewAt s g.slot) k' p' := by
  induction ks generalizing s with
  | nil => exact ⟨⟨rfl, fun _ _ => rfl, rfl, sameButRegs.refl _, fun _ => rfl, fun _ _ => rfl⟩, fun _ _ => rfl, by simp⟩
  | cons k ks ih =>
    have h1 := wroteP_one g k p lat (val k) s hp
    have hsome : ∀ j, (threadAt (crewAt (writePredLat g.slot k p lat (val k) s) g.slot) j).isSome =
        (threadAt (crewAt s g.slot) j).isSome := by
      intro j
      have := congrArg Option.isSome (h1.bare j)
      simpa using this
    have hthr : ∀ j, j ≠ k → threadAt (crewAt (writePredLat g.slot k p lat (val k) s) g.slot) j =
        threadAt (crewAt s g.slot) j := by
      intro j hj
      by_cases h7 : p = 7
      · unfold writePredLat; rw [if_pos h7]
      · rw [crewAt_writePredLat lat (val k) hp h7, (setRawPred_thread _ _ _ _ _).2.2 hj]; rfl
    obtain ⟨h2, h3, h4⟩ := ih (s := writePredLat g.slot k p lat (val k) s) (by rw [h1.there]; exact hp)
      (fun j hj => by rw [hsome]; exact hk j (by simp [hj]))
    refine ⟨h1.trans h2, ?_, ?_⟩
    · intro k' hk'
      simp only [List.mem_cons, not_or] at hk'
      exact (h3 k' hk'.2).trans (hthr k' hk'.1)
    · intro k' p' hp'
      have hpl := rawPred_writePredLat (g := g) (lat := lat) (k' := k') (p := p) (v := val k) hp hp' (hk k (by simp))
      refine (h4 k' p' hp').trans ?_
      rw [hpl]
      by_cases hin : k' ∈ ks
      · simp only [hin, true_and, List.mem_cons, or_true]
        split
        · rfl
        · next hne =>
          split
          · next h => exact absurd ⟨h.2.1, h.2.2⟩ hne
          · rfl
      · by_cases hkk : k' = k
        · subst hkk; simp [hin]
        · simp [hin, hkk]

/-- An instruction with a predicate result, with FPCTL set to `x`: its frame and its results. -/
theorem pred_spec_fp {i : Instr} {g : Group} {s w' : State} {p : PSel} {val : Nat → Bool} {x : Word} (hg : IsGroup g s)
    (hp' : (tget w'.crews g.slot).isSome)
    (hcw : ∃ y, crewAt w' g.slot = { crewAt (writePred i p val g (atIssue i g s)) g.slot with fpctl := x, floatUntil := y })
    (hoc : onlyCrew g.slot (atIssue i g s) w') :
    crewFrame i g (predResultPlaces g p.toNat) { crewAt s g.slot with fpctl := x } s (advance i g w') ∧
    ∀ k ∈ g.keys, p.toNat ≠ 7 → rawPred (crewAt (advance i g w') g.slot) k p.toNat = val k := by
  obtain ⟨y, hcw⟩ := hcw
  have hp := present_atIssue (i := i) hg
  have hci := crewAt_atIssue (i := i) hg.present
  have hth : ∀ k, threadAt (crewAt (atIssue i g s) g.slot) k = threadAt (crewAt s g.slot) k := by intro k; rw [hci]; rfl
  have hspec := predWrites_spec (g := g) (p := p.toNat) (lat := i.latency) val g.keys hp (fun k hk => by
    rw [hth]; obtain ⟨u, hu, _⟩ := hg.members k hk; rw [hu]; rfl)
  rw [show g.keys.foldl (fun s k => writePredLat g.slot k p.toNat i.latency (val k) s) (atIssue i g s) =
    writePred i p val g (atIssue i g s) from rfl] at hspec
  obtain ⟨hw, ho, hv⟩ := hspec
  have htw : ∀ k, threadAt (crewAt w' g.slot) k = threadAt (crewAt (writePred i p val g (atIssue i g s)) g.slot) k := by
    intro k; rw [hcw]; rfl
  have hsame := (sameButRegs_atIssue (i := i) hg).trans hw.crew
  have hpw : ∀ k q, q < 8 → rawPred (crewAt w' g.slot) k q =
      if k ∈ g.keys ∧ q = p.toNat ∧ p.toNat ≠ 7 then val k else rawPred (crewAt (atIssue i g s) g.slot) k q := by
    intro k q hq
    rw [hcw]
    exact hv k q hq
  constructor
  · refine crewFrame_advance hg hoc hp' ?_ ?_ ?_ ?_ ?_
    · rw [hcw]
      refine ⟨?_, hsame.2⟩
      have h1 := hsame.1
      conv => lhs; rw [h1]
    · intro k n _ _ _
      rw [hcw]
      exact hw.regs k n
    · intro k q hq hpl
      rw [hpw k q hq]
      split
      · next h => exact absurd (List.mem_map.mpr ⟨k, h.1, by rw [h.2.1]⟩) hpl
      · rfl
    · intro k hk
      have := hw.bare k
      rw [hth, hk] at this
      rw [htw]
      simpa using this
    · intro k u hu
      rw [htw]
      have hb := hw.bare k
      rw [hth, hu] at hb
      cases hwk : threadAt (crewAt (writePred i p val g (atIssue i g s)) g.slot) k with
      | none =>
        rw [hwk] at hb
        simp at hb
      | some u' =>
        rw [hwk] at hb
        refine ⟨u', rfl, fun _ => by simpa using hb, fun hk => ?_⟩
        have h2 := ho k hk
        rw [hth, hu] at h2
        exact Option.some.inj (hwk.symm.trans h2)
  · intro k hk h7
    have hpa : rawPred (crewAt (advance i g w') g.slot) k p.toNat = rawPred (crewAt w' g.slot) k p.toNat := rawPred_advance i g hp' k _
    rw [hpa, hpw k _ (by have := p.isLt; omega)]
    simp [hk, h7]

theorem writePred_facts {i : Instr} {p : PSel} {val : Nat → Bool} {g : Group} {s : State} (hg : IsGroup g s) :
    WroteP g p.toNat (atIssue i g s) (writePred i p val g (atIssue i g s)) := by
  have hci := crewAt_atIssue (i := i) hg.present
  exact (predWrites_spec (g := g) (p := p.toNat) (lat := i.latency) val g.keys (present_atIssue hg) (fun k hk => by
    rw [hci]; obtain ⟨u, hu, _⟩ := hg.members k hk
    show (threadAt (crewAt s g.slot) k).isSome = true
    rw [hu]; rfl)).1

theorem WroteP.onlyCrew {g : Group} {p : Nat} {s w : State} (h : WroteP g p s w) : onlyCrew g.slot s w := by
  have e1 : w.clock = s.clock := by rw [h.only]
  have e2 : w.nonce = s.nonce := by rw [h.only]
  refine ⟨?_, h.other⟩
  rw [e1, e2]
  exact h.only

/-- An instruction with a predicate result: its frame and its results. -/
theorem pred_spec {i : Instr} {g : Group} {s : State} {p : PSel} {val : Nat → Bool} (hg : IsGroup g s) :
    regFrame i g (predResultPlaces g p.toNat) s (advance i g (writePred i p val g (atIssue i g s))) ∧
    predIs g (advance i g (writePred i p val g (atIssue i g s))) p val := by
  have hw := writePred_facts (i := i) (p := p) (val := val) hg
  have hfp : (crewAt (writePred i p val g (atIssue i g s)) g.slot).fpctl = (crewAt s g.slot).fpctl := by
    rw [((sameButRegs_atIssue hg).trans hw.crew).1]
  exact pred_spec_fp (x := (crewAt s g.slot).fpctl) hg (by rw [hw.there]; exact present_atIssue hg) ⟨_, by rw [← hfp]⟩
    hw.onlyCrew

/-- The same with flags ORed into FPCTL. -/
theorem pred_spec_flags {i : Instr} {g : Group} {s : State} {p : PSel} {val : Nat → Bool} (f : FpFlags) (hg : IsGroup g s) :
    fpFrame i g (predResultPlaces g p.toNat) f s (advance i g (holdFloat i g (raiseFlags g.slot f (writePred i p val g (atIssue i g s))))) ∧
    predIs g (advance i g (holdFloat i g (raiseFlags g.slot f (writePred i p val g (atIssue i g s))))) p val := by
  have hw := writePred_facts (i := i) (p := p) (val := val) hg
  have hp : (tget (writePred i p val g (atIssue i g s)).crews g.slot).isSome := by
    rw [hw.there]; exact present_atIssue hg
  have hfp : (crewAt (writePred i p val g (atIssue i g s)) g.slot).fpctl = (crewAt s g.slot).fpctl := by
    rw [((sameButRegs_atIssue hg).trans hw.crew).1]
  refine pred_spec_fp (x := (crewAt s g.slot).fpctl ||| f.toWord) hg
    (by rw [floatEnd_there]; exact hp) ?_ (floatEnd_onlyCrew f hw.onlyCrew)
  · rw [← hfp]; exact crewAt_floatEnd f hp

/-! ## The drivers -/

/-- A ready instruction's pairs and quads are aligned (01 R13), so that its destination lies among the registers. -/
theorem dest_bound {i : Instr} {g : Group} {s : State} {d : Sel} {n : Nat} (h : Ready i g s)
    (hd : ∃ o ∈ i.operands, o.sel = d ∧ o.words = n ∧ o.aligned = true) (hn : n = 1 ∨ n = 2 ∨ n = 4) :
    d.toNat + n ≤ 128 ∧ (isScalar d = false → d.toNat + n ≤ 96) := by
  have hal : i.aligned = true := by
    have h2 := h.2.1
    unfold groupTrap at h2
    simp only at h2
    by_cases ha : i.aligned = true
    · exact ha
    · exfalso
      have hb : (!i.aligned) = true := by simp [ha]
      rw [if_pos hb] at h2
      repeat' split at h2
      all_goals cases h2
  obtain ⟨o, ho, h3, h4, h5⟩ := hd
  have := List.all_eq_true.mp hal o ho
  unfold Opnd.isAligned at this
  rw [h5, h3, h4] at this
  simp at this
  have hlt := d.isLt
  simp only [isScalar, decide_eq_false_iff_not]
  rcases hn with rfl | rfl | rfl <;> omega

/-- A ready instruction of the register driver. -/
theorem regOp_spec {i : Instr} {d : Sel} {val : Reader → List Word} {g : Group} {s : State} {n : Nat} (h : Ready i g s)
    (hn : ∀ r, (val r).length = n) (hd : ∃ o ∈ i.operands, o.sel = d ∧ o.words = n ∧ o.aligned = true)
    (hn4 : n = 1 ∨ n = 2 ∨ n = 4) :
    ∃ t, regOp i d val s = .next t ∧ regFrame i g (resultPlaces g d.toNat n) s t ∧
      resultIs g s t d n (fun k j => (val (reads i g s k)).getD j 0) := by
  obtain ⟨b1, b2⟩ := dest_bound h hd hn4
  obtain ⟨h1, h2⟩ := result_spec (val := fun k => val (reads i g s k)) h.isGroup (fun k => hn _) b1 b2
  exact ⟨_, issue_ready _ h, h1, h2⟩

/-- A ready instruction with a register result of one word, whose value is shown equal to another form. -/
theorem regWord_spec {r : Host.Outcome State Fault Refusal} {i : Instr} {d : Sel} {f f' : Reader → Word} {g : Group}
    {s : State} (he : r = regOp i d (fun rd => [f rd]) s) (h : Ready i g s)
    (hd : ∃ o ∈ i.operands, o.sel = d ∧ o.words = 1 ∧ o.aligned = true) (hf : ∀ rd, f rd = f' rd) :
    ∃ t, r = .next t ∧ regFrame i g (resultPlaces g d.toNat 1) s t ∧
      resultIs g s t d 1 (fun k _ => f' (reads i g s k)) := by
  obtain ⟨t, h1, h2, h3⟩ := regOp_spec (val := fun rd => [f rd]) h (fun _ => rfl) hd (.inl rfl)
  refine ⟨t, he.trans h1, h2, fun k hk j hj a b => ?_⟩
  obtain rfl : j = 0 := by omega
  exact (h3 k hk 0 hj a b).trans (hf _)

/-- A ready instruction with a result of one double in a pair. -/
theorem regPair_spec {r : Host.Outcome State Fault Refusal} {i : Instr} {d : Sel} {f f' : Reader → DWord} {g : Group}
    {s : State} (he : r = regOp i d (fun rd => splitWords (f rd)) s) (h : Ready i g s)
    (hd : ∃ o ∈ i.operands, o.sel = d ∧ o.words = 2 ∧ o.aligned = true) (hf : ∀ rd, f rd = f' rd) :
    ∃ t, r = .next t ∧ regFrame i g (resultPlaces g d.toNat 2) s t ∧
      resultIs g s t d 2 (fun k j => (f' (reads i g s k)).extractLsb' (32 * j) 32) := by
  obtain ⟨t, h1, h2, h3⟩ := regOp_spec (n := 2) (val := fun rd => splitWords (f rd)) h (fun _ => rfl) hd (.inr (.inl rfl))
  refine ⟨t, he.trans h1, h2, fun k hk j hj a b => ?_⟩
  refine (h3 k hk j hj a b).trans ?_
  simp only [hf]
  have hj2 : j = 0 ∨ j = 1 := by omega
  rcases hj2 with rfl | rfl
  · apply BitVec.eq_of_toNat_eq; simp [splitWords]
  · apply BitVec.eq_of_toNat_eq; simp [splitWords]

/-- A ready instruction of the predicate driver. -/
theorem predOp_spec {i : Instr} {p : PSel} {val : Reader → Bool} {g : Group} {s : State} (h : Ready i g s) :
    ∃ t, predOp i p val s = .next t ∧ regFrame i g (predResultPlaces g p.toNat) s t ∧
      predIs g t p (fun k => val (reads i g s k)) := by
  obtain ⟨h1, h2⟩ := pred_spec (i := i) (p := p) (val := fun k => val (reads i g s k)) h.isGroup
  exact ⟨_, issue_ready _ h, h1, h2⟩

/-- A ready instruction of the floating-point driver. -/
theorem fpOp_spec {i : Instr} {d : Sel} {val : Nat → Reader → List Word × FpFlags} {g : Group} {s : State} {n : Nat}
    (h : Ready i g s) (hn : ∀ m r, (val m r).1.length = n)
    (hd : ∃ o ∈ i.operands, o.sel = d ∧ o.words = n ∧ o.aligned = true) (hn4 : n = 1 ∨ n = 2 ∨ n = 4) :
    ∃ t, fpOp i d val s = .next t ∧
      fpFrame i g (resultPlaces g d.toNat n)
        (flagsOf (fun k => (val (roundMode (atIssue i g s) g.slot) (reads i g s k)).2) (computing g d)) s t ∧
      resultIs g s t d n (fun k j => (val (roundMode (atIssue i g s) g.slot) (reads i g s k)).1.getD j 0) := by
  obtain ⟨b1, b2⟩ := dest_bound h hd hn4
  obtain ⟨h1, h2⟩ := result_spec_flags (val := fun k => (val (roundMode (atIssue i g s) g.slot) (reads i g s k)).1)
    (flagsOf (fun k => (val (roundMode (atIssue i g s) g.slot) (reads i g s k)).2) (computing g d)) h.isGroup
    (fun k _ => Nat.le_of_eq (hn _ _)) (fun k _ => by rw [hn]; exact ⟨b1, b2⟩)
  exact ⟨_, issue_ready _ h, h1, fun k hk j hj => h2 k hk j (by rw [hn]; exact hj)⟩

/-- A ready instruction of the floating-point compare driver. -/
theorem fpPredOp_spec {i : Instr} {p : PSel} {val : Reader → Bool × FpFlags} {g : Group} {s : State} (h : Ready i g s) :
    ∃ t, fpPredOp i p val s = .next t ∧
      fpFrame i g (predResultPlaces g p.toNat) (flagsOf (fun k => (val (reads i g s k)).2) g.keys) s t ∧
      predIs g t p (fun k => (val (reads i g s k)).1) := by
  obtain ⟨h1, h2⟩ := pred_spec_flags (i := i) (p := p) (val := fun k => (val (reads i g s k)).1)
    (flagsOf (fun k => (val (reads i g s k)).2) g.keys) h.isGroup
  exact ⟨_, issue_ready _ h, h1, h2⟩

end Sys2Proof.Machine
end

