-- ==== Sys2Proof/Laws/Exec.lean ====
section
/-!
SUPPORT. Laws of exec over all instructions: an instruction word issues, and every other step, packet or message answers a
next state.
-/
namespace Sys2Proof.Machine

/-- The meaning of every instruction word is an issue by the group in focus. -/
theorem exec_issues (i : Instr) (s : State) (h : i.isWord = true) : ∃ body, exec i s = issue i body s := by
  cases i <;> first | exact ⟨_, rfl⟩ | exact Bool.noConfusion h

/-- An instruction word answers a next state when there is a group in focus. -/
theorem exec_word_next {i : Instr} {s : State} {g : Group} (h : i.isWord = true) (hg : focusGroup s = some g) :
    ∃ t, exec i s = .next t := by
  obtain ⟨body, hb⟩ := exec_issues i s h
  exact ⟨issueGroup i body g s, by rw [hb, issue, hg]⟩

theorem request_next (type : Nat) (r : Req) (a : Access) (body : State → Nat × List Byte × State) (s : State) :
    ∃ t, request type r a body s = .next t := ⟨_, rfl⟩

theorem packetOp_next (src : PktSrc) (f : List PktField) (priv : Bool) (k : Scope) (need : List Nat)
    (body : Nat → State → PktEnd) (s : State) : ∃ t, packetOp src f priv k need body s = .next t := ⟨_, rfl⟩

theorem whenLoaded_next (f : State → State) (s : State) : ∃ t, whenLoaded f s = .next t := ⟨_, rfl⟩

/-- The events whose meanings look at the state before they answer. -/
theorem exec_lookup_next (s : State) (n m l k : Nat) (r : Req) (who : Tid) (bs : List Byte) :
    (∃ t, exec (.atomicAtHome n) s = .next t) ∧ (∃ t, exec (.netRetransmitTimeout n m) s = .next t) ∧
      (∃ t, exec (.netTransportFailure n m) s = .next t) ∧ (∃ t, exec (.cpnetComplete n m bs) s = .next t) ∧
      (∃ t, exec (.pageWalk n m) s = .next t) ∧ (∃ t, exec (.pendingStoreEvent n who m) s = .next t) ∧
      (∃ t, exec (.dread r n m l k) s = .next t) ∧ ∃ t, exec (.reccommit r) s = .next t := by
  refine ⟨?_, ?_, ?_, ?_, ?_, ?_, ?_, ?_⟩ <;>
    simp only [exec, execAtomicAtHome, execNetRetransmitTimeout, execNetTransportFailure, execCpnetComplete, execPageWalk,
      execPendingStoreEvent, execDread, execReccommit, request] <;> repeat' split
  all_goals exact ⟨_, rfl⟩

/-- What is no instruction word answers a next state in every state. -/
theorem exec_event_next (i : Instr) (s : State) (h : i.isWord = false) (hf : i ≠ .clauseFetch) : ∃ t, exec i s = .next t := by
  cases i <;> first
    | exact ⟨_, rfl⟩
    | exact Bool.noConfusion h
    | exact absurd rfl hf
    | exact (exec_lookup_next s _ 0 0 0 default default []).1
    | exact (exec_lookup_next s _ _ 0 0 default default []).2.1
    | exact (exec_lookup_next s _ _ 0 0 default default []).2.2.1
    | exact (exec_lookup_next s _ _ 0 0 default default _).2.2.2.1
    | exact (exec_lookup_next s _ _ 0 0 default default []).2.2.2.2.1
    | exact (exec_lookup_next s _ _ 0 0 default _ []).2.2.2.2.2.1
    | exact (exec_lookup_next s _ _ _ _ _ default []).2.2.2.2.2.2.1
    | exact (exec_lookup_next s 0 0 0 0 _ default []).2.2.2.2.2.2.2

theorem execClauseFetch_next {s : State} {g : Group} (hg : focusGroup s = some g) : ∃ t, exec .clauseFetch s = .next t := by
  show ∃ t, execClauseFetch s = .next t
  simp only [execClauseFetch, hg]
  exact ⟨_, rfl⟩

/-- A packet that is turned away by a check that packets share ends with its status. -/
theorem packetOp_refused {src : PktSrc} {f : List PktField} {priv : Bool} {k : Scope} {need : List Nat}
    (body : Nat → State → PktEnd) {s : State} (h : heldBy s src = some .parsing) (hs : packetStatus s src f priv k need ≠ 0) :
    packetOp src f priv k need body s = .next (finishPacket src (packetStatus s src f priv k need) s) := by
  simp [packetOp, atPacket, h, hs]

/-- A packet that passes them takes effect. -/
theorem packetOp_performed {src : PktSrc} {f : List PktField} {priv : Bool} {k : Scope} {need : List Nat}
    (body : Nat → State → PktEnd) {s : State} (h : heldBy s src = some .parsing) (hs : packetStatus s src f priv k need = 0) :
    packetOp src f priv k need body s = .next (endPacket src (body (packetCtx s src f k) s)) := by
  simp [packetOp, atPacket, h, hs]

/-- A packet whose source does not stand at one does nothing. -/
theorem packetOp_idle {src : PktSrc} {f : List PktField} {priv : Bool} {k : Scope} {need : List Nat}
    (body : Nat → State → PktEnd) {s : State} (h : heldBy s src ≠ some .parsing) :
    packetOp src f priv k need body s = .next s := by
  simp [packetOp, atPacket, h]

end Sys2Proof.Machine
end

