-- ==== Sys2Proof/Laws/Memory.lean ====
section
/-!
SUPPORT. Laws of memory: what is read after a store, and that the operations that change memory keep its canonical form.
-/
namespace Sys2Proof.Machine

/-! ## Folds -/

/-- What every step of a fold keeps, the fold keeps. -/
theorem foldl_keeps {σ α : Type} (P : σ → Prop) (f : σ → α → σ) (h : ∀ s a, P s → P (f s a)) (l : List α) {s : σ} (hs : P s) :
    P (l.foldl f s) := by
  induction l generalizing s with
  | nil => exact hs
  | cons a l ih => exact ih (h s a hs)

/-- A function of the state that no step of a fold changes, the fold does not change. -/
theorem foldl_same {σ α β : Type} (m : σ → β) (f : σ → α → σ) (h : ∀ s a, m (f s a) = m s) (l : List α) (s : σ) :
    m (l.foldl f s) = m s := by
  induction l generalizing s with
  | nil => rfl
  | cons a l ih => rw [List.foldl_cons, ih, h]

/-! ## Bytes -/

theorem setBytes_wf {m : List Host.Cell} (pa : Nat) (bs : List Byte) (h : Memory.wf m = true) :
    Memory.wf (setBytes pa bs m) = true := by
  induction bs generalizing pa m with
  | nil => exact h
  | cons b bs ih => exact ih (pa + 1) (trises_tset pa b h)

/-- Reading one byte after bytes have been set. -/
theorem tget_setBytes (m : List Host.Cell) (pa : Nat) (bs : List Byte) (a : Nat) :
    tget (setBytes pa bs m) a = if pa ≤ a ∧ a < pa + bs.length then bs[a - pa]? else tget m a := by
  induction bs generalizing pa m with
  | nil => simp only [setBytes, List.length_nil]; rw [if_neg (by omega)]
  | cons b bs ih =>
    simp only [setBytes, ih, List.length_cons, tget_tset]
    by_cases ha : a = pa
    · subst ha
      rw [if_neg (by omega), if_pos rfl, if_pos (by omega)]; simp
    · by_cases hr : pa + 1 ≤ a ∧ a < pa + 1 + bs.length
      · rw [if_pos hr, if_pos (by omega)]
        have : a - pa = (a - (pa + 1)) + 1 := by omega
        rw [this, List.getElem?_cons_succ]
      · rw [if_neg hr, if_neg ha, if_neg (by omega)]

/-! ## Stores -/

@[simp] theorem noteOld_mem (pa : Nat) (s : State) : (noteOld pa s).mem = s.mem := by
  simp only [noteOld]; split <;> rfl
@[simp] theorem noteOld_voids (pa : Nat) (s : State) : (noteOld pa s).voids = s.voids := by
  simp only [noteOld]; split <;> rfl

@[simp] theorem memStore_mem (pa : Nat) (bs : List Byte) (s : State) : (memStore pa bs s).mem = setBytes pa bs s.mem := by
  show setBytes pa bs (((wordsTouched pa bs.length).foldl (fun s w => noteOld w s) s).mem) = _
  rw [foldl_same (fun s : State => s.mem) (fun s w => noteOld w s) (fun s a => noteOld_mem a s)]

@[simp] theorem memStore_voids (pa : Nat) (bs : List Byte) (s : State) : (memStore pa bs s).voids = s.voids := by
  show (((wordsTouched pa bs.length).foldl (fun s w => noteOld w s) s).voids) = _
  rw [foldl_same (fun s : State => s.voids) (fun s w => noteOld w s) (fun s a => noteOld_voids a s)]

/-- A byte after a store: the stored one inside the run, the old one outside. -/
theorem memByte_memStore (pa : Nat) (bs : List Byte) (s : State) (a : Nat) :
    memByte (memStore pa bs s) a = if pa ≤ a ∧ a < pa + bs.length then bs.getD (a - pa) 0 else memByte s a := by
  simp only [memByte, unlistedByte, memStore_mem, memStore_voids, tget_setBytes]
  by_cases h : pa ≤ a ∧ a < pa + bs.length
  · have hl : a - pa < bs.length := by omega
    simp [h, List.getElem?_eq_getElem hl]
  · simp [h]

theorem memStore_wf {s : State} (pa : Nat) (bs : List Byte) (h : Memory.wf s.mem = true) :
    Memory.wf (memStore pa bs s).mem = true := by
  rw [memStore_mem]; exact setBytes_wf pa bs h

theorem voidRange_wf {s : State} (pa n : Nat) (h : Memory.wf s.mem = true) : Memory.wf (voidRange pa n s).mem = true :=
  trises_filter _ h

theorem storeUnless_wf {s : State} (lost : Bool) (pa : Nat) (bs : List Byte) (h : Memory.wf s.mem = true) :
    Memory.wf (storeUnless lost pa bs s).mem = true := by
  cases lost
  · exact memStore_wf _ _ h
  · exact voidRange_wf _ _ (memStore_wf _ _ h)

theorem leafStore_wf {s : State} (pa : Nat) (bs : List Byte) (h : Memory.wf s.mem = true) :
    Memory.wf (leafStore pa bs s).mem = true := storeUnless_wf _ _ _ h

/-- Outside a range whose bytes become unspecified every byte reads as before. -/
theorem memByte_voidRange {pa n a : Nat} (s : State) (h : a < pa ∨ pa + n ≤ a) : memByte (voidRange pa n s) a = memByte s a := by
  have hm : tget (voidRange pa n s).mem a = tget s.mem a := by
    show tget (s.mem.filter _) a = _
    generalize s.mem = m
    induction m with
    | nil => rfl
    | cons e m ih =>
      obtain ⟨k, v⟩ := e
      simp only [List.filter_cons]
      split
      · simp only [tget, ih]
      · next hk =>
        simp only [decide_eq_true_eq] at hk
        rw [ih]; simp only [tget]; rw [if_neg]; intro he; subst he; exact hk h
  have hv : voidSince (voidRange pa n s).voids a = voidSince s.voids a := by
    show voidSince ((pa, n, s.nonce + 1) :: s.voids) a = _
    simp only [voidSince, List.find?_cons]
    rw [show decide (pa ≤ a ∧ a < pa + n) = false from decide_eq_false (by omega)]
  simp only [memByte, unlistedByte, hm, hv]

/-! ## Page tables -/

theorem markLeaf_wf {s : State} (l : Leaf) (bit : Nat) (h : Memory.wf s.mem = true) :
    Memory.wf (markLeaf l bit s).mem = true := by
  simp only [markLeaf]; split
  · exact h
  · exact setBytes_wf _ _ h

@[simp] theorem packBytes_mem (l : Leaf) (pa n : Nat) (s : State) : (packBytes l pa n s).mem = s.mem := by
  unfold packBytes; split <;> rfl

theorem openLeaf_wf {s : State} (l : Leaf) (pa n : Nat) (h : Memory.wf s.mem = true) : Memory.wf (openLeaf l pa n s).mem = true :=
  markLeaf_wf l 11 (by rw [packBytes_mem]; exact h)

theorem cacheLeaf_wf {s : State} (ctx va : Nat) (l : Leaf) (h : Memory.wf s.mem = true) :
    Memory.wf (cacheLeaf ctx va l s).mem = true := by
  simp only [cacheLeaf]; split
  · split
    · exact h
    · exact markLeaf_wf l 10 h
  · exact markLeaf_wf (s := { s with tlb := _ }) l 10 h

theorem storeCtx_wf {s t : State} {ctx va : Nat} {bs : List Byte} (h : Memory.wf s.mem = true)
    (hs : storeCtx ctx va bs s = some t) : Memory.wf t.mem = true := by
  simp only [storeCtx] at hs; split at hs
  · obtain rfl := Option.some.inj hs
    refine foldl_keeps (fun s : State => Memory.wf s.mem = true) _ (fun st p hst => ?_) _ h
    split
    · exact leafStore_wf _ _ (openLeaf_wf _ _ _ (cacheLeaf_wf _ _ _ hst))
    · exact hst
  · cases hs

/-! ## Scratchpad leaves memory alone -/

@[simp] theorem bankPut_mem (cl key : Nat) (bs : List Byte) (s : State) : (bankPut cl key bs s).mem = s.mem := rfl

@[simp] theorem wakeSync_mem (cl key : Nat) (s : State) : (wakeSync cl key s).mem = s.mem := by
  simp only [wakeSync]; split <;> rfl

@[simp] theorem bankStore_mem (cl key : Nat) (bs : List Byte) (s : State) : (bankStore cl key bs s).mem = s.mem := by
  show ((sectorsTouched key bs.length).foldl (fun s k => wakeSync cl k s) (bankPut cl key bs s)).mem = _
  rw [foldl_same (fun s : State => s.mem) (fun s k => wakeSync cl k s) (fun s k => wakeSync_mem cl k s)]; rfl

/-! ## Pending stores, loads and stores -/

theorem performPending_wf {s : State} (p : Pending) (h : Memory.wf s.mem = true) :
    Memory.wf (performPending p s).mem = true := by
  simp only [performPending]; split
  · exact leafStore_wf _ _ h
  · split
    · rw [bankStore_mem]; exact h
    · exact h

theorem flushCrew_wf {s : State} (slot : Nat) (sel : Pending → Bool) (h : Memory.wf s.mem = true) :
    Memory.wf (flushCrew slot sel s).mem = true := by
  simp only [flushCrew]; split
  · exact h
  · exact foldl_keeps (fun s : State => Memory.wf s.mem = true) _ (fun s p hs => performPending_wf p hs) _ h

theorem flushWhere_wf {s : State} (slot : Nat) (ks : List Nat) (sel : Pending → Bool) (h : Memory.wf s.mem = true) :
    Memory.wf (flushWhere slot ks sel s).mem = true := flushCrew_wf _ _ h

theorem settleBytes_wf {s : State} (slot : Nat) (ks : List Nat) (cl : Option Nat) (a n : Nat) (h : Memory.wf s.mem = true) :
    Memory.wf (settleBytes slot ks cl a n s).mem = true := flushWhere_wf _ _ _ h

theorem beforeAccess_wf {s : State} (slot : Nat) (ks : List Nat) (r : Reach) (h : Memory.wf s.mem = true) :
    Memory.wf (beforeAccess slot ks r s).mem = true := by
  simp only [beforeAccess]; split
  · exact flushWhere_wf _ _ _ h
  · exact h

@[simp] theorem addPending_mem (slot : Nat) (p : Pending) (s : State) : (addPending slot p s).mem = s.mem := rfl

@[simp] theorem raiseEvent_mem (ws : List Word) (s : State) : (raiseEvent ws s).mem = s.mem := by
  simp only [raiseEvent, transmit]; split
  · split <;> rfl
  · rfl

@[simp] theorem stopQueue_mem (n : Nat) (s : State) : (stopQueue n s).mem = s.mem := by
  simp only [stopQueue, raiseEvent_mem]; rfl

@[simp] theorem kickQueue_mem (n : Nat) (w : Word) (s : State) : (kickQueue n w s).mem = s.mem := by
  have hm : (moveKidx n w s).mem = s.mem := by simp only [moveKidx]; split <;> rfl
  simp only [kickQueue]; split
  · split
    · rw [stopQueue_mem, hm]
    · exact hm
  · rfl

@[simp] theorem windowStore_mem (off : Nat) (w : Word) (s : State) : (windowStore off w s).mem = s.mem := by
  simp only [windowStore]; split
  · exact kickQueue_mem _ _ _
  · rfl

theorem storeBytes_wf {s : State} (slot : Nat) (ks : List Nat) (id : Nat) (r : Reach) (nt : Bool) (bs : List Byte)
    (h : Memory.wf s.mem = true) : Memory.wf (storeBytes slot ks id r nt bs s).mem = true := by
  cases r with
  | mem pa l =>
    have hm := openLeaf_wf l pa bs.length h
    show Memory.wf (if l.type = 1 then _ else _ : State).mem = true
    split
    · exact hm
    · split
      · exact hm
      · exact leafStore_wf _ _ (settleBytes_wf _ _ _ _ _ hm)
  | bank cl key =>
    simp only [storeBytes]; split
    · exact h
    · rw [bankStore_mem]; exact settleBytes_wf _ _ _ _ _ h
  | reg off l =>
    have hm := markLeaf_wf l 11 h
    simp only [storeBytes]; split <;> simpa only [windowStore_mem] using hm
  | port cl b n => exact h

/-! ## Kills and migrations -/

theorem mixSectors_wf {old new : State} (h : Memory.wf new.mem = true) : Memory.wf (mixSectors old new).mem = true := by
  have key : ∀ (m : List Host.Cell) (n : Option Nat) (f : Host.Cell → Option Host.Cell), (∀ e x, f e = some x → x.1 = e.1) →
      trisesFrom n m = true → trisesFrom n (m.filterMap f) = true := by
    intro m
    induction m with
    | nil => intro n f _ _; cases n <;> rfl
    | cons e m ih =>
      obtain ⟨k, v⟩ := e
      intro n f hf hm
      simp only [List.filterMap_cons]
      cases hx : f (k, v) with
      | none =>
        cases n with
        | none => exact ih none f hf (trisesFrom_none_of_some (n := k) hm)
        | some n =>
          simp only [trisesFrom, Bool.and_eq_true, decide_eq_true_eq] at hm
          exact ih (some n) f hf (trisesFrom_mono (Nat.le_of_lt hm.1) hm.2)
      | some x =>
        obtain ⟨k', v'⟩ := x
        obtain rfl : k' = k := hf _ _ hx
        cases n with
        | none => exact ih (some k') f hf hm
        | some n =>
          simp only [trisesFrom, Bool.and_eq_true, decide_eq_true_eq] at hm ⊢
          exact ⟨hm.1, ih (some k') f hf hm.2⟩
  refine key new.mem none _ (fun e x hx => ?_) h
  simp only [] at hx
  split at hx
  · exact (Option.some.inj hx) ▸ rfl
  · cases ho : tget old.mem e.1 with
    | none => simp [ho] at hx
    | some b => simp [ho] at hx; exact hx ▸ rfl

/-- Tables with rising keys, one all below the other, are a table with rising keys. -/
theorem trisesFrom_append {α : Type} {l r : Table α} {g : Nat} {n : Option Nat} (hl : trisesFrom n l = true)
    (hb : ∀ e ∈ l, e.1 < g) (hr : ∀ k, (k < g) → trisesFrom (some k) r = true) (hn : n = none → trisesFrom none r = true)
    (hk : ∀ k, n = some k → k < g) : trisesFrom n (l ++ r) = true := by
  induction l generalizing n with
  | nil =>
    cases n with
    | none => exact hn rfl
    | some k => exact hr k (hk k rfl)
  | cons e l ih =>
    obtain ⟨k, v⟩ := e
    have hkg : k < g := hb (k, v) (by simp)
    have ih' := fun h => ih (n := some k) h (fun e he => hb e (by simp [he])) (by simp) (fun j hj => by cases hj; exact hkg)
    cases n with
    | none => exact ih' hl
    | some m =>
      simp only [List.cons_append, trisesFrom, Bool.and_eq_true, decide_eq_true_eq] at hl ⊢
      exact ⟨hl.1, ih' hl.2⟩

end Sys2Proof.Machine
end

