-- ==== Sys2Proof/Tests/Slice0.lean ====
section
/-!
SUPPORT. Small tests: decoding against words written out from the encodings of the spec, ill-formed words that the checks
refuse, single steps with results worked out from the rules, and a state and operands for the hypotheses of each statement.
-/
namespace Sys2Proof.Tests
open Sys2Proof Sys2Proof.Machine Sys2Proof.Claim

/-! ## Decoding (02 R34 to R38)

Each word is written field by field, major opcode first; LIT and RECRUIT take a literal word. -/

/-- The first word, with the second after it, decodes to the instruction, which encodes to them again. -/
def decodesTo (e : Word × Word × Instr) : Bool :=
  decodeWord e.1 e.2.1 == some e.2.2 && encode e.2.2 == (if e.2.2.words = 2 then [e.1, e.2.1] else [e.1])

theorem test_decode_integer : ([
    (0b0000000_0000101_0000110_0000111_1_011#32, 0, .iadd 5 6 7 true 3),
    (0b0000001_0000101_0000110_0000111_1_011#32, 0, .isub 5 6 7 true 3),
    (0b0000010_0000101_0000110_0000111_1_011#32, 0, .imul 5 6 7 true 3),
    (0b0000011_0000101_0000110_0000111_1_011#32, 0, .imulhi 5 6 7 true 3),
    (0b0000100_0000101_0000110_0000111_1_011#32, 0, .imulhu 5 6 7 true 3),
    (0b0000101_0000101_0000110_0000111_1_011#32, 0, .imad 5 6 7 true 3),
    (0b0000110_0000101_0000110_0000111_1_011#32, 0, .and 5 6 7 true 3),
    (0b0000111_0000101_0000110_0000111_1_011#32, 0, .or 5 6 7 true 3),
    (0b0001000_0000101_0000110_0000111_1_011#32, 0, .xor 5 6 7 true 3),
    (0b0001001_0000101_0000110_0000111_1_011#32, 0, .andn 5 6 7 true 3),
    (0b0001010_0000101_0000110_0000111_1_011#32, 0, .shl 5 6 7 true 3),
    (0b0001011_0000101_0000110_0000111_1_011#32, 0, .shr 5 6 7 true 3),
    (0b0001100_0000101_0000110_0000111_1_011#32, 0, .sar 5 6 7 true 3),
    (0b0001101_0000101_0000110_0000111_1_011#32, 0, .imin 5 6 7 true 3),
    (0b0001110_0000101_0000110_0000111_1_011#32, 0, .imax 5 6 7 true 3),
    (0b0001111_0000101_0000110_0000111_1_011#32, 0, .umin 5 6 7 true 3),
    (0b0011110_0000101_0000110_0000111_1_011#32, 0, .umax 5 6 7 true 3),
    (0b0010000_0000101_0000110_10000101_011#32, 0, .iaddi 5 6 0x85 3),
    (0b0010001_0000101_0000110_10000101_011#32, 0, .andi 5 6 0x85 3),
    (0b0010010_0000101_0000110_10000101_011#32, 0, .ori 5 6 0x85 3),
    (0b0010011_0000101_0000110_10000101_011#32, 0, .xori 5 6 0x85 3),
    (0b0010100_0000101_0000110_000_00101_011#32, 0, .shli 5 6 5 3),
    (0b0010101_0000101_0000110_000_00101_011#32, 0, .shri 5 6 5 3),
    (0b0010110_0000101_0000110_000_00101_011#32, 0, .sari 5 6 5 3),
    (0b0010111_0000101_0000110_10000101_011#32, 0, .imuli 5 6 0x85 3),
    (0b0011000_0000101_0000110_0000111_1_011#32, 0, .iadd64 5 6 7 true 3),
    (0b0011001_0000101_0000110_0000111_1_011#32, 0, .isub64 5 6 7 true 3),
    (0b0011010_0000101_0000110_0000111_0_10_1#32, 0, .lea 5 6 7 2 true),
    (0b0011011_0000101_0000110_0000111_1_011#32, 0, .bfe 5 6 7 true 3),
    (0b0011100_0000101_0000110_0000111_1_011#32, 0, .bfi 5 6 7 true 3)] : List (Word × Word × Instr)).all decodesTo = true := by decide

theorem test_decode_bits_and_moves : ([
    (0b0011101_0000101_0000110_00000000_011#32, 0, .popc 5 6 3),
    (0b0011101_0000101_0000110_00000010_011#32, 0, .clz 5 6 3),
    (0b0011101_0000101_0000110_00000100_011#32, 0, .ctz 5 6 3),
    (0b0011101_0000101_0000110_00000110_011#32, 0, .brev 5 6 3),
    (0b0011101_0000101_0000110_00001000_011#32, 0, .bswap 5 6 3),
    (0b0011101_0000101_0000110_00001010_011#32, 0, .iabs 5 6 3),
    (0b0011101_0000101_0000110_00001100_011#32, 0, .ineg 5 6 3),
    (0b0011101_0000101_0000110_00001110_011#32, 0, .not 5 6 3),
    (0b0011111_0000101_0000110_0000111_1_011#32, 0, .idot4 5 6 7 true 3),
    (0b0100000_0000101_0000110_00000000_011#32, 0, .mov 5 6 3),
    (0b0100001_0000101_100000000000101_011#32, 0, .movi 5 0x4005 3),
    (0b0100010_0000101_000000000000000_011#32, 0xFEDCBA98, .lit 5 3 0xFEDCBA98),
    (0b0100011_010_1010_0000101_0000110_1_011#32, 0, .icmp 2 0xA 5 6 true 3),
    (0b0100100_0000101_0000110_0000111_010_1#32, 0, .sel 5 6 7 2 true),
    (0b0100101_010_1010_0000_011_0000_110_0_011#32, 0, .plop 2 0xA 3 6 3),
    (0b0100110_0000101_000000000000000000#32, 0, .pget 5),
    (0b0100110_0000000_0000101_00000000001#32, 0, .pset 5),
    (0b0100111_0000101_0000000_10000101_011#32, 0, .sreg 5 0x85 3)] : List (Word × Word × Instr)).all decodesTo = true := by decide

theorem test_decode_fp32 : ([
    (0b0101000_0000101_0000110_0000111_1_011#32, 0, .fadd 5 6 7 true 3),
    (0b0101001_0000101_0000110_0000111_1_011#32, 0, .fsub 5 6 7 true 3),
    (0b0101010_0000101_0000110_0000111_1_011#32, 0, .fmul 5 6 7 true 3),
    (0b0101011_0000101_0000110_0000111_1_011#32, 0, .ffma 5 6 7 true 3),
    (0b0101100_0000101_0000110_0000111_1_011#32, 0, .fmin 5 6 7 true 3),
    (0b0101101_0000101_0000110_0000111_1_011#32, 0, .fmax 5 6 7 true 3),
    (0b0101110_010_1010_0000101_0000110_1_011#32, 0, .fcmp 2 0xA 5 6 true 3),
    (0b0101111_0000101_0000110_00000000_011#32, 0, .fabs 5 6 3),
    (0b0101111_0000101_0000110_00000010_011#32, 0, .fneg 5 6 3),
    (0b0101111_0000101_0000110_00000100_011#32, 0, .frcp 5 6 3),
    (0b0101111_0000101_0000110_00000110_011#32, 0, .frsq 5 6 3),
    (0b0101111_0000101_0000110_00001000_011#32, 0, .fsqrt 5 6 3),
    (0b0101111_0000101_0000110_00001010_011#32, 0, .fexp2 5 6 3),
    (0b0101111_0000101_0000110_00001100_011#32, 0, .flog2 5 6 3),
    (0b0101111_0000101_0000110_00001110_011#32, 0, .fsin 5 6 3),
    (0b0101111_0000101_0000110_00010000_011#32, 0, .fcos 5 6 3),
    (0b0101111_0000101_0000110_00010010_011#32, 0, .ffloor 5 6 3),
    (0b0101111_0000101_0000110_00010100_011#32, 0, .fceil 5 6 3),
    (0b0101111_0000101_0000110_00010110_011#32, 0, .ftrunc 5 6 3),
    (0b0101111_0000101_0000110_00011000_011#32, 0, .frint 5 6 3),
    (0b0101111_0000101_0000110_00011010_011#32, 0, .fclass 5 6 3)] : List (Word × Word × Instr)).all decodesTo = true := by decide

theorem test_decode_packed_and_fp64 : ([
    (0b0110000_0000101_0000110_0000111_1_011#32, 0, .hadd2 5 6 7 true 3),
    (0b0110001_0000101_0000110_0000111_1_011#32, 0, .hmul2 5 6 7 true 3),
    (0b0110010_0000101_0000110_0000111_1_011#32, 0, .hfma2 5 6 7 true 3),
    (0b0110011_0000101_0000110_0000111_1_011#32, 0, .badd2 5 6 7 true 3),
    (0b0110100_0000101_0000110_0000111_1_011#32, 0, .bmul2 5 6 7 true 3),
    (0b0110101_0000101_0000110_0000111_1_011#32, 0, .bfma2 5 6 7 true 3),
    (0b0110110_0000101_0000110_0000111_0_011#32, 0, .fcvt 5 6 7 3),
    (0b0110111_0000101_0000110_0000111_1_011#32, 0, .dadd 5 6 7 true 3),
    (0b0111000_0000101_0000110_0000111_1_011#32, 0, .dmul 5 6 7 true 3),
    (0b0111001_0000101_0000110_0000111_1_011#32, 0, .dfma 5 6 7 true 3),
    (0b0111010_010_1010_0000101_0000110_1_011#32, 0, .dcmp 2 0xA 5 6 true 3),
    (0b0111011_0000101_0000110_0000111_0_011#32, 0, .dcvt 5 6 7 3)] : List (Word × Word × Instr)).all decodesTo = true := by decide

theorem test_decode_loads_and_stores : ([
    (0b0111100_0000101_0000110_10000101_011#32, 0, .ldb 5 6 0x85 3),
    (0b0111101_0000101_0000110_10000101_011#32, 0, .ldbs 5 6 0x85 3),
    (0b0111110_0000101_0000110_10000101_011#32, 0, .ldh 5 6 0x85 3),
    (0b0111111_0000101_0000110_10000101_011#32, 0, .ldhs 5 6 0x85 3),
    (0b1000000_0000101_0000110_10000101_011#32, 0, .ldw 5 6 0x85 3),
    (0b1000001_0000101_0000110_10000101_011#32, 0, .ldd 5 6 0x85 3),
    (0b1000010_0000101_0000110_10000101_011#32, 0, .ldq 5 6 0x85 3),
    (0b1000011_0000101_0000110_10000101_011#32, 0, .stb 5 6 0x85 3),
    (0b1000100_0000101_0000110_10000101_011#32, 0, .sth 5 6 0x85 3),
    (0b1000101_0000101_0000110_10000101_011#32, 0, .stw 5 6 0x85 3),
    (0b1000110_0000101_0000110_10000101_011#32, 0, .std 5 6 0x85 3),
    (0b1000111_0000101_0000110_10000101_011#32, 0, .stq 5 6 0x85 3),
    (0b1001000_0000101_0000110_10000101_011#32, 0, .stnt 5 6 0x85 3),
    (0b1001001_0000000000000000000000000#32, 0, .drain),
    (0b1001010_0000000000000000000000000#32, 0, .fence),
    (0b1001011_0000001_0000110_10000101_000#32, 0, .pref 1 6 0x85),
    (0b1001100_0000000_0000101_10000101_000#32, 0, .cctlIinv 5 0x85),
    (0b1001100_0000001_0000101_10000101_000#32, 0, .cctlIinvall 5 0x85),
    (0b1001100_0000010_0000101_10000101_000#32, 0, .cctlEvict 5 0x85),
    (0b1001100_0000011_0000101_10000101_000#32, 0, .cctlZero 5 0x85)] : List (Word × Word × Instr)).all decodesTo = true := by decide

theorem test_decode_atomics_and_tickets : ([
    (0b1010000_0000101_0000110_0000111_1_011#32, 0, .aadd 5 6 7 true 3),
    (0b1010001_0000101_0000110_0000111_1_011#32, 0, .aand 5 6 7 true 3),
    (0b1010010_0000101_0000110_0000111_1_011#32, 0, .aor 5 6 7 true 3),
    (0b1010011_0000101_0000110_0000111_1_011#32, 0, .axor 5 6 7 true 3),
    (0b1010100_0000101_0000110_0000111_1_011#32, 0, .amin 5 6 7 true 3),
    (0b1010101_0000101_0000110_0000111_1_011#32, 0, .amax 5 6 7 true 3),
    (0b1010110_0000101_0000110_0000111_1_011#32, 0, .aumin 5 6 7 true 3),
    (0b1010111_0000101_0000110_0000111_1_011#32, 0, .aumax 5 6 7 true 3),
    (0b1011000_0000101_0000110_0000111_1_011#32, 0, .axchg 5 6 7 true 3),
    (0b1011001_0000101_0000110_0000111_1_011#32, 0, .acas 5 6 7 true 3),
    (0b1011010_0000101_0000110_0000111_1_011#32, 0, .afadd 5 6 7 true 3),
    (0b1011011_0000101_0000110_0000111_1_011#32, 0, .afaddt 5 6 7 3),
    (0b1011100_0000101_0000110_00000000000#32, 0, .tsopen 5 6),
    (0b1011101_0000000_0000101_0000110_0000#32, 0, .tclose 5 6),
    (0b1011110_0000000_0000101_00000000000#32, 0, .tdrain 5),
    (0b1011110_0000001_0000101_00000000000#32, 0, .tdrainF 5),
    (0b1011111_0000000_0000101_00000000000#32, 0, .tsbind 5)] : List (Word × Word × Instr)).all decodesTo = true := by decide

theorem test_decode_branches : ([
    (0b1100000_010_1_100000000000000101_101#32, 0, .bra 2 true 0x20005 5),
    (0b1100001_010_1_100000000000000101_101#32, 0, .call 2 true 0x20005 5),
    (0b1100010_0000000_0000101_00000000000#32, 0, .jmpr 5),
    (0b1100010_0000101_0000110_00000000001#32, 0, .jmprL 5 6),
    (0b1100011_0000000_0000101_00000000000#32, 0, .ret 5),
    (0b1100100_0000101_0000_010_0000000_1001#32, 0, .msplit 5 2 9),
    (0b1100101_000000000000000000000_1001#32, 0, .mjoin 9),
    (0b1100110_0000000000000000000000000#32, 0, .exit),
    (0b1100111_0000000000000000_100101_011#32, 0, .waitsb 0x25 3),
    (0b1100111_0000000000000000000000_011#32, 0, .nop 3)] : List (Word × Word × Instr)).all decodesTo = true := by decide

theorem test_decode_cross_lane : ([
    (0b1101000_0000101_0000110_0000111_1001#32, 0, .shfli 5 6 7 9),
    (0b1101001_0000101_0000110_0000111_1001#32, 0, .shflu 5 6 7 9),
    (0b1101010_0000101_0000110_0000111_1001#32, 0, .shfld 5 6 7 9),
    (0b1101011_0000101_0000110_0000111_1001#32, 0, .shflx 5 6 7 9),
    (0b1101100_010_00000000_100_0000_1_10_1001#32, 0, .vote 2 4 true 2 9),
    (0b1101101_0000101_0000_010_000000_1_1001#32, 0, .ballot 5 2 true 9),
    (0b1101110_0000101_0000110_0_1_00101_1001#32, 0, .scan 5 6 true 5 9),
    (0b1101111_0000101_0000110_00_00101_1001#32, 0, .redux 5 6 5 9),
    (0b1110000_010_000000000000000000_1001#32, 0, .elect 2 9),
    (0b1110001_0000000000000000000000000#32, 0, .bar),
    (0b1110001_0000000000000000000000001#32, 0, .barSeam),
    (0b1110010_0000101_0000110_0000000_1001#32, 0, .matchW 5 6 9),
    (0b1110010_0000101_0000110_0000001_1001#32, 0, .matchD 5 6 9),
    (0b1110011_0000101_000000000000000000#32, 0, .rand 5),
    (0b1110011_0000101_000000000000000001#32, 0, .randQ 5),
    (0b1110011_0000101_000000000000000010#32, 0, .randF 5)] : List (Word × Word × Instr)).all decodesTo = true := by decide

theorem test_decode_recruiting : ([
    (0b1110100_0000101_0000110_0000111_1_011#32, 0xFEDCBA98, .recruit 5 6 7 true 3 0xFEDCBA98),
    (0b1110101_0000101_00000000000000_010_1#32, 0, .hnext 5 2 true),
    (0b1110110_0000101_000000000000000000#32, 0, .hrelease 5),
    (0b1110111_0000101_000000000000000000#32, 0, .hstat 5),
    (0b1110111_0000101_000000000000000001#32, 0, .hstatNext 5),
    (0b1110111_0000101_000000000000000010#32, 0, .hstatCount 5)] : List (Word × Word × Instr)).all decodesTo = true := by decide

theorem test_decode_copies_and_sync : ([
    (0b1111000_0000000_0000101_00000000000#32, 0, .cpin 5),
    (0b1111000_0000001_0000101_00000000000#32, 0, .cpinr 5),
    (0b1111000_0000010_0000101_00000000000#32, 0, .cpout 5),
    (0b1111000_0000011_0000101_0000110_0000#32, 0, .cpgath 5 6),
    (0b1111000_0000100_0000101_0000110_0000#32, 0, .cpmc 5 6),
    (0b1111000_0000101_0000101_0000110_0000#32, 0, .cpnet 5 6),
    (0b1111000_0000110_0000101_0000110_0000#32, 0, .cppf 5 6),
    (0b1111001_0000000_0000101_0000110_0000#32, 0, .syinit 5 6),
    (0b1111001_0000001_0000101_0000110_0000#32, 0, .syarr 5 6),
    (0b1111001_0000010_0000101_0000110_0000#32, 0, .sywait 5 6),
    (0b1111001_0000011_0000101_0000110_0000#32, 0, .sytest 5 6),
    (0b1111001_0000100_0000101_0000110_0000#32, 0, .waitc 5 6),
    (0b1111001_0000101_0000101_0000110_0000#32, 0, .cntrd 5 6)] : List (Word × Word × Instr)).all decodesTo = true := by decide

theorem test_decode_matrix : ([
    (0b1111010_0000000_0000101_0000110_0000#32, 0, .mma 5 6),
    (0b1111010_0000001_0000101_0000110_0000#32, 0, .mmas 5 6),
    (0b1111010_0000010_0000101_0000110_0000#32, 0, .mrast 5 6),
    (0b1111010_0000011_0000101_0000110_0000#32, 0, .mfilt 5 6),
    (0b1111010_00001000000000000_1_110_0000#32, 0, .mzero true 6),
    (0b1111010_0000101_0000101_00000000000#32, 0, .mstat 5),
    (0b1111010_0000101_0000101_00000010000#32, 0, .mstatC 5)] : List (Word × Word × Instr)).all decodesTo = true := by decide

theorem test_decode_tasks : ([
    (0b1111011_0000000_0000101_0000110_0000#32, 0, .spawn 5 6),
    (0b1111011_0000001_0000101_0000110_0000#32, 0, .spawnn 5 6),
    (0b1111011_0000010_0000101_00000000000#32, 0, .cancelchk 5),
    (0b1111011_0000011_0000101_0000110_0000#32, 0, .lvlrd 5 6),
    (0b1111011_00001000000000_0000101_0000#32, 0, .lvlcancel 5),
    (0b1111011_0000101_0000101_00000000000#32, 0, .seedrd 5),
    (0b1111011_00001100000000_0000101_0000#32, 0, .qhold 5),
    (0b1111011_00001110000000_0000101_0000#32, 0, .qrun 5),
    (0b1111100_0000000_0000101_0000110_0000#32, 0, .shpset 5 6),
    (0b1111100_00000010000000_0000101_0000#32, 0, .shpfree 5),
    (0b1111100_0000010_0000101_0000110_0000#32, 0, .shprd 5 6)] : List (Word × Word × Instr)).all decodesTo = true := by decide

theorem test_decode_system : ([
    (0b1111101_00000000000000_0000101_0000#32, 0, .trap 5),
    (0b1111101_00000010000000_0000101_0000#32, 0, .bkpt 5),
    (0b1111101_0000010_0000101_0000110_0000#32, 0, .cregr 5 6),
    (0b1111101_0000011_0000101_0000110_0000#32, 0, .cregw 5 6),
    (0b1111101_0000100000000000000000000#32, 0, .yield),
    (0b1111101_00001010000000_0000101_0000#32, 0, .sleep 5),
    (0b1111101_0000110_0000101_0000110_0000#32, 0, .fqpop 5 6),
    (0b1111101_0000111_0000101_0000110_0000#32, 0, .resume 5 6),
    (0b1111101_0001000_0000101_0000110_0000#32, 0, .tlbinv 5 6)] : List (Word × Word × Instr)).all decodesTo = true := by decide
/-! ## Ill-formed words (02 R33, R38, R39; 01 R13) -/

/-- One instruction for each reserved value of a field, and for each field that has reserved values. -/
def badFields : List Instr :=
  [.icmp 1 11 2 3 false 1, .sreg 1 32 1, .sreg 96 0 1, .sreg 97 10 1, .sreg 98 15 1, .fcmp 1 12 2 3 false 1,
   .dcmp 1 15 2 4 false 1, .ldb 1 2 0 7, .ldbs 1 2 0 7, .ldh 1 2 0 7, .ldhs 1 2 0 7, .ldw 1 2 0 7, .ldd 4 2 0 7,
   .ldq 4 2 0 7, .stb 1 2 0 7, .sth 1 2 0 7, .stw 1 2 0 7, .std 4 2 0 7, .stq 4 2 0 7, .stnt 4 2 0 7, .pref 2 4 0,
   .aadd 1 2 3 true 0, .aand 1 2 3 false 7, .aor 1 2 3 true 0, .axor 0 2 3 true 7, .amin 1 2 3 true 0, .amax 1 2 3 false 7,
   .aumin 1 2 3 true 0, .aumax 1 2 3 false 7, .axchg 1 2 3 true 0, .acas 1 2 4 false 7, .afadd 1 2 3 true 0,
   .afaddt 1 2 3 7, .waitsb 0 1, .vote 1 2 false 3 0, .scan 1 2 false 11 0, .redux 1 2 31 0, .cppf 96 2, .waitc 4 0,
   .waitc 0 64, .cntrd 96 4, .lvlrd 96 4, .lvlcancel 4, .qhold 64, .qrun 64, .cregr 96 8, .cregw 8 96, .cregw 2 96,
   .cregw 3 96, .cregw 4 96]

theorem test_reserved_fields_refused : badFields.all (fun i => !i.fieldsOk && !i.wellFormed) = true := by decide

/-- A scalar destination with a vector source; a scalar operand where a vector one is asked for, and the other way round. -/
theorem test_selectors_refused :
    ([.iadd 96 1 97 false 1, .fcvt 97 98 2 1, .shfli 96 1 2 0, .cpin 4, .sleep 5, .mma 96 8] : List Instr).all
      (fun i => i.fieldsOk && !i.selectorsOk && !i.wellFormed) = true := by decide

/-- A pair at an odd register, a quad at a register that is no multiple of 4. -/
theorem test_alignment_refused :
    ([.iadd64 3 4 6 false 1, .dadd 2 5 6 false 1, .ldd 5 2 0 0, .ldq 6 4 0 0, .stq 2 4 0 0, .ldw 1 3 0 0] : List Instr).all
      (fun i => i.fieldsOk && i.selectorsOk && !i.aligned && !i.wellFormed) = true := by decide

/-- The largest admitted values pass: the checks are no stricter than the rules. -/
theorem test_limits_admitted :
    ([.icmp 7 10 95 127 false 7, .sreg 95 31 7, .fcmp 0 11 1 2 true 0, .pref 1 94 0xFF, .aadd 0 2 3 true 6, .vote 1 2 true 2 15,
      .scan 1 2 true 10 15, .waitc 3 63, .cntrd 127 3, .qhold 63, .cregr 126 7, .cregw 7 126, .ldq 92 94 0x80 6] :
      List Instr).all (fun i => i.wellFormed) = true := by decide

/-! ## Small devices -/

/-- The words of an instruction as a number, for `placeProgram`. -/
def programOf (i : Instr) : Nat := ((encode i).getD 0 0).toNat + ((encode i).getD 1 0).toNat * 2 ^ 32

/-- A device on which an instruction is next, in a crew of one lane. -/
def one (i : Instr) : State := placeProgram State.reset 64 (programOf i)

/-- Its group. -/
def solo : Group := ⟨0, [0], 0x1004, []⟩

/-- The device with a register of a lane set. -/
def reg (k n : Nat) (v : Word) (s : State) : State := modCrew 0 (setRaw k n v) s

/-- The device with the crew's lanes, all of one group. -/
def lanes (ks : List Nat) (s : State) : State :=
  modCrew 0 (fun c => { c with threads := ks.map (fun k => (k, (threadAt c 0).getD default)) }) s

/-- The device with the crew changed. -/
def crew (f : Crew → Crew) (s : State) : State := modCrew 0 f s

/-- What holds of the state that an instruction answers with. -/
def after (i : Instr) (s : State) (p : State → Bool) : Bool :=
  match exec i s with
  | .next t => p t
  | .fault _ => false
  | .refused _ => false

/-- The value of a lane's register. -/
def val (k n : Nat) (s : State) : Word := rawReg (crewAt s 0) k n

/-- The cause of the first record that context 0 has produced. -/
def cause (s : State) : Nat :=
  bits (((tgetD s.contexts 0 default).fq.produced.headD default).words.headD 0).toNat 7 0

/-- The checks of `Ready`, as they are computed. -/
def readyB (i : Instr) (s : State) : Bool :=
  decide (focusGroup s = some solo) && decide (groupTrap i solo (atIssue i solo s) = none) &&
    decide (threadTrap (atIssue i solo s) 0 i 0 = none)

theorem ready_of {i : Instr} {s : State} (h : readyB i s = true) : Ready i solo s := by
  simp only [readyB, Bool.and_eq_true, decide_eq_true_eq] at h
  refine ⟨h.1.1, h.1.2, fun k hk => ?_⟩
  obtain rfl := List.mem_singleton.mp hk
  exact h.2

/-- Every instruction of a list can issue on its own device. -/
abbrev allReady (is : List Instr) : Prop := is.all (fun i => readyB i (one i)) = true

/-! ## Single steps

Results worked out by hand from the rules that the comments name. -/

-- 03 R45: arithmetic is modulo 2^32; R48: B sign-extended from 7 bits when K = 1 (03 R44).
theorem test_iadd_wraps :
    after (.iadd 1 2 3 false 1) (reg 0 2 0xFFFFFFFF (reg 0 3 2 (one (.iadd 1 2 3 false 1)))) (fun t => val 0 1 t == 1) = true := by
  decide
theorem test_isub_constant :
    after (.isub 1 2 0x7F true 1) (reg 0 2 5 (one (.isub 1 2 0x7F true 1))) (fun t => val 0 1 t == 6) = true := by decide
theorem test_imulhi_signed :
    after (.imulhi 1 2 3 false 1) (reg 0 2 0xFFFFFFFF (reg 0 3 2 (one (.imulhi 1 2 3 false 1))))
      (fun t => val 0 1 t == 0xFFFFFFFF) = true := by decide
theorem test_imulhu_unsigned :
    after (.imulhu 1 2 3 false 1) (reg 0 2 0xFFFFFFFF (reg 0 3 2 (one (.imulhu 1 2 3 false 1)))) (fun t => val 0 1 t == 1) =
      true := by decide
theorem test_imad_reads_d :
    after (.imad 1 1 1 false 1) (reg 0 1 3 (one (.imad 1 1 1 false 1))) (fun t => val 0 1 t == 12) = true := by decide
theorem test_shl_by_32 :
    after (.shl 1 2 3 false 1) (reg 0 2 1 (reg 0 3 32 (one (.shl 1 2 3 false 1)))) (fun t => val 0 1 t == 0) = true := by decide
theorem test_sar_by_33 :
    after (.sar 1 2 3 false 1) (reg 0 2 0x80000000 (reg 0 3 33 (one (.sar 1 2 3 false 1))))
      (fun t => val 0 1 t == 0xFFFFFFFF) = true := by decide
theorem test_iadd64_carries :
    after (.iadd64 2 4 6 false 1) (reg 0 4 0xFFFFFFFF (reg 0 6 1 (one (.iadd64 2 4 6 false 1))))
      (fun t => val 0 2 t == 0 && val 0 3 t == 1) = true := by decide
theorem test_lea_sign_extends :
    after (.lea 2 4 6 2 false) (reg 0 4 16 (reg 0 6 0xFFFFFFFF (one (.lea 2 4 6 2 false))))
      (fun t => val 0 2 t == 12 && val 0 3 t == 0) = true := by decide
theorem test_bfe_signed :
    after (.bfe 1 2 3 false 1) (reg 0 2 0xF0 (reg 0 3 0x10404 (one (.bfe 1 2 3 false 1))))
      (fun t => val 0 1 t == 0xFFFFFFFF) = true := by decide
theorem test_idot4_signed_bytes :
    after (.idot4 1 2 3 false 1) (reg 0 1 10 (reg 0 2 0xFF010203 (reg 0 3 0x02020202 (one (.idot4 1 2 3 false 1)))))
      (fun t => val 0 1 t == 20) = true := by decide
theorem test_clz_of_zero : after (.clz 1 2 1) (one (.clz 1 2 1)) (fun t => val 0 1 t == 32) = true := by decide
theorem test_iabs_least :
    after (.iabs 1 2 1) (reg 0 2 0x80000000 (one (.iabs 1 2 1))) (fun t => val 0 1 t == 0x80000000) = true := by decide
theorem test_movi_sign_extends :
    after (.movi 1 0x4000 1) (one (.movi 1 0x4000 1)) (fun t => val 0 1 t == 0xFFFFC000) = true := by decide
theorem test_lit_takes_two_words :
    after (.lit 1 0 0xDEADBEEF) (one (.lit 1 0 0xDEADBEEF))
      (fun t => val 0 1 t == 0xDEADBEEF && (threadAt (crewAt t 0) 0).any (·.pc == 0x100C)) = true := by decide

-- 03 R53, R55: CC 10 tests bits in common; a write to p7 is discarded.
theorem test_icmp_unsigned_below :
    after (.icmp 1 6 2 3 false 1) (reg 0 2 1 (reg 0 3 0x80000000 (one (.icmp 1 6 2 3 false 1))))
      (fun t => rawPred (crewAt t 0) 0 1) = true := by decide
theorem test_icmp_into_p7 :
    after (.icmp 7 1 2 2 false 1) (one (.icmp 7 1 2 2 false 1)) (fun t => readPred t 0 0 7) = true := by decide
theorem test_write_to_s31 :
    after (.movi 127 5 1) (one (.movi 127 5 1)) (fun t => readReg t 0 0 127 == 0) = true := by decide

-- 04 R87 to R92: FP32 by hand. 1.0 + 2^-24 rounds to even; 1/0 is infinity with DZ; max of a NaN and 1.0 is 1.0.
theorem test_fadd_ties_to_even :
    after (.fadd 1 2 3 false 1) (reg 0 2 0x3F800000 (reg 0 3 0x33800000 (one (.fadd 1 2 3 false 1))))
      (fun t => val 0 1 t == 0x3F800000 && (crewAt t 0).fpctl == 0x200) = true := by decide
theorem test_fmul_overflows :
    after (.fmul 1 2 3 false 1) (reg 0 2 0x7F000000 (reg 0 3 0x7F000000 (one (.fmul 1 2 3 false 1))))
      (fun t => val 0 1 t == 0x7F800000) = true := by decide
theorem test_fmax_of_nan :
    after (.fmax 1 2 3 false 1) (reg 0 2 0x7FC00000 (reg 0 3 0x3F800000 (one (.fmax 1 2 3 false 1))))
      (fun t => val 0 1 t == 0x3F800000) = true := by decide
theorem test_fneg_flips_sign :
    after (.fneg 1 2 1) (reg 0 2 0x7FC00001 (one (.fneg 1 2 1))) (fun t => val 0 1 t == 0xFFC00001) = true := by decide
theorem test_hadd2_halves :
    after (.hadd2 1 2 3 false 1) (reg 0 2 0x3C003C00 (reg 0 3 0x4000BC00 (one (.hadd2 1 2 3 false 1))))
      (fun t => val 0 1 t == 0x42000000) = true := by decide
theorem test_dadd_pairs :
    after (.dadd 2 4 6 false 1) (reg 0 5 0x3FF00000 (reg 0 7 0x40000000 (one (.dadd 2 4 6 false 1))))
      (fun t => val 0 2 t == 0 && val 0 3 t == 0x40080000) = true := by decide

-- 03 R61 to R66, 00 R4: a store and a load, little-endian, at VA 0x0100 of the page at PA 0x40000.
theorem test_stw_little_endian :
    after (.stw 1 2 0 0) (reg 0 1 0x11223344 (reg 0 2 0x100 (one (.stw 1 2 0 0))))
      (fun t => memBytes t 0x40100 4 == [0x44, 0x33, 0x22, 0x11]) = true := by decide
theorem test_ldbs_sign_extends :
    after (.ldbs 1 2 1 0) (reg 0 2 0x100 { one (.ldbs 1 2 1 0) with mem := setBytes 0x40101 [0x80] (one (.ldbs 1 2 1 0)).mem })
      (fun t => val 0 1 t == 0xFFFFFF80) = true := by decide
theorem test_ldw_misaligned :
    after (.ldw 1 2 0 0) (reg 0 2 0x102 (one (.ldw 1 2 0 0))) (fun t => cause t == 0x05) = true := by decide
theorem test_ldw_unmapped :
    after (.ldw 1 2 0 0) (reg 0 2 0x10000
      { one (.ldw 1 2 0 0) with mem := setBytes 0x30008 (List.replicate 8 0) (one (.ldw 1 2 0 0)).mem })
      (fun t => cause t == 0x06) = true := by decide
theorem test_stnt_waits :
    after (.stnt 4 2 0 0) (reg 0 2 0x100 (one (.stnt 4 2 0 0)))
      (fun t => (pendOf t 0 0).length == 1 && (tget t.mem 0x40100).isNone) = true := by decide
theorem test_acas_swaps :
    after (.acas 1 2 4 false 0)
      (reg 0 2 0x100 (reg 0 4 7 (reg 0 5 9 { one (.acas 1 2 4 false 0) with mem := setBytes 0x40100 [7, 0, 0, 0] (one (.acas 1 2 4 false 0)).mem })))
      (fun t => val 0 1 t == 7 && memWord t 0x40100 == 9) = true := by decide

-- 03 R71, R72: targets are relative to the branch's own address; CALL links the word after it.
theorem test_bra_taken :
    after (.bra 7 false 0x3FFFF 0) (one (.bra 7 false 0x3FFFF 0))
      (fun t => (threadAt (crewAt t 0) 0).any (·.pc == 0x1000)) = true := by decide
theorem test_bra_not_taken :
    after (.bra 7 true 4 0) (one (.bra 7 true 4 0)) (fun t => (threadAt (crewAt t 0) 0).any (·.pc == 0x1008)) = true := by decide
theorem test_call_links :
    after (.call 7 false 4 0) (one (.call 7 false 4 0))
      (fun t => val 0 62 t == 0x1008 && val 0 63 t == 0 && (threadAt (crewAt t 0) 0).any (·.pc == 0x1014)) = true := by decide
theorem test_ret_misaligned :
    after (.ret 62) (reg 0 62 6 (one (.ret 62))) (fun t => cause t == 0x05) = true := by decide
theorem test_exit_ends_the_thread :
    after .exit (one .exit) (fun t => (threadAt (crewAt t 0) 0).all (·.run == .exited)) = true := by decide

-- 06 R132, R133: two lanes; BALLOT with p7 sets both bits, SCAN adds up.
theorem test_ballot_two_lanes :
    after (.ballot 1 7 false 0) (reg 0 80 0x21 (reg 5 80 0x21 (lanes [0, 5] (one (.ballot 1 7 false 0)))))
      (fun t => val 0 1 t == 0x21 && val 5 1 t == 0x21) = true := by decide
theorem test_scan_adds :
    after (.scan 1 2 false 0 0) (reg 0 80 3 (reg 1 80 3 (reg 0 2 5 (reg 1 2 6 (lanes [0, 1] (one (.scan 1 2 false 0 0)))))))
      (fun t => val 0 1 t == 5 && val 1 1 t == 11) = true := by decide

-- 17 R341, R342, R332: TRAP's code in w7; SLEEP waits; FQPOP in an ordinary crew takes 0x07.
theorem test_trap_code :
    after (.trap 0x55) (one (.trap 0x55)) (fun t => cause t == 0x12 &&
      (((tgetD t.contexts 0 default).fq.produced.headD default).words.getD 7 0) == 0x55) = true := by decide
theorem test_sleep_waits :
    after (.sleep 97) (reg 0 97 10 (one (.sleep 97)))
      (fun t => (threadAt (crewAt t 0) 0).any (fun u => decide (u.run ≠ .running))) = true := by decide
theorem test_fqpop_privileged : after (.fqpop 96 104) (one (.fqpop 96 104)) (fun t => cause t == 0x07) = true := by decide
theorem test_spawn_unbound_queue :
    after (.spawn 96 104) (one (.spawn 96 104)) (fun t => cause t == 0x07) = true := by decide

-- 06 R142, the published vector of Philox-4x32-10 for zero counter and key.
theorem test_philox_zero : philox 10 0 0 0 0 0 0 = (0x6627E8D5, 0xE169C58D, 0xBC57AC4C, 0x9B00DBD8) := by decide

-- 20 R373, R385: a kick of a queue that is not enabled is ignored; enabling sets KIDX to RIDX.
theorem test_kick_ignored :
    exec (.kick 3 5) (one (.nop 0)) = .next (one (.nop 0)) := by rfl
theorem test_enable_sets_kidx :
    after (.queueEnable 3 0x80100001) (modQcb 3 (fun q => { q with ridx := 9 }) (one (.nop 0)))
      (fun t => (qcbAt t 3).kidx == 9 && (qcbAt t 3).en && (qcbAt t 3).lsize == 1 && (qcbAt t 3).ctx == 1) = true := by decide

-- 20 R391: CLAIM by a first master, and by a second one.
theorem test_claim_takes_ownership :
    after (.claim ⟨7, 1, 0⟩) (one (.nop 0)) (fun t => t.owner == .owned 7 1 2000000 && t.outbox.length == 1) = true := by decide
theorem test_claim_by_another :
    after (.claim ⟨8, 2, 0⟩) { one (.nop 0) with owner := .owned 7 1 2000000 }
      (fun t => t.owner == .owned 7 1 2000000 && (t.outbox.any (fun m => match m with
        | .reply 8 2 r => r.status == 1 && r.payload == bytesOf 8 7
        | _ => false))) = true := by decide

-- 04, "One value, four modes": FP32 65,520.0 to FP16; and the four lanes of the E4M3 example.
theorem test_fcvt_four_modes :
    ([(0x00020908, 0x7C00), (0x00040908, 0x7BFF), (0x00060908, 0x7C00), (0x00080908, 0x7BFF), (0x00030908, 0x7BFF)] :
      List (Word × Word)).all (fun e => after (.fcvt 1 2 3 1) (reg 0 2 0x477FF000 (reg 0 3 e.1 (one (.fcvt 1 2 3 1))))
        (fun t => val 0 1 t &&& 0xFFFF == e.2)) = true := by decide
theorem test_fcvt_e4m3 :
    ([(0x3F800000, 0x38), (0x3E99999A, 0x2A), (0x447A0000, 0x7E), (0xBA83126F, 0x81)] : List (Word × Word)).all (fun e =>
      after (.fcvt 1 2 3 1) (reg 0 2 e.1 (reg 0 3 0x00010B08 (one (.fcvt 1 2 3 1)))) (fun t => val 0 1 t == e.2)) = true := by decide


/-! ## States and operands that meet the hypotheses of the statements

One theorem or more for each statement; for a statement of several clauses, a state for each clause. -/

theorem witness_IntegerResults :
    (∀ e ∈ wordOfAB, readyB (e.1 1 2 3 false 1) (one (e.1 1 2 3 false 1)) = true ∧
      readyB (e.1 127 96 0x40 true 7) (one (e.1 127 96 0x40 true 7)) = true) ∧
    (∀ e ∈ wordOfDAB, readyB (e.1 95 2 3 false 1) (one (e.1 95 2 3 false 1)) = true) ∧
    (∀ e ∈ wordOfImm8, readyB (e.1 1 2 0x80 1) (one (e.1 1 2 0x80 1)) = true) ∧
    (∀ e ∈ wordOfImm5, readyB (e.1 1 2 31 1) (one (e.1 1 2 31 1)) = true) ∧
    (∀ e ∈ wordOfA, readyB (e.1 1 2 1) (one (e.1 1 2 1)) = true) ∧ allReady [.movi 1 0x7FFF 1, .lit 1 0 0xFFFFFFFF] := by
  decide

theorem witness_PairResults :
    allReady [.iadd64 2 4 6 false 1, .iadd64 94 4 0x7F true 1, .isub64 2 4 6 false 1, .isub64 2 4 0x40 true 1, .lea 2 4 6 3 true,
      .lea 2 4 6 0 false] := by
  decide

/-- The first and last bit of a field, and words whose outermost set bits are the first and the last. -/
theorem witness_BitFunctions : (0 < 32 ∧ 31 < 32) ∧ (0 < 4 ∧ 3 < 4) ∧ (1 : Word) ≠ 0 ∧ (0x80000000 : Word) ≠ 0 := by decide

theorem test_bit_function_corners :
    clzWord 1 = 31 ∧ ctzWord 0x80000000 = 31 ∧ clzWord 0x80000000 = 0 ∧ clzWord 0 = 32 ∧ popCount 0xFFFFFFFF = 32 ∧
      bitReverse 1 = 0x80000000 ∧ byteSwap 0x11223344 = 0x44332211 ∧ extractField 0xFF 0x10000 = 0 ∧
      insertField 0 0xFF 0x41E = 0xC0000000 := by decide

theorem witness_PredicateResults :
    allReady [.icmp 1 10 2 3 false 1, .icmp 7 0 2 3 true 1, .plop 7 15 0 7 1, .plop 1 8 2 3 1, .pset 2] ∧
      11 ≤ (11 : BitVec 4).toNat ∧ (focusGroup (one (.icmp 1 11 2 3 false 1))).isSome = true := by
  decide

theorem witness_SelectResults :
    allReady [.sel 1 2 3 7 true, .sel 1 2 3 0 false, .pget 1, .pget 95] ∧
      isScalar 96 = true ∧ isScalar 127 = true ∧ (focusGroup (one (.sel 127 2 3 0 false))).isSome = true := by
  decide

theorem witness_SpecialRegisterReads :
    allReady [.sreg 1 0 1, .sreg 1 31 1, .sreg 1 8 1, .sreg 96 9 1] ∧ (31 : BitVec 8) ≠ 8 ∧
      threadAt (crewAt (crew (fun c => { c with threads := [(0, { (default : Thread) with latch := some 5 })] }) (one (.nop 0))) 0) 0 =
        some { (default : Thread) with latch := some 5 } := by
  decide

/-- A crew of a seam with its launch, a lane of a handler crew, and a thread without a latch. -/
theorem witness_SpecialRegisterReads_roles :
    (let s := one (.nop 0)
     (crewAt s 0).role = .seam 5 0 0 ∧ (tget s.seams 5).isSome = true ∧ (tget s.launches (tgetD s.seams 5 default).launch).isSome = true ∧
       (threadAt (crewAt s 0) 0).map (·.latch) = some none) ∧
    (let s := crew (fun c => { c with role := .handler 0 }) (one (.nop 0))
     (crewAt s 0).role = .handler 0 ∧ (threadAt (crewAt s 0) 0).isSome = true) := by decide

theorem witness_FloatResults :
    (∀ e ∈ floatOfAB, readyB (e.1 1 2 3 false 1) (one (e.1 1 2 3 false 1)) = true) ∧ allReady [.ffma 1 2 3 false 1] ∧
    (∀ e ∈ floatOfA, readyB (e.1 1 2 1) (one (e.1 1 2 1)) = true) ∧
    (∀ e ∈ packedOps, readyB (e.1 1 2 0x7F true 1) (one (e.1 1 2 0x7F true 1)) = true) ∧
    allReady [.dadd 2 4 6 false 1, .dmul 2 4 6 true 1, .dfma 2 4 6 false 1] := by
  decide

theorem witness_FloatCompares : allReady [.fcmp 1 11 2 3 false 1, .fcmp 7 0 2 3 true 1, .dcmp 1 6 2 4 false 1] := by
  decide

/-- FCVT from FP32 to FP16 and DCVT from FP32 to FP64: format codes by 04 R94. -/
theorem witness_Conversions :
    (let s := reg 0 3 0x0908 (one (.fcvt 1 2 3 1))
     readyB (.fcvt 1 2 3 1) s = true ∧ converts (fun r => if fcvtOk (r 3).toNat then none else some (trapC 0x01))
      (fun r => (if fmtWidth (bits (r 3).toNat 12 8) = 32 then [] else [1], [])) (.fcvt 1 2 3 1) solo s) := by
  unfold converts; decide


theorem witness_Conversions_dcvt :
    ([(0x1F08, 4), (0x041F, 4), (0x081F, 6)] : List (Word × Sel)).all (fun e =>
      let i := Instr.dcvt e.2 2 8 1
      let s := reg 0 8 e.1 (one i)
      dcvtOk e.1.toNat && readyB i s && (namedTrap (atIssue i solo s) 0 0 [3] [5]).isNone) = true := by decide

/-- A NaN, infinities of both signs, a zero and a number. -/
theorem witness_RoundingRules :
    (fp32.value 0x7FC00000).isNan = true ∧ fp32.value 0x7F800000 = .inf false ∧ fp32.value 0xFF800000 = .inf (!false) ∧
      fp32.value 0x80000000 = .fin true 0 (-149) ∧ (fp32.value 0x3F800000).isNan = false ∧ (fp64.value 0x7FF0000000000001).isNan = true ∧
      (fp16.value 0x7C01).isSignalling = true ∧ bf16.value 0x7F80 = .inf false ∧
      compareVal (fp32.value 0xFF800000) (fp32.value 1) = .lt ∧ compareVal (fp32.value 1) (fp32.value 0) = .gt := by decide

/-- Values that each format holds, that lie between two of its values, below the least normal one, and beyond the largest. -/
theorem witness_RoundingRules_finite :
    ([fp16, bf16, e4m3, e5m2, e2m3, e3m2, e2m1] : List FpFmt).all (fun f =>
      ([1, 2 ^ f.mbits - 1, 2 ^ f.mbits, 2 ^ f.mbits + 1] : List Nat).all (fun lo =>
        let x := magnitude f lo
        let v := (4 * x.1 + 1, x.2 - 2)
        decide (lo < f.maxFinite) && !below x (magnitude f lo) && below x (magnitude f (lo + 1)) && below x v &&
          !below v (magnitude f lo) && below v (magnitude f (lo + 1))) &&
      !below (magnitude f f.maxFinite) (magnitude f f.maxFinite) &&
      below (magnitude f f.maxFinite) ((magnitude f f.maxFinite).1 + 1, (magnitude f f.maxFinite).2)) = true := by decide

/-- The crew's seam with its word 6. -/
def seamSix (w : Word) (s : State) : State :=
  { s with seams := s.seams.map (fun e => (e.1, { e.2 with words := [0x1000, 0, 0, 0, 0, 0, w, 0] })) }

/-- The leaf of the small device's page. -/
def leaf0 : Leaf := ⟨0x41C07, 0x30000, false⟩

/-- The device with its page's translation cached, and with a register of lane 0 set. -/
def cached (n : Nat) (v : Word) (i : Instr) : State := { reg 0 n v (one i) with tlb := [(0, leaf0)] }

/-- The device with its page's leaf changed. -/
def withLeaf (pte : Nat) (s : State) : State := { s with mem := setBytes 0x30000 (bytesOf 8 pte) s.mem }

/-- Each clause at an address of its range, and leaves that each clause is about: absent, with a reserved size bit, of a type
that refuses, read-only and copy-on-write. -/
theorem witness_AccessChecks :
    2 ^ 52 ≤ 0x10000000000000 ∧ 0xFFFFFFFFFFFFF < 2 ^ 52 ∧ 0x101 % 4 ≠ 0 ∧ 0xFFFC % 4 = 0 ∧ inRegion 0xFFFC = false ∧
    (let s := withLeaf 0 (one (.nop 0)); translate s 0 0x100 = none) ∧
    (let s := withLeaf 0x41C07 (one (.nop 0))
     ∃ l, translate s 0 0x100 = some l ∧ l.badForm = false ∧ typeRefuses s l 0x100 4 .load = false ∧
       protects l false .load = false ∧ backed s (l.target 0x100) = true) ∧
    (let s := withLeaf 0x41805 (one (.nop 0))
     ∃ l, translate s 0 0x100 = some l ∧ l.badForm = false ∧ typeRefuses s l 0x100 4 .store = false ∧
       protects l false .store = true) ∧
    (let s := withLeaf 0x41D07 (one (.nop 0)); ∃ l, translate s 0 0x100 = some l ∧ l.badForm = true) ∧
    (let s := withLeaf 0x41C27 (one (.nop 0))
     ∃ l, translate s 0 0x100 = some l ∧ l.badForm = false ∧ typeRefuses s l 0x100 4 .atomic = true) := by
  refine ⟨by decide, by decide, by decide, by decide, by decide, by decide, ⟨leaf0, by decide⟩,
    ⟨⟨0x41805, 0x30000, false⟩, by decide⟩, ⟨⟨0x41D07, 0x30000, false⟩, by decide⟩, ⟨⟨0x41C27, 0x30000, false⟩, by decide⟩⟩

/-- The device with cluster 0 changed. -/
def cluster0 (f : Cluster → Cluster) (s : State) : State := { s with clusters := [(0, f default)] }

/-- Bank 0 in scratchpad mode and bank 3 in FIFO mode. -/
def twoModes (c : Cluster) : Cluster := { c with bankMode := 0x81 }

/-- A device leaf whose frame is that of the device's registers. -/
def portLeaf : Nat := 0x3F0000001C27

/-- Accesses to register space, which reach a register or not by their size; to the scratchpad, within it and beyond it; to the
port block, with no FIFO and with one; and through seam windows, of a crew whose seam is cooperative and of one whose is not. -/
theorem witness_AccessChecks_windows :
    (let s := withLeaf portLeaf (one (.nop 0))
     ∃ l, translate s 0 0x100 = some l ∧ l.badForm = false ∧ typeRefuses s l 0x100 4 .load = false ∧
       protects l false .load = false ∧ backed s (l.target 0x100) = false ∧ ¬l.type < 2) ∧
    inRegion 0xFFF0000000000 = true ∧ inRegion 0xFFF00003FFFFF = true ∧ inRegion 0xFFF0000400000 = true ∧
    inRegion 0xFFF1000000000 = true ∧ inRegion 0xFFF1000FFFFFF = true ∧ 0xFFF0000400000 < 2 ^ 52 ∧
    (let c := clusterAt (cluster0 twoModes (one (.nop 0))) 0
     ((List.range 32).filter (fun b => bankModeOf c b == 1)).length = 1 ∧ bankModeOf c 3 = 2 ∧
       (0x3FF000 + 3 * 128 - 0x3FF000) / 128 = 3 ∧ (0x3FF1C0 - 0x3FF000) / 128 = 3 ∧ bankModeOf c ((0x3FF000 - 0x3FF000) / 128) ≠ 2) ∧
    (∀ j, j < 32 → ¬bankModeOf (clusterAt (one (.nop 0)) 0) j = 2) ∧
    (let s := seamSix 0x000C0001 (one (.nop 0))
     (coopClusters s 0)[0]? = some 0 ∧ (coopClusters s 0)[3]? = none) ∧ coopClusters (one (.nop 0)) 0 = [] := by
  refine ⟨⟨⟨portLeaf, 0x30000, false⟩, by decide⟩, by decide, by decide, by decide, by decide, by decide, by decide, by decide,
    by decide, by decide, by decide⟩

/-- An entry of a table as the device reads it: backed, and valid. -/
def entryOk (s : State) (a : Nat) : Bool := backed s a && mem64 s a % 2 == 1

/-- Walks that end in a 64 KiB leaf, in a 512 MiB leaf, at an entry of each level that is not valid, and at the last entry of the
root, which maps nothing. -/
theorem witness_AccessChecks_walk :
    (let s := one (.nop 0)
     entryOk s 0x10000 = true ∧ mem64 s 0x10000 / 2 ^ 16 % 2 ^ 30 = 2 ∧ entryOk s 0x20000 = true ∧ mem64 s 0x20000 / 2 ^ 14 % 2 = 0 ∧
       mem64 s 0x20000 / 2 ^ 16 % 2 ^ 30 = 3 ∧ entryOk s 0x30000 = true ∧ entryOk (withLeaf 0 s) 0x30000 = false ∧
       tget s.tlb (tlbKey 0 0x100) = none) ∧
    (let s := { one (.nop 0) with mem := setBytes 0x20000 (bytesOf 8 0x20005C07) (one (.nop 0)).mem }
     entryOk s 0x20000 = true ∧ mem64 s 0x20000 / 2 ^ 14 % 2 = 1) ∧
    ([0x10000, 0x20000] : List Nat).all (fun a => !entryOk { one (.nop 0) with mem := setBytes a (bytesOf 8 0) (one (.nop 0)).mem } a) = true ∧
    (1023 * 2 ^ 42) / 2 ^ 42 = 1023 ∧ 1023 * 2 ^ 42 < 2 ^ 52 ∧ (0x100 : Nat) / 2 ^ 42 ≠ 1023 := by decide

/-- What the hypotheses of a load ask, as it is computed, in the state that its walk leaves: what it reaches, its bytes not
poisoned, no pending store that must become an event before it, and no access before it. -/
def loadSettled (i : Instr) (s : State) (a : Sel) (off : BitVec 8) (size : Nat) (r : Reach) : Bool :=
  let w := (loadReach i solo s 0 a off size).2
  decide ((loadReach i solo s 0 a off size).1 = .inr r) && decide (beforeAccess 0 [0] r w = w) &&
    decide (settleShared 0 [0] r size w = w) && !standsBehind (atIssue i solo s) solo (atIssue i solo s).nonce 0 &&
    !loadPoisoned w 0 0 r size

theorem settled_of {i : Instr} {s : State} {a : Sel} {off : BitVec 8} {size pa : Nat} {l : Leaf} {sb : BitVec 3}
    (h : loadSettled i s a off size (.mem pa l) = true) (hs : sb = 0 ∨ (Reach.mem pa l).strong = false) :
    settledLoads i solo s a off size sb [0] (atIssue i solo s)
      (fun _ => loadBytes (loadReach i solo s 0 a off size).2 0 0 (.mem pa l) size) (loadReach i solo s 0 a off size).2 := by
  simp only [loadSettled, Bool.and_eq_true, decide_eq_true_eq, Bool.not_eq_true'] at h
  have hr : receivers (isScalar a) solo 0 = [0] := by unfold receivers; split <;> rfl
  exact ⟨.mem pa l, _, Prod.ext h.1.1.1.1 rfl, h.1.2, (fun _ _ h => by cases h), hs, ⟨hr ▸ h.1.1.1.2, fun _ => h.1.1.2, h.2⟩, rfl, rfl⟩

/-- Loads whose translation is cached, and loads whose walk caches it. -/
theorem witness_LoadsComplete :
    loadKinds.all (fun e => [(0 : BitVec 3), 6].all (fun sb =>
      let i := e.1 4 2 0 sb
      [cached 2 0x100 i, reg 0 2 0x100 (one i)].all (fun s =>
        readyB i s && !slotFull (atIssue i solo s) solo sb && workers false solo == [0] && (crewAt s 0).ops.isEmpty &&
          loadSettled i s 2 0 e.2.1 (.mem 0x40100 leaf0)))) = true ∧ leaf0.type ≠ 3 := by decide

/-- Loads with a slot from a strongly ordered page. -/
theorem witness_LoadsComplete_strong :
    loadKinds.all (fun e =>
      let i := e.1 4 2 0 6
      let s := withLeaf 0x41C37 (reg 0 2 0x100 (one i))
      let r := Reach.mem 0x40100 ⟨0x41C37, 0x30000, false⟩
      readyB i s && !slotFull (atIssue i solo s) solo 6 && workers false solo == [0] && (crewAt s 0).ops.isEmpty && r.strong &&
        loadSettled i s 2 0 e.2.1 r) = true := by decide

/-- The device at the pop port of bank 3, with a FIFO, poisoned or not. -/
def popping (n : Nat) (bad : List Nat) (i : Instr) : State :=
  let s := reg 0 2 0x3FF1C0 (reg 0 3 0xFFF00 (cluster0 twoModes (one i)))
  { s with clusters := s.clusters.map (fun e => (e.1, { e.2 with fifos := [(3, List.replicate n 5)], fifoPoison := [(3, bad)] })) }

/-- Pops of enough bytes, of poisoned ones, and of too many. -/
theorem witness_LoadsComplete_pops :
    ([(.ldw, 4), (.ldd, 8), (.ldq, 16)] : List ((Sel → Sel → BitVec 8 → BitVec 3 → Instr) × Nat)).all (fun e =>
      ([(0, e.2, []), (6, e.2, [e.2]), (0, e.2, [e.2 - 1]), (0, e.2 - 1, [])] : List (BitVec 3 × Nat × List Nat)).all (fun x =>
        let i := e.1 4 2 0 x.1
        let s := popping x.2.1 x.2.2 i
        let r := loadReach i solo s 0 2 0 e.2
        readyB i s && !slotFull (atIssue i solo s) solo x.1 && workers false solo == [0] && (crewAt s 0).ops.isEmpty &&
          decide (r.1 = .inr (.port 0 3 64)) && !fifoBehind r.2 0 (atIssue i solo s).nonce 0 && !fifoQueued (clusterAt r.2 0) 3 false &&
          (tgetD (clusterAt r.2 0).fifos 3 []).length == x.2.1 && tgetD (clusterAt r.2 0).fifoPoison 3 [] == x.2.2)) = true := by decide

/-- The device whose register pair v2, v3 of lane 0 holds the address of a place of the scratchpad. -/
def atScratch (o : Word) (i : Instr) : State := reg 0 2 o (reg 0 3 0xFFF00 (cluster0 twoModes (one i)))

/-- `plainBytes`, as it is computed. -/
def plainB (s : State) (l : Leaf) (pa n : Nat) : Bool :=
  (List.range n).all (fun j => !blurred s l (pa + j)) && !disputed (openLeaf l pa n s) pa

theorem plain_of {s : State} {l : Leaf} {pa n : Nat} (h : plainB s l pa n = true) : plainBytes s l pa n := by
  simp only [plainB, Bool.and_eq_true, List.all_eq_true, Bool.not_eq_true', List.mem_range] at h
  exact ⟨h.1, h.2⟩

/-- Loads of poisoned data: of memory, of memory that a link returns corrupted, and of the scratchpad; and bytes of memory. -/
theorem witness_LoadsComplete_poison :
    loadKinds.all (fun e =>
      let i := e.1 4 2 0 0
      let s0 := cached 2 0x100 i
      let b0 := atScratch 0 i
      [{ s0 with memPoison := [0x40100] }, { s0 with badReads := [0x4010] }].all (fun s =>
        readyB i s && !slotFull (atIssue i solo s) solo 0 && workers false solo == [0] &&
          decide (loadReach i solo s 0 2 0 e.2.1 = (.inr (.mem 0x40100 leaf0), atIssue i solo s)) &&
          (decide (0x40100 ∈ (atIssue i solo s).memPoison) || spoiltRead (atIssue i solo s) 0x40100 e.2.1)) &&
      (let s := { b0 with clusters := b0.clusters.map (fun c => (c.1, { c.2 with poison := [0] })) }
       readyB i s && decide (loadReach i solo s 0 2 0 e.2.1 = (.inr (.bank 0 0), atIssue i solo s)) &&
         (clusterAt (atIssue i solo s) 0).poison.contains 0)) = true ∧
    plainBytes (one (.nop 0)) leaf0 0x40100 16 ∧ pendOf (one (.nop 0)) 0 0 = [] :=
  ⟨by decide, plain_of (by decide), by decide⟩

/-- A store at the last place of the page that its size fits, one to a write-combining page, at once and lagging. -/
theorem witness_StoresComplete :
    storeKinds.all (fun e => ([(0, false), (6, true)] : List (BitVec 3 × Bool)).all (fun x =>
      let i := e.1 4 2 0 x.1
      let s := { cached 2 (BitVec.ofNat 32 (0x10000 - e.2.1)) i with lag := x.2 }
      readyB i s && !slotFull (atIssue i solo s) solo x.1 && workers false solo == [0] &&
        (eachThread (storeOne i 4 2 0 x.1 e.2.1 e.2.2 false (atIssue i solo s).nonce solo) [0] (atIssue i solo s, [])).1.isEmpty)) =
      true := by decide

theorem witness_StoredBytes :
    storeKinds.all (fun e => [0x41C07, 0x41C17, 0x41C37].all (fun pte =>
      ([(0, false), (6, true)] : List (BitVec 3 × Bool)).all (fun x =>
        let i := e.1 4 2 0 x.1
        let s := { withLeaf pte (reg 0 2 0x100 (one i)) with tlb := [(0, ⟨pte, 0x30000, false⟩)], lag := x.2 }
        readyB i s && !slotFull (atIssue i solo s) solo x.1 && workers false solo == [0] &&
          accessVa i solo s 0 2 0 e.2.1 == 0x100 &&
          !disputed (storing 0 [0] 0x40100 e.2.1 ⟨pte, 0x30000, false⟩ (beforeAccess 0 [0] (.mem 0x40100 ⟨pte, 0x30000, false⟩)
            (atIssue i solo s))) 0x40100 &&
          decide (reach (atIssue i solo s) 0 0x100 e.2.1 .store (runsSystem (crewAt (atIssue i solo s) 0)) =
            (.inr (.mem 0x40100 ⟨pte, 0x30000, false⟩), atIssue i solo s))))) = true := by decide

/-- No thread of the device waits at SYWAIT, as it is computed. -/
def noSyncB (s : State) : Bool :=
  s.crews.all (fun e => e.2.threads.all (fun t => match t.2.run with
    | .waiting (.sync _ _ _ _ _) => false
    | _ => true))

theorem noSync_of {s : State} (h : noSyncB s = true) : noSyncWaiter s := by
  intro e he t ht cl off va g n hr
  simp only [noSyncB, List.all_eq_true] at h
  have := h e he t ht
  rw [hr] at this
  cases this

/-- Stores to the scratchpad, and to register space: to a register, and to the doorbell of queue 1. -/
theorem witness_StoredBytes_others :
    storeKinds.all (fun e =>
      let i := e.1 4 2 0 0
      let s := atScratch 0 i
      readyB i s && !slotFull (atIssue i solo s) solo 0 && noSyncB s && !s.lag &&
        decide (reach (atIssue i solo s) 0 (accessVa i solo s 0 2 0 e.2.1) e.2.1 .store (runsSystem (crewAt (atIssue i solo s) 0)) =
          (.inr (.bank 0 0), atIssue i solo s))) = true ∧
    [((0x100 : Word), 0x100), (0x8, 0x10008)].all (fun e =>
      let i := Instr.stw 4 2 0 0
      let pte := portLeaf + if e.2 < 0x10000 then 0 else 0x10000
      let s := withLeaf pte (reg 0 2 e.1 (one i))
      readyB i s && !slotFull (atIssue i solo s) solo 0 &&
        decide ((reach (atIssue i solo s) 0 (accessVa i solo s 0 2 0 4) 4 .store (runsSystem (crewAt (atIssue i solo s) 0))).1 =
          .inr (.reg e.2 ⟨pte, 0x30000, false⟩))) = true := by decide

/-- The device with stores pending. -/
def pending (ps : List Pending) (s : State) : State := crew (fun c => { c with pend := ps }) s

/-- An STNT, and a write-combining store of the same bytes, by lane 0. -/
def stream4 (wc : Bool) (instr : Nat) : Pending := ⟨wc, [0], instr, none, 0x40100, [1, 2, 3, 4]⟩

/-- One STNT and one write-combining store pend, of unlike instructions. -/
theorem witness_PendingStoresDrain :
    ([.drain, .fence] : List Instr).all (fun i =>
      readyB i (pending [stream4 false 1] (one i)) && readyB i (pending [stream4 true 1] (one i)) &&
        readyB i (pending [stream4 false 1, stream4 true 2] (one i))) = true ∧
      pendOf (pending [stream4 false 1] (one .drain)) 0 0 = [stream4 false 1] ∧
      disputed (pending [stream4 false 1] (one .drain)) 0x40100 = false := by decide

theorem witness_CacheControl :
    allReady [.pref 0 2 0, .pref 1 2 0, .cctlEvict 2 0, .cctlIinvall 2 0] ∧
    (let i := Instr.cctlIinv 96 0
     let s := reg 0 96 0x180 (one i)
     readyB i s = true ∧ workers (isScalar 96) solo = [0] ∧ accessVa i solo s 0 96 0 128 = 0x180 ∧ inRegion 0x180 = false ∧
       translate (atIssue i solo s) 0 0x180 = some leaf0) ∧
    (let i := Instr.cctlZero 2 0
     let s := reg 0 2 0x180 (one i)
     readyB i s = true ∧ workers (isScalar 2) solo = [0] ∧
       (let r := reach (atIssue i solo s) 0 0x180 16 .zero (runsSystem (crewAt (atIssue i solo s) 0))
        r.1 = .inr (.mem 0x40180 leaf0) ∧ (List.range 8).all (fun n => !disputed (storing 0 [0] (0x40180 + 16 * n) 16 leaf0
          (zeroSectors 0 [0] 0x180 (.mem 0x40180 leaf0) r.2 n)) (0x40180 + 16 * n)) = true)) := by
  decide

theorem witness_AtomicsComplete :
    atomicKinds.all (fun e => [(0 : BitVec 3), 6].all (fun sb =>
      let i := e.1 1 2 4 false sb
      let s := cached 2 0x100 i
      readyB i s && !slotFull (atIssue i solo s) solo sb && !s.lag && workers false solo == [0] &&
        (determTrap (crewAt (atIssue i solo s) 0) e.2.1 0x100).isNone &&
        decide (reach (atIssue i solo s) 0 0x100 4 .atomic (runsSystem (crewAt (atIssue i solo s) 0)) =
          (.inr (.mem 0x40100 leaf0), atIssue i solo s)) &&
        plainB (settleSector 0 [0] (.mem 0x40100 leaf0) (atIssue i solo s)) leaf0 0x40100 4 &&
        !spoiltRead (settleSector 0 [0] (.mem 0x40100 leaf0) (atIssue i solo s)) 0x40100 4 &&
        !memPoisoned (settleSector 0 [0] (.mem 0x40100 leaf0) (atIssue i solo s)) 0x40100 4)) = true := by decide

/-- Atomics on poisoned memory, and on a word of the scratchpad, poisoned and not. -/
theorem witness_AtomicsComplete_others :
    atomicKinds.all (fun e =>
      let i := e.1 1 2 4 false 0
      let goes := fun (s : State) => readyB i s && !slotFull (atIssue i solo s) solo 0 && !s.lag && workers false solo == [0]
      let b0 := atScratch 0 i
      (let s := { cached 2 0x100 i with memPoison := [0x40100] }
       goes s && (determTrap (crewAt (atIssue i solo s) 0) e.2.1 0x100).isNone &&
         decide (reach (atIssue i solo s) 0 0x100 4 .atomic (runsSystem (crewAt (atIssue i solo s) 0)) =
           (.inr (.mem 0x40100 leaf0), atIssue i solo s)) &&
         (settleSector 0 [0] (.mem 0x40100 leaf0) (atIssue i solo s)).memPoison.contains 0x40100) &&
      [[], [0]].all (fun ps =>
        let s := { b0 with clusters := b0.clusters.map (fun c => (c.1, { c.2 with poison := ps })) }
        goes s && noSyncB s && (determTrap (crewAt (atIssue i solo s) 0) e.2.1 0xFFF0000000000).isNone &&
          decide (reach (atIssue i solo s) 0 0xFFF0000000000 4 .atomic (runsSystem (crewAt (atIssue i solo s) 0)) =
            (.inr (.bank 0 0), atIssue i solo s)) &&
          (bankPoisoned (clusterAt (settleSector 0 [0] (.bank 0 0) (atIssue i solo s)) 0) 0 4 == !ps.isEmpty))) = true := by decide

/-- Branches taken and not taken, and register branches to an aligned target. -/
theorem witness_BranchesGo :
    allReady [.bra 7 false 0x1FFFF 0, .bra 1 false 0x20000 0, .bra 7 true 1 0, .call 7 false 1 0, .call 1 false 1 0] ∧
    ([.jmpr 62, .ret 62, .jmprL 60 62] : List Instr).all (fun i =>
      let s := reg 0 62 0x1000 (one i)
      readyB i s && (pairOf (reads i solo s 0) 62).toNat % 4 == 0) = true := by decide

theorem witness_BranchTargetsAligned :
    ([.jmpr 62, .ret 62, .jmprL 60 62] : List Instr).all (fun i => [(0x1001 : Word), 0x1003].all (fun w =>
      let s := reg 0 62 w (one i)
      readyB i s && (pairOf (reads i solo s 0) 62).toNat % 4 != 0)) = true := by decide

/-- The device with an open operation of lane 0 in a scoreboard slot. -/
def opIn (slot : Nat) (s : State) : State := crew (fun c => { c with ops := [{ (default : Op) with id := 9, slot := slot, members := [0], unwaited := [0] }] }) s

/-- No operation in the slots, and one in the last. -/
theorem witness_WaitsAndExits :
    allReady [.nop 7, .waitsb 0x3F 1, .exit] ∧
    (let i := Instr.waitsb 0x20 1
     readyB i (opIn 6 (one i)) = true ∧ slotCount (crewAt (opIn 6 (one i)) 0) 0 (5 + 1) ≠ 0 ∧
       (0x20 : BitVec 6).getLsbD 5 = true ∧ slotCount (crewAt (one i) 0) 0 6 = 0) ∧
    runsSystem (crewAt (one .exit) 0) = false ∧ hasHelpers (crewAt (one .exit) 0) 0 = false := by decide

/-- The group of lanes 0 and 1. -/
def duo : Group := ⟨0, [0, 1], 0x1004, []⟩

/-- The checks of `Ready`, for lanes 0 and 1. -/
def duoB (i : Instr) (s : State) : Bool :=
  decide (focusGroup s = some duo) && decide (groupTrap i duo (atIssue i duo s) = none) &&
    duo.keys.all (fun k => decide (threadTrap (atIssue i duo s) 0 i k = none))

theorem duo_of {i : Instr} {s : State} (h : duoB i s = true) : Ready i duo s := by
  simp only [duoB, Bool.and_eq_true, decide_eq_true_eq, List.all_eq_true] at h
  exact ⟨h.1.1, h.1.2, h.2⟩

/-- A register branch of lanes 0 and 1, of which lane 1 alone has a target that is not aligned. -/
theorem witness_BranchTargetsAligned_mixed :
    ([.jmpr 62, .ret 62, .jmprL 60 62] : List Instr).all (fun i =>
      let s := reg 0 62 0x1000 (reg 1 62 0x1002 (lanes [0, 1] (one i)))
      duoB i s && (pairOf (reads i duo s 0) 62).toNat % 4 == 0 && (pairOf (reads i duo s 1) 62).toNat % 4 != 0) = true := by decide

/-- Lanes 0 and 1 of a crew at an instruction, with a register set to 3 in both. -/
def joint (n : Nat) (i : Instr) : State := reg 0 n 3 (reg 1 n 3 (lanes [0, 1] (one i)))

/-- What `meets` asks of lanes 0 and 1 with a mask register of 3. -/
def meetsB (i : Instr) (m : BitVec 4) (s : State) : Bool :=
  duoB i s && decide (issueClock s duo i < 2 ^ 64) && duo.keys.all (fun k => joinMask (atIssue i duo s) duo m k == 3) &&
    named (crewAt s 0) 3 == [0, 1] && lentLanes s 0 [0, 1] == []

theorem witness_MaskResults :
    ([(.msplit 1 2 0, 0), (.mjoin 15, 15), (.shfli 1 2 3 0, 0), (.shflu 1 2 3 15, 15), (.shfld 1 2 3 5, 5), (.shflx 1 2 3 5, 5),
      (.vote 1 2 false 0 5, 5), (.vote 1 2 true 2 5, 5), (.ballot 1 7 false 5, 5), (.elect 1 5, 5), (.matchW 1 2 5, 5),
      (.matchD 1 2 5, 5)] : List (Instr × BitVec 4)).all (fun e => meetsB e.1 e.2 (joint (80 + e.2.toNat) e.1)) = true := by
  decide

/-- A lane that runs on its own way, beside lane 0 at a meeting. -/
def strayLane (s : State) : State :=
  modThread 0 1 (fun t => { t with group := 9, pc := 0x2000 }) (lanes [0, 1] s)

/-- A lane of the mask that runs on its own way; the group's own bit clear; and a lane that waits at another join with the mask. -/
theorem witness_MaskResults_waits :
    ([(.mjoin 4, 4), (.shfli 1 2 3 4, 4), (.scan 1 2 true 0 4, 4), (.redux 1 2 8 4, 4), (.elect 1 4, 4)] : List (Instr × BitVec 4)).all (fun e =>
      let s := strayLane (reg 0 84 3 (one e.1))
      let t := modThread 0 1 (fun t => { t with run := .waiting (.join 0x2000 3) }) s
      let u := strayLane (reg 0 84 2 (one e.1))
      maskReg e.1 == some e.2 && [s, t, u].all (readyB e.1) && joinMask (atIssue e.1 solo s) solo 4 0 == 3 &&
        joinMask (atIssue e.1 solo u) solo 4 0 == 2 && liveLanes (crewAt s 0) == [0, 1] && named (crewAt s 0) 3 == [0, 1] &&
        !waitsJoin (crewAt s 0) 1 && !waitsJoin (crewAt u 0) 1 && (tget t.contexts (crewAt t 0).ctx).isSome &&
        (threadAt (crewAt t 0) 1).map (fun v => (v.run, v.pc)) == some (.waiting (.join 0x2000 3), 0x2000)) = true := by decide

theorem witness_FoldResults :
    ([0, 8, 10] : List (BitVec 5)).all (fun op => decide (op.toNat ≤ 10) && [true, false].all (fun ex =>
      meetsB (.scan 1 2 ex op 4) 4 (joint 84 (.scan 1 2 ex op 4))) &&
      meetsB (.redux 1 2 op 4) 4 (joint 84 (.redux 1 2 op 4))) = true := by decide

/-- Barriers of one lane, which is complete at once; a seam of two crews that is not cooperative; a lane that has yet to come.
In a cooperative seam of two crews with one placed, the group waits. -/
theorem witness_BarriersMeet :
    ([.bar, .barSeam] : List Instr).all (fun i =>
      let s := one i
      readyB i s && !wide i s 0 &&
        (liveOf s (barCrews s 0 (wide i s 0))).all (fun e =>
          (e.1 == 0 && solo.keys.contains e.2 || waitsBar s 0x1004 (wide i s 0) e) && lentLanes s e.1 [e.2] == [])) = true ∧
    (let s := seamSix 0x00080001 (one .barSeam)
     readyB .barSeam s = true ∧ wide .barSeam s 0 = true ∧ bitAt (seamWord6 s 0) 18 = false) ∧
    (let s := strayLane (one .bar)
     readyB .bar s = true ∧ wide .bar s 0 = false ∧ waitsMeeting (crewAt s 0) 1 = false ∧ liveOf s (barCrews s 0 false) = [(0, 0), (0, 1)]) ∧
    (let s := strayLane (seamSix 0x000C0001 (one .barSeam))
     readyB .barSeam s = true ∧ wide .barSeam s 0 = true ∧ bitAt (seamWord6 s 0) 18 = true ∧
       liveOf s (barCrews s 0 true) = [(0, 0), (0, 1)] ∧ waitsMeeting (crewAt s 0) 1 = false) ∧
    (let s := modThread 0 1 (fun t => { t with run := .waiting (.bar 0x2000 false) }) (strayLane (one .bar))
     readyB .bar s = true ∧ wide .bar s 0 = false ∧ (tget s.contexts (crewAt s 0).ctx).isSome = true ∧ liveLanes (crewAt s 0) = [0, 1] ∧
       (threadAt (crewAt s 0) 1).map (fun v => (v.run, v.pc)) = some (.waiting (.bar 0x2000 false), 0x2000) ∧ (0x2000, false) ≠ (0x1004, false)) := by decide

theorem witness_RandomDraws :
    draws.all (fun e => readyB (e.1 4) (one (e.1 4)) && readyB (e.1 92) (one (e.1 92))) = true ∧ solo.keys = [0] ∧ ¬ 32 ≤ 0 := by
  decide

/-- A recruitment of a count, at its next index, with helpers granted. -/
def recruitOf (count next granted : Nat) : Recruit := ⟨count, next, granted, 0, false, false, [], []⟩

/-- The device with a recruitment of lane 0. -/
def recruiting (r : Recruit) (s : State) : State := crew (fun c => { c with recruits := [(0, r)] }) s

/-- A helper of lane 0, worker 1, as a thread at the instruction. -/
def helperThread (s : State) (due : Option Nat) : Thread :=
  { (threadAt (crewAt s 0) 0).getD default with
    group := 9, helper := some ⟨0, 1, [], some 1, due, false, 0⟩, iter := some (0, 0) }

/-- The device with the helper. -/
def helped (due : Option Nat) (s : State) : State :=
  crew (fun c => { c with threads := tset c.threads (tkey (.helper 0 1)) (helperThread s due) }) s

/-- The device with the helper in focus. -/
def helperNext (due : Option Nat) (s : State) : State := { helped due s with focus := ⟨0, .helper 0 1⟩ }

/-- EXIT of a lane whose recruitment has a helper, and EXIT in the helper. -/
theorem witness_WaitsAndExits_helpers :
    (let s := helped none (recruiting (recruitOf 2 1 1) (one .exit))
     readyB .exit s = true ∧ runsSystem (crewAt s 0) = false ∧
       (crewAt s 0).threads.any (fun e => e.2.helper.any (fun h => h.recruiter == 0)) = true) ∧
    (let s := recruiting (recruitOf 2 1 1) (helperNext none (one .exit))
     focusGroup s = some ⟨0, [tkey (.helper 0 1)], 0x1004, []⟩ ∧ hasIssued (crewAt s 0) (tkey (.helper 0 1)) = false ∧
       32 ≤ tkey (.helper 0 1)) := by decide

/-- No recruitment open, with 31 asked for 40 iterations, and one open. -/
theorem witness_RecruitOpens :
    (let i := Instr.recruit 1 2 3 false 0 1
     let s := reg 0 2 40 (reg 0 3 40 (one i))
     readyB i s = true ∧ readyB i (recruiting (recruitOf 1 0 0) s) = true ∧ tget (crewAt s 0).recruits 0 = none ∧
       assayOn (crewAt s 0) 0 = false ∧ snapshotPoisoned (crewAt s 0) 0 = false ∧ grantCount (atIssue i solo s) 0 0 31 40 = 31 ∧
       snapshotUnderruns (atIssue i solo s) 0 0 = false) ∧
    readyB (.recruit 95 2 0x7F true 1 1) (one (.recruit 95 2 0x7F true 1 1)) = true := by decide

/-- The checks of `Ready` for a group of one thread. -/
def readyG (i : Instr) (g : Group) (s : State) : Bool :=
  decide (focusGroup s = some g) && decide (groupTrap i g (atIssue i g s) = none) &&
    g.keys.all (fun k => decide (threadTrap (atIssue i g s) g.slot i k = none))

/-- The group of the helper. -/
def aide : Group := ⟨0, [tkey (.helper 0 1)], 0x1004, []⟩

/-- A recruiter with indexes left, one with none left, one without a recruitment; a helper with indexes left, and helpers that
end: none left, and a release that is due. -/
theorem witness_NextIndexes :
    (let i := Instr.hnext 33 1 true
     let k := tkey (.helper 0 1)
     let left := recruitOf 2 1 1
     let spent := recruitOf 2 2 1
     (let s := recruiting left (one i); readyB i s = true ∧ servedRecruit solo s 0 = some left ∧ releaseDue (crewAt s 0) 0 = false) ∧
     (let s := recruiting spent (one i); readyB i s = true ∧ servedRecruit solo s 0 = some spent ∧ (servedBy (crewAt s 0) 0).2 = false) ∧
     (readyB i (one i) = true ∧ servedRecruit solo (one i) 0 = none) ∧
     (let s := recruiting left (helperNext none (one i))
      readyG i aide s = true ∧ servedRecruit aide s k = some left ∧ releaseDue (crewAt s 0) k = false) ∧
     (let s := recruiting spent (helperNext none (one i))
      readyG i aide s = true ∧ (servedBy (crewAt s 0) k).2 = true ∧ servedRecruit aide s k = some spent) ∧
     (let s := recruiting left (helperNext (some 5) (one i))
      readyG i aide s = true ∧ servedRecruit aide s k = some left ∧ releaseDue (crewAt s 0) k = true)) := by decide

/-- HRELEASE with a helper, with a recruitment and no helper, and without a recruitment; status reads. -/
theorem witness_RecruitmentStatus :
    (let s := helped none (recruiting (recruitOf 2 1 1) (one (.hrelease 1)))
     readyB (.hrelease 1) s = true ∧ hasHelpers (crewAt s 0) 0 = true) ∧
    (let s := recruiting (recruitOf 2 2 1) (one (.hrelease 1))
     readyB (.hrelease 1) s = true ∧ hasHelpers (crewAt s 0) 0 = false) ∧
    allReady [.hrelease 95, .hstat 1, .hstatNext 1, .hstatCount 95] := by decide

/-- The device with pages for addresses 0 to 0x7FFFF, at physical addresses from 0x40000 on. -/
def paged (s : State) : State :=
  { s with mem := setBytes 0x30000 ((List.range 8).flatMap (fun n => bytesOf 8 (0x41C07 + n * 0x10000))) s.mem }

/-- An open ticket stream of context 0: tickets 10 to 19, two closes each, at ticket 12. -/
def stream12 : Stream := { Stream.fresh with state := .opened, b := 10, m := 10, c := 2, w := 12 }

/-- The device with a ticket stream in slot 0, to which the crew's TSTREAM is bound. -/
def ticketed (x : Stream) (s : State) : State := crew (fun c => { c with tstream := 0 }) { s with streams := [(0, x)] }

/-- The words of a register of lane 0, from a register on. -/
def words (n : Nat) (ws : List Word) (s : State) : State :=
  ws.zipIdx.foldl (fun s e => reg 0 (n + e.2) e.1 s) s

set_option maxRecDepth 8000 in
theorem witness_TicketStreamsOpen :
    (let i := Instr.tsopen 1 104
     let s := paged (words 104 [10, 10, 2, 0] (one i))
     let full := { s with streams := (List.range 256).map (fun n => (n, stream12)) }
     readyB i s = true ∧ streamLimits 10 10 2 0 = true ∧
       (reads i solo s 0 104 = 10 ∧ reads i solo s 0 107 = 0 ∧ (crewAt s 0).spill = 0) ∧
       spillTrap (atIssue i solo s) 0 0 = none ∧ lowestFree s 0 ∧
       readyB i full = true ∧ (List.range 256).all (fun n => (streamAt full n).state == .opened) = true) := by
  unfold lowestFree; refine ⟨by decide, by decide, by decide, by decide, ⟨by decide, by decide, by decide⟩, by decide, by decide⟩

theorem witness_TicketStreams_handles :
    (let s := ticketed stream12 (one (.tsbind 96))
     readyB (.tsbind 96) s = true ∧ streamNamed s 0 0 = some 0 ∧ streamNamed s 0 256 = none ∧
       readyB (.tsbind 96) (reg 0 96 256 s) = true ∧ readyB (.tsbind 96) (reg 0 96 0xFFFFFFFF s) = true) ∧
    [(Instr.tdrain, false), (Instr.tdrainF, true)].all (fun e =>
      let i := e.1 96
      readyB i (ticketed stream12 (one i)) && readyB i (ticketed { stream12 with state := .drained } (one i)) &&
        readyB i (reg 0 96 256 (one i)) && streamNamed (one i) 0 256 == none) = true := by decide

/-- Updates at the ticket W and after it, with their page cached. -/
theorem witness_TicketedUpdates :
    [(12 : Word), 19].all (fun j =>
      let i := Instr.afaddt 1 2 4 1
      let s := ticketed stream12 (reg 0 1 j (reg 0 4 0x3F800000 (cached 2 0x100 i)))
      readyB i s && !slotFull (atIssue i solo s) solo 1 && workers false solo == [0] && !s.lag && s.updates == [] &&
        decide (updateTrap (atIssue i solo s) (crewAt (atIssue i solo s) 0) (boundHandle s (crewAt s 0)) j.toNat 0x100 = none) &&
        decide (streamNamed s 0 (boundHandle s (crewAt s 0)) = some 0) &&
        decide (reachTicket (atIssue i solo s) 0 0x100 false = (.inr (0x40100, leaf0), atIssue i solo s)) &&
        !memPoisoned (settleBytes 0 [0] none 0x40100 16 (atIssue i solo s)) 0x40100 4 &&
        plainB (settleBytes 0 [0] none 0x40100 16 (atIssue i solo s)) leaf0 0x40100 4 && bufferRoom s 0 (homeOf s 0x40100 false) &&
        readyB i { s with lag := true }) = true := by decide

/-- No tickets; one close of W, with another to come and as the last; one of a later ticket. -/
theorem witness_TicketsClose :
    [(0, 12), (1, 12), (1, 19)].all (fun e => [0, 1].all (fun n =>
      let i := Instr.tclose 96 97
      let s := ticketed { stream12 with closes := [(12, n)] } (words 96 [BitVec.ofNat 32 e.2, BitVec.ofNat 32 e.1] (one i))
      readyB i s && closesLeft s solo == none && workers true solo == [0] &&
        decide (closeTrap s (crewAt s 0) (boundHandle s (crewAt s 0)) e.2 e.1 = none) &&
        decide (streamNamed s 0 (boundHandle s (crewAt s 0)) = some 0) && allAccepted s 0 [0] &&
        (tgetD s.contexts 0 default).saved.isNone)) = true ∧
    tgetD stream12.closes 13 0 < 2 ∧ 13 < 10 + 10 := by decide

/-- An update on its way. -/
def update12 (ticket : Nat) : Update :=
  { (default : Update) with id := 5, ctx := 0, handle := 0, ticket := ticket, value := 0x3F800000, pa := 0x40100, va := 0x100, leaf := leaf0 }

theorem witness_TicketEvents :
    [11, 12, 19].all (fun j =>
      let s := { ticketed stream12 (one (.nop 0)) with updates := [update12 j] }
      s.updates.find? (fun x => x.id == 5) == some (update12 j) && s.updates.takeWhile (fun x => x.id != 5) == [] &&
        streamNamed s 0 0 == some 0 && !memPoisoned s 0x40100 4 && plainB s (update12 j).leaf 0x40100 4 && bufferRoom s 0 (update12 j).home) = true ∧
    (let s := ticketed { stream12 with stall := 10000, buffered := [update12 19] } (one (.nop 0))
     ∃ x, tget s.contexts (streamAt s 0).ctx = some x ∧ stallCounts s (streamAt s 0) = true ∧ x.stallLimit ≤ (streamAt s 0).stall) := by
  refine ⟨by decide, ⟨programContext, by decide⟩⟩

/-- A record of rank 1: four FP32 elements at address 0x100, in a box of four. -/
def rank1 : List Word := [0x100, 0, 0x108, 0, 4, 0, 0, 0, 0, 0, 0, 0, 0, 3, 0, 0]

/-- The device with the record in shape slot 1, of generation 7, with a peer, and with every bank of cluster 0 scratchpad. -/
def shaped (s : State) : State :=
  { s with
    contexts := s.contexts.map (fun e => (e.1, { e.2 with shapes := [(1, ⟨7, some rank1⟩)] }))
    clusters := [(0, { (default : Cluster) with bankMode := 0x5555555555555555 })] }

/-- The block of a copy: the handle, an origin, location 0, no sync word. -/
def copyBlock (i : Instr) : State := shaped (words 96 [0x70001, 1, 0, 0, 0, 0, 0, 0xFFFFFFFF] (one i))

/-- The engine counter of a class at a number. -/
def counted (cls n : Nat) (s : State) : State :=
  crew (fun c => { c with copies := List.replicate n { (default : Copy) with cls := cls } }) s

/-- Each member of the family with a valid handle, with a stale one, and with its counter at 63 and at 62. -/
theorem witness_CopiesQueued :
    copyForms.all (fun e =>
      let i := e.1 96 110
      let s := copyBlock i
      let r := fun j => reads i solo s 0 (96 + j)
      readyB i s && shapeNamed s 0 (r 0) == some rank1 &&
        (match e.2.2.2 110 (atIssue i solo s) solo (geomOf rank1) r with
          | .inr p => !heldBySwitch (atIssue i solo s) (p.banks (atIssue i solo s) 0 (geomOf rank1) [1, 0, 0, 0, 0]) &&
            (match planCopy (atIssue i solo s) solo (geomOf rank1) rank1 [1, 0, 0, 0, 0] (e.2.2.1 (r 6)) p with
            | (.inr cp, _) => cp.cls == e.2.1
            | _ => e.2.1 == 3)
          | _ => false) &&
        readyB i (reg 0 96 1 s) && shapeNamed (reg 0 96 1 s) 0 1 == none &&
        readyB i (counted e.2.1 63 s) && engineCount (crewAt (counted e.2.1 63 s) 0) e.2.1 == 63 &&
        engineCount (crewAt (counted e.2.1 62 s) 0) e.2.1 == 62) = true := by decide

/-- A switch of the banks that a copy, or a job, uses waits. -/
theorem witness_CopiesQueued_held :
    (let i := Instr.cpin 96
     let t := copyBlock i
     let s := { t with clusters := t.clusters.map (fun e => (e.1, { e.2 with switches := [⟨0, 1, [0], 4⟩] })) }
     readyB i s = true ∧ engineCount (crewAt s 0) 0 < 63 ∧ shapeNamed s 0 (reads i solo s 0 96) = some rank1 ∧
       (match cpinPlan (atIssue i solo s) solo (geomOf rank1) (fun j => reads i solo s 0 (96 + j)) with
         | .inr p => heldBySwitch (atIssue i solo s) (p.banks (atIssue i solo s) 0 (geomOf rank1) [1, 0, 0, 0, 0])
         | _ => false) = true) := by decide

/-- CPNET with a peer: a push and a pull. -/
theorem witness_CopiesQueued_cpnet :
    [(0 : Word), 0x10000000].all (fun hi =>
      let i := Instr.cpnet 96 110
      let s := reg 0 111 hi { copyBlock i with
        contexts := (copyBlock i).contexts.map (fun e => (e.1, { e.2 with peers := [(0, ⟨[0, 0, 0, 0, 0, 0, 0x01000000, 1], 0, 0⟩)] })) }
      let r := fun j => reads i solo s 0 (96 + j)
      readyB i s && (match cpnetPlan (pairOf (reads i solo s 0) 110) (atIssue i solo s) solo (geomOf rank1) r with
          | .inr p => (match planCopy (atIssue i solo s) solo (geomOf rank1) rank1 [1, 0, 0, 0, 0] 0 p with
            | (.inr _, _) => true
            | _ => false)
          | _ => false)) = true := by decide

/-- A sync word at scratchpad offset 0: TARGET 4, ARRIVED 3, GEN 7, one thread waiting. -/
def syncWord (s : State) : State :=
  let t := shaped s
  { t with clusters := t.clusters.map (fun e => (e.1, { e.2 with
      banks := [(scratchKey e.2 0, 4), (scratchKey e.2 4, 3), (scratchKey e.2 8, 7), (scratchKey e.2 12, 1)] })) }

/-- Arrivals of 0, of 1, which fills the target, and of the greatest number; waits for a generation that has passed and for
those that have not; counters at, above and below their limits. -/
theorem witness_SyncWords :
    (let i := Instr.syinit 96 97
     let s := syncWord (words 96 [0, 0x80000000] (one i))
     readyB i s = true ∧ syncRef (atIssue i solo s) 0 0 = .inr ⟨0, 0, localBase⟩ ∧ syncAt s ⟨0, 0, localBase⟩ 2 = 7) ∧
    [(0 : Word), 1, 0x80000000].all (fun z =>
      let i := Instr.syarr 96 97
      let s := syncWord (words 96 [0, z] (one i))
      readyB i s && decide (syncRef (atIssue i solo s) 0 0 = .inr ⟨0, 0, localBase⟩) && syncAt s ⟨0, 0, localBase⟩ 0 == 4) = true ∧
    [(6 : Word), 7, 8, 0x80000008].all (fun z =>
      let i := Instr.sywait 96 97
      let s := syncWord (words 96 [0, z] (one i))
      readyB i s && decide (syncRef (atIssue i solo s) 0 0 = .inr ⟨0, 0, localBase⟩)) = true ∧
    (let i := Instr.sytest 96 98
     readyB i (syncWord (one i)) = true ∧ syncRef (atIssue i solo (syncWord (one i))) 0 0 = .inr ⟨0, 0, localBase⟩) ∧
    (readyB (.waitc 0 1) (counted 0 1 (one (.waitc 0 1))) = true ∧ readyB (.waitc 0 1) (counted 0 2 (one (.waitc 0 1))) = true ∧
      allReady [.waitc 3 63, .cntrd 96 2]) := by decide

/-- SHPSET of a record in memory, with the first slot free; a device whose slots are all set; valid and stale handles. -/
theorem witness_ShapeSlots :
    (let i := Instr.shpset 98 96
     let s0 := shaped (words 96 [0x200, 0] (one i))
     let s := { s0 with mem := setBytes 0x40200 (rank1.flatMap (fun w => bytesOf 4 w.toNat)) s0.mem }
     readyB i s = true ∧ (shapeRead (atIssue i solo s) solo 0x200).1 = .inr rank1 ∧ (shapeAt s 0 0).record = none ∧
       (shapeAt s 0 1).record ≠ none ∧ (tget s.contexts 0).isSome = true) ∧
    (let full : State := { one (.shpset 98 96) with
      contexts := [(0, { programContext with shapes := (List.range 4).map (fun n => (n, ⟨0, some rank1⟩)) })] }
     (List.range 4).all (fun n => (shapeAt full 0 n).record.isSome) = true) ∧
    (let i := Instr.shpfree 96
     let s := shaped (reg 0 96 0x70001 (one i))
     readyB i s = true ∧ shapeNamed s 0 0x70001 = some rank1 ∧ readyB i (shaped (one i)) = true ∧ shapeNamed (shaped (one i)) 0 0 = none) ∧
    (let i := Instr.shprd 112 97
     let s := shaped (reg 0 97 0x70001 (one i))
     readyB i s = true ∧ shapeNamed s 0 0x70001 = some rank1 ∧ readyB i (shaped (one i)) = true) ∧
    (readyB (.cppf 104 1) (shaped (one (.cppf 104 1))) = true ∧ readyB (.cppf 96 0) (copyBlock (.cppf 96 0)) = true) := by decide

/-- A record with the bank rotation, and one that lands transposed. -/
theorem witness_ShapeLanding :
    recordValid rank1 = true ∧
    recordValid [0x100, 0, 0x1208, 0, 40, 9, 0, 0, 0, 256, 0, 0, 0, 0x0703, 0x300, 0] = true ∧
    0 < (geomOf rank1).rows ∧ 15 < (geomOf rank1).rowBytes := by decide

/-- The job blocks of the loop instructions. -/
def jobBlock (k : JobKind) : List Word :=
  match k with
  | .mrast => [0, 0, 80] ++ List.replicate 13 0
  | .mfilt => [0x9, 1] ++ List.replicate 14 0
  | _ => [0x909, 1, 0, 0, 1] ++ List.replicate 11 0

/-- The device with the blocks of a loop instruction; with so many jobs queued. -/
def jobbed (k : JobKind) (n : Nat) (i : Instr) : State :=
  crew (fun c => { c with jobs := List.replicate n { (default : Job) with kind := k } }) (shaped (words 96 (jobBlock k) (one i)))

theorem witness_MatrixJobsQueued :
    loopForms.all (fun e => [(112 : Sel), 120, 127].all (fun b => [0, 3].all (fun n =>
      let i := e.1 96 b
      let s := jobbed e.2.1 n i
      let w := jobWords i 96 b solo s
      readyB i s && !jobWaits s solo && !badBlocks 96 b &&
        decide (blockTrap (atIssue i solo s) 0 ((e.2.2 (crewAt (atIssue i solo s) 0) w.1).and
          (postCheck (crewAt (atIssue i solo s) 0) e.2.1 w.2)) w.2 = none))) &&
      (let s := jobbed e.2.1 4 (e.1 96 112); readyB (e.1 96 112) s && jobWaits s solo)) = true ∧
    (let s := jobbed .mma 3 (.mzero true 3)
     readyB (.mzero true 3) s = true ∧ jobWaits s solo = false ∧ viewCount (crewAt s 0).viewT = 4 ∧
       readyB (.mzero false 4) (one (.mzero false 4)) = true ∧ viewCount (crewAt s 0).viewA = 4) ∧
    (allReady [.mstat 96, .mstatC 96] ∧ readyB (.mstat 96) (jobbed .mma 1 (.mstat 96)) = true) := by decide

/-- A job that writes to scratchpad while a switch of its banks waits. -/
theorem witness_MatrixJobsQueued_held :
    (let i := Instr.mma 96 112
     let t := words 112 (0x82 :: List.replicate 7 0) (jobbed .mma 0 i)
     let s := { t with clusters := t.clusters.map (fun e => (e.1, { e.2 with switches := [⟨0, 1, [0], 4⟩] })) }
     let w := jobWords i 96 112 solo s
     readyB i s = true ∧ jobWaits s solo = false ∧ badBlocks 96 112 = false ∧
       heldBySwitch (atIssue i solo s) (jobBanks (atIssue i solo s) 0 .mma w.1 w.2) = true ∧
       heldBySwitch (atIssue i solo (jobbed .mma 0 i)) (jobBanks (atIssue i solo (jobbed .mma 0 i)) 0 .mma (jobBlock .mma) []) = false) := by
  decide

/-- The device with task queue 5 bound to context 0, without a sump. -/
def queued (chip : List Task) (s : State) : State :=
  { s with queues := [(5, { TaskQueue.fresh with ctx := some 0, chip := chip, size := 0 })] }

theorem own_launch (s : State) (h : (crewAt s 0).role = .seam 5 0 0) :
    launchIs s 0 (tgetD s.seams 5 default).launch (tgetD s.launches (tgetD s.seams 5 default).launch default) :=
  ⟨5, 0, 0, h, rfl, rfl⟩

/-- A push with room, one without, and one in a cancelled launch; reads and flags of the own levels; queues that are the
context's and that are not. -/
theorem witness_TaskInstructions :
    [(Instr.spawn 96 104, 1), (Instr.spawnn 96 104, 2)].all (fun e =>
      let i := e.1
      let ws : List Word := [0x1000, 0, 0, 0, 0, 0, 0x00080000, 7]
      let s := queued [] (words 96 (ws ++ [0x20005]) (one i))
      let l := tgetD s.launches 4 default
      readyB i s && decide ((crewAt s 0).role = .seam 5 0 0) && (tgetD s.seams 5 default).launch == 4 &&
        decide (spawnTrap (atIssue i solo s) 0 96 5 ws l.det = none) && !launchCancelled s l &&
        decide (e.2 ≤ (queueAt s 5).room) && l.counter == 1 && (queueAt s 5).spilled == 0 &&
        launchCancelled s { l with cancel := true } &&
        decide ((queueAt (queued (List.replicate 32 default) s) 5).room < e.2)) = true ∧
    [Instr.cancelchk 96, .lvlrd 96 0, .lvlrd 96 3, .lvlcancel 0, .lvlcancel 3, .seedrd 96].all (fun i =>
      readyB i (one i) && decide ((crewAt (one i) 0).role = .seam 5 0 0)) = true ∧
    [Instr.qhold 5, .qrun 5, .qhold 63].all (fun i => readyB i (queued [] (one i))) = true ∧
    (queueAt (queued [] (one (.qhold 5))) 5).ctx = some 0 ∧ (queueAt (queued [] (one (.qhold 5))) 63).ctx = none := by decide

/-- The device with its launch permitted to switch banks. -/
def banked (v : DWord) (s : State) : State :=
  { s with launches := s.launches.map (fun e => (e.1, { e.2 with bankPerm := true })), clusters := [(0, { (default : Cluster) with bankMode := v })] }

/-- `quietBanks`, as it is computed. -/
def quietB (s : State) (cl : Nat) : Bool :=
  s.atoms.all (fun a => !a.reach.inBanks cl) &&
    s.crews.all (fun e => (crewAt s e.1).pend.all (fun p => p.cluster != some cl) &&
      ((crewAt s e.1).ops ++ e.2.ops).all (fun o => o.late.all (fun x => !x.reach.any (Reach.inBanks cl))))

theorem quiet_of {s : State} {cl : Nat} (h : quietB s cl = true) : quietBanks s cl := by
  simp only [quietB, Bool.and_eq_true, List.all_eq_true, Bool.not_eq_true', bne_iff_ne] at h
  exact ⟨h.1, fun e he => h.2 e he⟩

/-- Reads, writes of each register, and of BANKMODE without permission, without a switch, and with one. -/
theorem witness_ControlRegisters :
    ([0, 1, 2, 3, 4, 5, 6, 7] : List Sel).all (fun b => readyB (.cregr 98 b) (one (.cregr 98 b))) = true ∧
    allReady [.cregw 0 96, .cregw 1 96, .cregw 7 96, .cregw 6 96] ∧
    (readyB (.cregw 5 96) (reg 0 96 0xFFFFFFFF (one (.cregw 5 96))) = true ∧
      readyB (.cregw 5 96) (ticketed stream12 (one (.cregw 5 96))) = true ∧ streamNamed (ticketed stream12 (one (.nop 0))) 0 0 = some 0) ∧
    bankPermission (one (.nop 0)) (crewAt (one (.nop 0)) 0) = false ∧
    (let i := Instr.cregw 6 96
     let s := banked 1 (reg 0 96 4 (one i))
     readyB i s = true ∧ bankPermission s (crewAt s 0) = true ∧ switches (clusterAt s 0) 4 = true ∧ (clusterAt s 0).switches = [] ∧
       (clusterAt s 0).fifoReqs = [] ∧ switchReady s 0 0 4 = true ∧ switches (clusterAt s 0) 1 = false ∧ quietB s 0 = true ∧
       modeAfter (clusterAt s 0) 4 1 = 1 ∧ bankModeOf (clusterAt s 0) 1 ≠ 1) := by decide

/-- The thread in focus at some run state. -/
def runs (r : RunState) (s : State) : State := modThread 0 0 (fun t => { t with run := r }) s

/-- The crew as a handler crew. -/
def handlers (s : State) : State := crew (fun c => { c with role := .handler 0 }) s

/-- In a handler crew whose wake flag is set: SLEEP at its issue, and one that waits, at its issue and by its expiry. -/
theorem witness_TrapsAndSleep_wake :
    [RunState.running, .waiting (.sleep 9999 true)].all (fun r =>
      let s := runs r (crew (fun c => { c with wake := true }) (handlers (one (.sleep 97))))
      readyB (.sleep 97) s && runsSystem (crewAt s 0) && (crewAt s 0).wake &&
        decide ((threadAt (crewAt s 0) solo.lead).map (·.run) = some r) && groupOf s 0 (tkey (.lane 0)) == some solo &&
        (r == .running || sleepsUntil s solo == some 9999)) = true := by decide

theorem witness_TrapsAndSleep :
    allReady [.trap 0, .trap 127, .bkpt 5, .yield, .sleep 96] ∧
    (readyB .yield (runs (.waiting (.yields 64)) (one .yield)) = true) ∧
    ([0, 5] : List Word).all (fun n =>
      let s := reg 0 97 n (one (.sleep 97)); readyB (.sleep 97) s && !wakes (crewAt s 0)) = true ∧
    (let s := runs (.waiting (.sleep 0 false)) (one (.sleep 97))
     readyB (.sleep 97) s = true ∧ 0 ≤ crewClock (atIssue (.sleep 97) solo s) (crewAt s 0)) ∧
    (let s := runs (.waiting (.sleep 0 true)) (one (.sleep 97))
     groupOf s 0 (tkey (.lane 0)) = some solo ∧ sleepsUntil s solo = some 0 ∧ 0 ≤ crewClock s (crewAt s 0)) := by decide

/-- A record with its number. -/
def record7 (n : Nat) : FaultRec := ⟨n, [1, 2, 3, 4, 5, 6, 7, 8], false, false, false⟩

/-- Context 0 with its fault queue, at 0x2000, holding records in the ring. -/
def ringed (rs : List FaultRec) (s : State) : State :=
  { s with
    contexts := [(0, { programContext with fq := { programContext.fq with base := 0x2000, count := rs.length, ring := rs } })]
    mem := setBytes 0x42000 (rs.flatMap (fun r => r.words.flatMap (fun w => bytesOf 4 w.toNat))) s.mem }

/-- A lane that record 7 parks, beside the handler's own. -/
def parkedLane (s : State) : State :=
  modThread 0 1 (fun t => { t with group := 9, run := .parked 7 }) (lanes [0, 1] s)

theorem witness_HandlerInstructions :
    (let i := Instr.fqpop 104 96
     let s := handlers (one i)
     let r := handlers (ringed [record7 7] (one i))
     readyB i s = true ∧ runsSystem (crewAt s 0) = true ∧ (tgetD s.contexts 0 default).fq.ring = [] ∧
       readyB i r = true ∧ (tgetD r.contexts 0 default).fq.ring = [record7 7] ∧ (record7 7).words.length = 8 ∧
       loadWords (atIssue i solo r) 0 (ringSlot (tgetD r.contexts 0 default).fq 0) 8 = some (record7 7).words) ∧
    ([0, 1, 2, 3] : List Word).all (fun act =>
      let i := Instr.resume 96 97
      let s := parkedLane (handlers (words 96 [7, act] (one i)))
      readyB i s && isParked s 0 7 && !withHost s 0 7 && !isParked s 0 8) = true ∧
    (let i := Instr.tlbinv 96 98
     let s := handlers (words 96 [0x10000, 0, 1] (one i))
     readyB i s = true ∧ translationsInUse s 0 1 1 = false ∧ (0x10000 : Nat) < 2 ^ 52 ∧
       readyB i (handlers (words 96 [0, 0x100000, 1] (one i))) = true ∧ (2 : Nat) ^ 52 ≤ 0x100000 * 2 ^ 32) := by decide

/-- Lanes that record 7 parks, inside a clause and at a header; and a helper, with its recruiter. -/
theorem witness_HandlerInstructions_actions :
    (let s := parkedLane (handlers (one (.resume 96 97)))
     trises (crewAt s 0).threads = true ∧ (crewAt s 0).ctx = 0 ∧ ((threadAt (crewAt s 0) 1).bind (·.clause)).isSome = true ∧
       (crewAt s 0).threads.all (fun e => e.2.run != .parked 7 || e.2.clause.isSome) = true) ∧
    (let s := modThread 0 1 (fun t => { t with clause := none }) (parkedLane (handlers (one (.resume 96 97))))
     (threadAt (crewAt s 0) 1).map (fun u => (u.run, u.clause.isNone, u.helper.isNone)) = some (.parked 7, true, true)) ∧
    (let s := modThread 0 (tkey (.helper 0 1)) (fun t => { t with run := .parked 7 }) (helped none (handlers (one (.resume 96 97))))
     ((threadAt (crewAt s 0) (tkey (.helper 0 1))).bind (·.helper)).map (·.recruiter) = some 0 ∧
       (threadAt (crewAt s 0) 0).map (·.helper.isNone) = some true ∧ isParked s 0 7 = true) := by decide

theorem witness_Privileges :
    allReady [.fqpop 96 104, .resume 96 97, .tlbinv 96 98] ∧ runsSystem (crewAt (one (.nop 0)) 0) = false ∧
    ([.exit, .spawn 96 104, .spawnn 96 104, .cancelchk 96, .lvlrd 96 0, .lvlcancel 3, .seedrd 96] : List Instr).all (fun i =>
      readyB i (handlers (one i)) && runsSystem (crewAt (handlers (one i)) 0)) = true := by decide

/-- A write of two bytes of register v3 of lane 0, which its operation still has to read. -/
def lateStore : LateAccess := ⟨[0], 1, some (.mem 0x40100 leaf0), 0x100, 2, .put false [(place 0 3, 5)]⟩

/-- A load under way. -/
def loading : Op := { (default : Op) with id := 9, slot := 1, load := true, members := [0], unwaited := [0], writes := [(place 0 1, 5)] }

/-- A load of two words that stood behind a port access. -/
def heldLoad : LateAccess := ⟨[0], 1, none, 0x100, 8, .get false [place 0 4, place 0 5]⟩

/-- It is made when nothing stands before it, with a page there and with none, and cannot be while a push of its instruction
waits. -/
theorem witness_CompletionEvents_held :
    let o : Op := { loading with writes := [], late := [heldLoad] }
    let s := crew (fun c => { c with ops := [o] }) (one (.nop 0))
    let at_ := fun (t : State) => reach { t with nonce := t.nonce + 8 } 0 0x100 8 .load (runsSystem (crewAt t 0))
    let here := at_ s
    standingOp (crewAt s 0) 9 = some o ∧ opPending s 0 o = false ∧ (threadAt (crewAt s 0) 0).isSome = true ∧
      (match here.1 with
        | .inr x => !x.strong && !loadPoisoned here.2 0 0 x 8
        | .inl _ => false) = true ∧
      standingOp (crewAt (withLeaf 0 s) 0) 9 = some o ∧ opPending (withLeaf 0 s) 0 o = false ∧
      (match (at_ (withLeaf 0 s)).1 with
        | .inr _ => false
        | .inl t => t.cause == 0x06) = true ∧
      [4, 5].all (fun n => writable (crewAt s 0) 0 n && landed (crewAt s 0) (place 0 n)) = true ∧
      opPending { s with clusters := [(0, { (default : Cluster) with fifoReqs := [⟨0, [0], 1, 8, 3, true, 4, [], [], 0, 0⟩] })] } 0
        { o with late := [{ heldLoad with who := [1] }] } = true := by decide

/-- A store of the context that stands behind a port access, which TLBINV meets. -/
theorem witness_HandlerInstructions_late :
    let i := Instr.tlbinv 96 98
    let o : Op := { loading with load := false, writes := [], late := [lateStore] }
    let s := crew (fun c => { c with ops := [o] }) (handlers (words 96 [0x10000, 0, 1] (one i)))
    readyB i s = true ∧ runsSystem (crewAt s 0) = true ∧ translationsInUse s 0 1 1 = false ∧ o.late ≠ [] ∧ o.writes = [] ∧
      lateStore.reach.isSome = true ∧ lateStore.act = .put false [(place 0 3, 5)] := by decide

/-- Requests at a port of cluster 0. -/
def porting (r : FifoReq) (q : List Byte) : State :=
  { one (.nop 0) with clusters := [(0, { (default : Cluster) with fifoReqs := [r], fifos := [(3, q)] })] }

/-- Each thing of an operation or of a port that becomes due. -/
theorem witness_CompletionEvents :
    (let s := crew (fun c => { c with ops := [loading] }) (one (.nop 0))
     (tget s.crews 0).isSome = true ∧ (crewAt s 0).ops.find? (fun x => x.id == 9 && !x.done) = some loading ∧ loading.clobbered = [] ∧
       loading.late = [] ∧ keyFits (crewAt s 0) 0 = true ∧ writable (crewAt s 0) 0 1 = true ∧ landed (crewAt s 0) (place 0 1) = true ∧
       opPending s 0 loading = false ∧ opPending { s with atoms := [{ (default : Atom) with op := 9 }] } 0 loading = true) ∧
    (let o : Op := { loading with load := false, writes := [], late := [lateStore] }
     let s := crew (fun c => { c with ops := [o] }) (one (.nop 0))
     (tget s.crews 0).isSome = true ∧ (crewAt s 0).ops.find? (fun x => x.id == 9 && !x.done) = some o ∧ o.clobbered = [] ∧
       leaf0.type ≠ 1 ∧ lateStore.act = .put false [(place 0 3, 5)] ∧
       disputed (storing 0 [0] 0x40100 2 leaf0 (beforeAccess 0 [0] (.mem 0x40100 leaf0) { s with nonce := s.nonce + 8 })) 0x40100 = false ∧ opPending s 0 o = false) ∧
    atomicKinds.all (fun e =>
      let a : Atom := { (default : Atom) with id := 5, op := 4, kind := e.2.1, reach := .mem 0x40100 leaf0 }
      let s := { one (.nop 0) with atoms := [a] }
      s.atoms.find? (fun x => x.id == 5) == some a && s.atoms.filter (fun x => x.op == a.op && decide (x.id ≤ a.id)) == [a] &&
        !memPoisoned s 0x40100 4 && plainB s leaf0 0x40100 4) = true ∧
    (let r : FifoReq := { (default : FifoReq) with bank := 3, push := true, size := 4, regs := [(place 0 3, 5)] }
     let s := porting r []
     (clusterAt s 0).fifoReqs.find? (fun x => x.bank == 3 && x.push == true) = some r ∧ fifoBehind s 0 0 0 = false ∧ 0 + 4 ≤ 131072) ∧
    (let r : FifoReq := { (default : FifoReq) with bank := 3, push := false, size := 4 }
     let s := porting r [1, 2, 3, 4]
     (clusterAt s 0).fifoReqs.find? (fun x => x.bank == 3 && x.push == false) = some r ∧ fifoBehind s 0 0 0 = false ∧
       4 ≤ (tgetD (clusterAt s 0).fifos 3 []).length ∧ tgetD (clusterAt s 0).fifoPoison 3 [] = [] ∧
       (let t := { s with clusters := s.clusters.map (fun e => (e.1, { e.2 with fifoPoison := [(3, [2])] })) }
        2 ∈ tgetD (clusterAt t 0).fifoPoison 3 [] ∧ fifoBehind t 0 0 0 = false ∧ (threadAt (crewAt t 0) 0).isSome = true)) ∧
    (let r : FifoReq := { (default : FifoReq) with who := [0], op := 9, bank := 3, push := false, size := 8, dest := [place 0 1, place 0 2] }
     let s := crew (fun c => { c with ops := [loading] }) (porting r [1, 2, 3, 4, 5, 6, 7, 8])
     (clusterAt s 0).fifoReqs.find? (fun x => x.bank == 3 && x.push == false) = some r ∧ fifoBehind s 0 0 0 = false ∧
       (crewAt s 0).ops.find? (fun x => x.id == 9 && !x.done) = some loading ∧ loading.clobbered = [] ∧
       r.dest = (List.range (r.size / 4)).map (fun j => place 0 (1 + j)) ∧ keyFits (crewAt s 0) 0 = true ∧
       writable (crewAt s 0) 0 1 = true ∧ writable (crewAt s 0) 0 2 = true ∧ landed (crewAt s 0) (place 0 1) = true ∧
       landed (crewAt s 0) (place 0 2) = true) := by decide

/-- A store and a mark that become due, and errors at both ends of each range of the numbers of UNCORRECTABLE_ERROR. -/
theorem witness_CompletionEvents_memory :
    (let p : Pending := ⟨false, [0], 1, none, 0x40100, [1]⟩
     let s := pending [p] (one (.nop 0))
     (pendOf s 0 (tkey (.lane 0)))[0]? = some p ∧ (crewAt s 0).pend.filter (fun q => q.meets p) = [p] ∧
       disputed s 0x40100 = false) ∧
    (let s := one (.nop 0)
     walk s (tgetD s.contexts 0 default).root 0x100 = some leaf0 ∧ leaf0.reaches s 0x100 = true ∧ tget s.tlb (tlbKey 0 0x100) = none ∧
       leaf0.cow = false ∧ bitAt (mem64 s leaf0.addr) 0 = true) ∧
    (0 < 2 ^ 46 ∧ 2 ^ 46 - 1 < 2 ^ 46 ∧ 2 ^ 46 < 2 ^ 47 ∧ 2 ^ 47 - 1 < 2 ^ 47 ∧ 2 ^ 47 < 2 ^ 48 ∧ 2 ^ 48 - 1 < 2 ^ 48 ∧
      2 ^ 48 < 2 ^ 49 ∧ 2 ^ 49 - 1 < 2 ^ 49 ∧ 2 ^ 49 < 2 ^ 50 ∧ 2 ^ 50 - 1 < 2 ^ 50 ∧ (2 ^ 50 + 112 - 2 ^ 50) % 2 ^ 10 / 16 * 4 + 2 < 31) ∧
    (let s := porting default [1, 2, 3, 4]
     let t := { s with clusters := s.clusters.map (fun e => (e.1, { e.2 with bankMode := 0x80 })) }
     bankModeOf (clusterAt s 0) ((2 ^ 46 + 2 ^ 17 * 3 - 2 ^ 46) % 2 ^ 22 / 2 ^ 17) ≠ 2 ∧
       bankModeOf (clusterAt t 0) ((2 ^ 46 + 2 ^ 17 * 3 - 2 ^ 46) % 2 ^ 22 / 2 ^ 17) = 2 ∧ 0 < (tgetD (clusterAt t 0).fifos 3 []).length) ∧
    (tget (one (.nop 0)).crews ((2 ^ 47 - 2 ^ 47) / 2 ^ 20)).isSome = true ∧
    (tget (one (.nop 0)).crews ((2 ^ 50 - 2 ^ 50) / 2 ^ 10)).isSome = true ∧
    (tget (one (.nop 0)).contexts (2 ^ 48 - 2 ^ 48)).isSome = true := by decide

/-- Context 0 with a record produced, its ring at 0x2000 of 64 entries, empty or full. -/
def producing (r : FaultRec) (n : Nat) : State :=
  { one (.nop 0) with
    contexts := [(0, { programContext with
      fq := { programContext.fq with base := 0x2000, count := n, ring := List.replicate n (record7 1), produced := [r] } })] }

/-- Records for the host, for a ring with room, and for a full ring, synchronous and asynchronous; a switch that is ready. -/
theorem witness_PostsAndSwitches :
    ([record7 2, { record7 2 with toHost := true }, { record7 2 with async := true }]).all (fun r => [0, 64].all (fun n =>
      let s := producing r n
      let x := tgetD s.contexts 0 default
      x.fq.produced == [r] && (decide (x.fq.size ≤ x.fq.ring.length) == decide (n = 64)) && x.fq.held == [] &&
        pagesMeet s 0 (ringSlot x.fq x.fq.count) 32 (firmPage s) && r.words.length == 8)) = true ∧
    (let s := runs (.waiting .bank) { banked 1 (one (.nop 0)) with
       clusters := [(0, { (default : Cluster) with bankMode := 1, switches := [⟨0, 0, [0], 4⟩] })] }
     (clusterAt s 0).switches = [⟨0, 0, [0], 4⟩] ∧ switchReady s 0 0 4 = true ∧ (clusterAt s 0).fifoReqs = [] ∧
       quietB s 0 = true ∧ s.crews.all (fun e => syncWaiters e.2 0 == []) = true ∧ (threadAt (crewAt s 0) 0).isSome = true) := by decide

/-- The device with its crew in further slots, changed. -/
def crews (cs : List (Nat × (Crew → Crew))) (s : State) : State :=
  { s with crews := cs.map (fun e => (e.1, e.2 (crewAt s 0))) }

/-- A crew that is not active, ready since a clock. -/
def readySince (n : Option Nat) (c : Crew) : Crew := { c with active := false, readyAt := n }

theorem witness_CrewEvents_sets :
    (let s := runs (.waiting (.sleep 9999 true)) (one (.nop 0))
     (tget s.crews 0).isSome = true ∧ (crewAt s 0).active = true ∧ idleCrew s 0 (crewAt s 0) = true) ∧
    (let s := crews [(0, readySince none), (1, readySince (some 0))] (one (.nop 0))
     longestReady (noteReady 0 0 s) 0 0 = some (0, 0) ∧ (activeIn (noteReady 0 0 s) 0 0).length < 8) ∧
    (let s := { crews ((List.range 8).map (fun n => (n, id)) ++ [(8, readySince (some 0))]) (one (.nop 0)) with clock := 1024 }
     longestReady (noteReady 0 0 s) 0 0 = some (8, 0) ∧ 8 ≤ (activeIn (noteReady 0 0 s) 0 0).length ∧ 0 + 1024 ≤ s.clock) := by decide

theorem witness_CrewEvents_helpers :
    (let s := { recruiting (recruitOf 2 1 1) (helped (some 0) (one (.nop 0))) with clock := 100000 }
     ((threadAt (crewAt s 0) (tkey (.helper 0 1))).bind (·.helper)).isSome = true ∧ suspendable s 0 (tkey (.helper 0 1)) = true) ∧
    (let s := modThread 0 (tkey (.helper 0 1)) (fun t => { t with helper := some ⟨0, 1, [], none, none, true, 0⟩ })
       (helped none (one (.nop 0)))
     (suspendedOf (crewAt s 0) 0).contains (tkey (.helper 0 1)) = true ∧
       (resumeLane s 0 (tkey (.helper 0 1)) 0).isSome = true) := by decide

/-- A helper that holds a lane of the half, for a crew that enters it; and none. -/
theorem witness_CrewEvents_waits :
    holdersOf (one (.nop 0)) 1 (fun x => x / 32 == 0) = [] ∧
    (let s := helped (some 0) (one (.nop 0))
     let e := holdersOf s 1 (fun x => x / 32 == 0)
     e ≠ [] ∧ e.all (fun e => ((threadAt (crewAt s e.1) e.2).bind (·.helper)).isSome) = true) := by decide

theorem witness_CrewEvents_ends :
    (let s := runs .exited (one (.nop 0))
     crewLeaves s 0 (crewAt s 0) = true ∧ (crewAt s 0).role = .seam 5 0 0 ∧ (tget s.seams 5).isSome = true) ∧
    (let s := { one (.nop 0) with seams := [(5, { programSeam 4 with ended := 1 })] }
     ∃ m, tget s.seams 5 = some m ∧ m.ended = m.crewCount) := by
  refine ⟨by decide, ⟨{ programSeam 4 with ended := 1 }, by decide⟩⟩

theorem witness_CrewEvents_places :
    (let s := seamSix 0x00080001 (one (.nop 0))
     (tget s.seams 5).isSome = true ∧ ctxReady s 0 = true ∧ nextHasRoom s 5 = true ∧ quietB s 0 = true ∧
       pickPartition s 0 (nearBytes 0x06000000) = some 0 ∧ Machine.freeSlot s 0 0 = some 1) ∧
    (let s := { one (.nop 0) with contexts := [(0, { programContext with hCount := 2, toPlace := [1] })] }
     (tget s.contexts 0).map (fun x => (x.status, x.saved)) = some (.resident, none) ∧ handlerCluster s 0 = some 0 ∧ pickPartition s 0 (nearBytes 0x06000000) = some 0 ∧ Machine.freeSlot s 0 0 = some 1) := by decide

/-- A task of the small device's launch, of one crew. -/
def task1 : Task := ⟨[0x1000, 0, 0, 0, 0, 0, 0x00080000, 7], 4, none⟩

theorem witness_CrewEvents_hoist :
    (let s := refreshAges (settleQueues (queued [task1] (one (.nop 0))))
     let l := tgetD s.launches 4 default
     chosenQueue s 0 = some 5 ∧ (queueAt s 5).chip = [task1] ∧ taskValid task1.words l.det = true ∧ mayDispatch s 0 l = true ∧
       (pickClusters (dieEmptyRooms s 0 l) 1 1 false).isSome = true ∧ (pickClusters (dieRooms s 0 l) 1 1 false).isSome = true ∧
       (popTask 5 s).1 = true) := by decide

/-- What is kept of a context with one crew, of a lane that runs and one that sleeps, and of one cluster. -/
def savedOne : SavedCtx :=
  let c := crewAt (one (.nop 0)) 0
  ⟨[(0, { c with threads := tset c.threads 1 { (threadAt c 0).getD default with group := 4, run := .waiting (.sleep 50 false) } })],
    [(0, { (default : Cluster) with owner := some 0, bankMode := 1, banks := [(5, 9)] })], [], [], []⟩

/-- The device without crews, and with a saved context 0. -/
def savedCtx0 (st : CtxStatus) (v : SavedCtx) : State :=
  { one (.nop 0) with crews := [], contexts := [(0, { programContext with status := st, saved := some v })] }

/-- A saved context whose crew and banks come back, as a crew for a handler is placed and by CTXRUN. -/
theorem witness_CrewEvents_saved :
    (let s := savedCtx0 .resident savedOne
     s.memPoison.any (inArea savedOne) = false ∧ s.mem.any (fun e => inArea savedOne e.1) = false ∧ savedOne.spills = [] ∧
       streamsOf s 0 = [] ∧ (restorePlaces s 0 savedOne).map (·.1) = some ⟨[(0, 0)], [(0, 0)]⟩ ∧
       savedOne.crews.all (fun e => e.2.ctx == 0) = true ∧ (tget savedOne.clusters 0).isSome = true) ∧
    (let s := savedCtx0 .saved savedOne
     (tget s.contexts 0).map (fun x => (x.status, x.corrupt, x.saved)) = some (.saved, false, some savedOne) ∧
       s.memPoison.any (inArea savedOne) = false ∧ s.mem.any (fun e => inArea savedOne e.1) = false ∧
       (let x := { programContext with saved := some savedOne }
        (restorePlaces { s with contexts := [(0, { x with toPlace := endedHandlers x })] } 0 savedOne).isSome = true)) := by decide

theorem witness_DecodeEncode :
    Instr.isWord (.ldq 92 94 0x80 6) = true ∧ Instr.wellFormed (.ldq 92 94 0x80 6) = true ∧ Instr.isWord (.lit 1 0 5) = true ∧
      Instr.wellFormed (.lit 1 0 5) = true ∧ Instr.isWord (.mma 96 127) = true ∧ Instr.wellFormed (.mma 96 127) = true := by decide

/-- A word that decodes to nothing, in place of the instruction. -/
def badWord (s : State) : State :=
  modThread 0 0 (fun t => { t with clause := some ⟨0x1000, [0xFFFFFFFF], 0, true⟩ }) s

/-- The thread at the start of its clause, and one whose header is missing. -/
def atHeader (pc : Nat) (s : State) : State := modThread 0 0 (fun t => { t with clause := none, pc := pc }) s

/-- The group at the header. -/
def solo0 : Group := ⟨0, [0], 0x1000, []⟩

/-- A group whose instruction uses far registers, and has their delay to wait out. -/
theorem witness_StepRunsDecoded_far :
    (let s := crew (fun c => { c with viewV := 0x060FD000 }) (one (.movi 1 5 0))
     seatReady s s.focus.crew (tkey s.focus.who) = true ∧ focusGroup s = some solo ∧ lentLanes s 0 [0] = [] ∧
       delayLeft s solo ≠ 0) := by decide

/-- A group inside a clause, at a word that decodes and at one that does not; at the start of a clause that is well formed,
and of one that is not. -/
theorem witness_StepRunsDecoded :
    (let s := one (.movi 1 5 0)
     s.turns = [] ∧ s.boot.begun = true ∧ s.focus.crew < deviceSeat ∧ seatReady s s.focus.crew (tkey s.focus.who) = true ∧
       focusGroup s = some solo ∧ lentLanes s 0 [0] = [] ∧ (threadAt (crewAt s 0) 0).isSome = true ∧ delayLeft s solo = 0 ∧
       ((threadAt (crewAt s 0) 0).bind liveClause).map (fun cl => (decodeWord (cl.words.getD ((0x1004 - cl.header) / 4 - 1) 0) 0, cl.waited)) =
         some (some (.movi 1 5 0), true)) ∧
    (let s := badWord (one (.nop 0))
     seatReady s s.focus.crew (tkey s.focus.who) = true ∧ focusGroup s = some solo ∧ decodeWord 0xFFFFFFFF 0 = none) ∧
    (let s := atHeader 0x1000 (one (.nop 0))
     focusGroup s = some solo0 ∧ wantsClause s solo0 = true ∧
       (let s' := (clauseWords s solo0).foldl (fetchCaches 0) { s with nonce := s.nonce + 8 }
        (match fetchClause s' solo0 with
          | .inr _ => true
          | .inl _ => false) = true)) ∧
    (let t := atHeader 0x1000 (one (.nop 0))
     let s := { t with mem := setBytes 0x41000 [0, 0, 0, 0] t.mem }
     focusGroup s = some solo0 ∧ wantsClause s solo0 = true ∧
       (let s' := (clauseWords s solo0).foldl (fetchCaches 0) { s with nonce := s.nonce + 8 }
        (match fetchClause s' solo0 with
          | .inl _ => true
          | .inr _ => false) = true)) := by decide

theorem witness_MemoryStaysCanonical : Memory.wf State.reset.mem = true ∧ Memory.wf (one (.nop 0)).mem = true := by decide

/-- A thread of a helper among the crew, for the clause about helpers. -/
theorem witness_FaultTaken :
    (let i := Instr.ldw 1 3 0 0
     i.isWord = true ∧ focusGroup (one i) = some solo ∧ hasIssued (crewAt (one i) 0) 0 = false ∧ solo.lead < 32 ∧ i.fieldsOk = true ∧ i.selectorsOk = true ∧
       (vectorsNamed i).all (fun n => decide (n < vcount (crewAt (one i) 0))) = true ∧ i.aligned = false) ∧
    (let i := Instr.ldw 1 2 0 7; i.fieldsOk = false ∧ focusGroup (one i) = some solo ∧ hasIssued (crewAt (one i) 0) 0 = false) ∧
    (let i := Instr.iadd 1 2 3 false 0
     let s := crew (fun c => { c with viewV := 0x00000000 }) (one i)
     focusGroup s = some solo ∧ hasIssued (crewAt s 0) 0 = false ∧ (∃ n ∈ vectorsNamed i, vcount (crewAt s 0) ≤ n)) ∧
    (let s := lanes [0, 31] (one (.nop 0))
     ([0, 31] : List Nat).all (fun k => k < 32 ∧ keyFits (crewAt s 0) k = true ∧ (threadAt (crewAt s 0) k).isSome = true) = true ∧
       (tget s.contexts (crewAt s 0).ctx).isSome = true) ∧
    (let s := helped none (one (.nop 0))
     (tget s.contexts (crewAt s 0).ctx).isSome = true ∧
       ((threadAt (crewAt s 0) (tkey (.helper 0 1))).bind (·.helper)).isSome = true ∧ (0x12 : Nat) ≠ 0x13) := by
  refine ⟨by decide, by decide, ⟨by decide, by decide, ⟨1, by decide⟩⟩, by decide, by decide⟩

theorem witness_HardwiredRegisters :
    keyFits (crewAt (one (.nop 0)) 0) 0 = true ∧ keyFits (crewAt (helped none (one (.nop 0))) 0) (tkey (.helper 0 1)) = true ∧
      32 ≤ tkey (.helper 0 1) ∧ ¬(32 ≤ 31 ∧ 31 < 64) ∧ ¬(32 ≤ 64 ∧ 64 < 64) := by decide

/-- A copy of the small record into scratchpad offset 0 of cluster 0, with its one unit to come. -/
def copying (k : CopyKind) (cls : Nat) : Copy :=
  { (default : Copy) with
    id := 7, cls := cls, kind := k, shape := rank1, boxes := [[0, 0, 0, 0, 0]], targets := [0], pages := [(0, leaf0)],
    left := [(0, 1)], todo := [0x10] }

/-- The device with one copy, and with a peer that allows three retransmissions. -/
def copied (cp : Copy) : State :=
  let s := crew (fun c => { c with copies := [cp] }) (shaped (one (.nop 0)))
  { s with contexts := s.contexts.map (fun e => (e.1, { e.2 with peers := [(0, ⟨[0, 0, 0, 0, 0, 0, 0x01600000, 1], 0, 0⟩)] })) }

/-- Landed data of 16 bytes. -/
def landed16 : Table (List (Byte × Bool)) := [(0, List.replicate 16 (1, false))]

/-- The first unit of copies of each direction, the sector at address 0x100 of those that write memory, and messages that are to
be sent again, that fail after their retransmissions, a NAK and with their port down, and that are answered. -/
theorem witness_EngineEvents_copies :
    ([(CopyKind.cpin, 0), (.cpout, 1), (.cpgath, 0), (.cpnet false, 3)] : List (CopyKind × Nat)).all (fun e =>
      let cp := copying e.1 e.2
      let s := copied cp
      copyAt s 0 7 == some cp && copyGoes s 0 cp && decide (0 < totalUnits cp) && inRanges 0 cp.left && cp.sync == [] &&
        s.crews.all (fun x => x.2.threads.all (fun t => t.2.run == .running))) = true ∧
    ([(CopyKind.cpout, 1, ([] : Table (List (Byte × Bool)))), (.cpnet true, 3, landed16)]).all (fun e =>
      let cp := { copying e.1 e.2.1 with left := [], todo := [0x10], net := e.2.2, sent := true }
      let s := copied cp
      copyAt s 0 7 == some cp && copyGoes s 0 cp && cp.todo.contains 0x10 && (e.1 == .cpout || !cp.net.isEmpty) &&
        !inRegion (0x10 * 16) && !disputed s (copyPa cp 0x100) && (sectorElems cp 0x10).length == 4) = true ∧
    ([(false, landed16), (true, [])] : List (Bool × Table (List (Byte × Bool)))).all (fun e =>
      let cp := { copying (.cpnet e.1) 3 with sent := true, net := e.2, peer := if e.1 then 0x1000000000000000 else 0 }
      let s := { copied cp with wall := 100 }
      copyAt s 0 7 == some cp && resendDue s 0 cp && portUp s (peerAt s 0 (peerNo cp.peer)) && !cp.done &&
        failureDue { copied { cp with tries := 3 } with wall := 100 } 0 { cp with tries := 3 } && failureDue s 0 { cp with nak := true } &&
        failureDue { s with units := { s.units with lanes0 := 0 } } 0 cp &&
        decide ((List.replicate 16 (0 : Byte)).length = boxBytes cp)) = true := by decide

/-- The device with one matrix job. -/
def matrix (jb : Job) : State := crew (fun c => { c with jobs := [jb] }) (shaped (one (.nop 0)))

/-- The post block of one FP32 element into scratchpad. -/
def toScratch : List Word := 0x82 :: List.replicate 7 0

/-- A job before its first step; jobs whose steps are made: with no destination, an MZERO, with a stage that writes to scratchpad,
and with what is still to be written, as the last of it and not. -/
theorem witness_EngineEvents_jobs :
    ([JobKind.mma, .mmas, .mrast, .mfilt]).all (fun k =>
      let jb : Job := { (default : Job) with kind := k, j := jobBlock k, p := List.replicate 8 0 }
      let s := matrix jb
      nextServed s 0 == some 0 && stepWaits s (crewAt s 0) && headJob (crewAt s 0) == some jb && !jb.strict) = true ∧
    nextServed (one (.nop 0)) 0 = none ∧
    (let jb : Job := { (default : Job) with kind := .mma, post := true }
     ([jb, { jb with kind := .mzero false 2, post := false }, { jb with p := toScratch }, { jb with writes := [(0, 1, false)] },
        { jb with writes := [(0, 1, false)], staged := true }] : List Job).all (fun x =>
       let s := matrix x
       ctxSteps s (crewAt s 0).ctx && postWaits (crewAt s 0) && headJob (crewAt s 0) == some x) = true ∧
     (runStage 0 jb (matrix jb)).cells = [] ∧ (runStage 0 { jb with p := toScratch } (matrix { jb with p := toScratch })).cells.length = 4) := by
  decide

/-- Context 0 with an exported window at address 0, a peer, and a receive ring of one slot in each of two pages. -/
def windowed : State :=
  let s := one (.nop 0)
  { s with
    contexts := s.contexts.map (fun e => (e.1, { e.2 with
      peers := [(0, ⟨[0, 0, 0, 0, 9, 0, 0x01600000, 1], 0, 0⟩)], window := [0, 0, 0x8000, 0, 77, 3, 0, 0], rxBase := 0x4000, rxSize := 2 }))
    mem := setBytes 0x44FFC [0, 0, 0, 0] (setBytes 0x40100 [1, 2] s.mem) }

/-- A request from the peer. -/
def fromPeer : NetHdr := ⟨0, 0, 9⟩

theorem witness_EngineEvents_network :
    (∃ x, served windowed fromPeer x) ∧
    windowAllows windowed 0 0x7FFE 2 77 1 = true ∧ windowAllows windowed 0 0x7FFF 2 77 1 = false ∧ windowAllows windowed 0 0x100 2 77 0 = true ∧
    rangeFree windowed 0 (windowVa windowed 0 0x7FFE) 2 true ∧ rangeFree windowed 0 (windowVa windowed 0 0x100) 2 false ∧
    rangeFree windowed 0 0x4000 4096 true ∧ slotInUse windowed 0 0x4000 = false ∧
    (let s := { windowed with mem := setBytes 0x44FFC [1, 0, 0, 0] windowed.mem }; slotInUse s 0 0x4000 = true ∧ rangeFree s 0 0x4000 4096 true) := by
  unfold rangeFree
  refine ⟨⟨tgetD windowed.contexts 0 default, ?_⟩, by decide, by decide, by decide, by decide, by decide, by decide, by decide, by decide⟩
  unfold served; decide

/-- A matrix job before its first step, and after one of a whole row of its accumulator. -/
theorem witness_EngineEvents_acc :
    ∀ n : Nat, ((default : Job).acc = [] ∧ (List.replicate 128 (List.replicate 128 ((n, false) : Nat × Bool))).length = 128 ∧
      ∀ row ∈ List.replicate 128 (List.replicate 128 ((n, false) : Nat × Bool)), row.length = 128) := by
  intro n
  exact ⟨rfl, List.length_replicate, fun row h => by rw [List.eq_of_mem_replicate h, List.length_replicate]⟩

/-- Context 0 with its fields changed. -/
def ctx0 (f : Context → Context) : State := { one (.nop 0) with contexts := [(0, f programContext)] }

theorem witness_ContextEvents_watchdog :
    (let x := { programContext with wdLimit := 5, wdCount := 5 }
     tget (ctx0 (fun _ => x)).contexts 0 = some x ∧ x.status = .resident ∧ x.halted = false ∧ x.wdLimit ≠ 0 ∧ x.wdLimit ≤ x.wdCount ∧
       x.fq.produced = []) ∧ programContext.wdLimit = 0 := by decide

/-- Context 0 under pre-emption, with its save area at 0, over tables that map all that a save area can take: eight pages of
512 MiB. -/
def saving : State :=
  { ctx0 (fun x => { x with status := .preempting }) with
    mem := setBytes 0x20000 ((List.range 8).flatMap (fun _ => bytesOf 8 (0x20005C07))) (one (.nop 0)).mem }

/-- A page that tables of 512 MiB leaves map is found, normal, writable and pinned. -/
theorem large_page (s : State) (a k : Nat) (hk : bits a 41 29 = k) (h1 : bits a 51 42 = 0) (ha : a < 2 ^ 52)
    (hs : s.units = Units.full) (ht : s.tlb = []) (hr : (tgetD s.contexts 0 default).root = 0x10000)
    (he : tableEntry s 0x10000 = some 0x20001) (hf : tableEntry s (0x20000 + k * 8) = some 0x20005C07) :
    ∃ l, leafAt s 0 a = some l ∧ firmPage s a l = true := by
  have e1 : bits 0x20005C07 45 29 = 1 := by decide
  have e2 : bits 0x20001 45 16 = 2 := by decide
  have e3 : bitAt 0x20005C07 14 = true := by decide
  have e4 : ¬ (0 = 1023) := by decide
  have hf' : tableEntry s (2 * 65536 + k * 8) = some 0x20005C07 := hf
  have htar : Leaf.target ⟨0x20005C07, 2 * 65536 + k * 8, true⟩ a = 1 * 2 ^ 29 + a % 2 ^ 29 := by
    simp only [Leaf.target, if_true, e1]
  have hb : backed s (1 * 2 ^ 29 + a % 2 ^ 29) = true := by
    simp only [backed, hs, Units.full, Bool.or_eq_true, decide_eq_true_eq]; omega
  have hw : walk s 0x10000 a = some ⟨0x20005C07, 2 * 65536 + k * 8, true⟩ := by
    simp only [walk, h1, hk, e2, e3, e4, if_false, Nat.zero_mul, Nat.add_zero, he, hf', if_true]
  refine ⟨⟨0x20005C07, 2 * 65536 + k * 8, true⟩, ?_, ?_⟩
  · simp only [leafAt, ha, if_true, Machine.translate, hr, hw, ht, tget, Leaf.reaches, htar, hb, Bool.true_or]
  · have e5 : bits 0x20005C07 5 4 = 0 := by decide
    have e6 : bitAt 0x20005C07 1 = true := by decide
    have e7 : bitAt 0x20005C07 9 = false := by decide
    have e8 : bitAt 0x20005C07 12 = true := by decide
    simp only [firmPage, normalLeaf, htar, hb, Leaf.type, firmLeaf, Leaf.writable, Leaf.cow, Leaf.pinned, e5, e6, e7, e8]
    rfl

set_option maxRecDepth 20000 in
/-- The tables of the saving context. -/
theorem saving_tables : tableEntry (drainCtx 0 saving) 0x10000 = some 0x20001 ∧
    ∀ k < 8, tableEntry (drainCtx 0 saving) (0x20000 + k * 8) = some 0x20005C07 := by decide

theorem witness_ContextEvents_save :
    tget saving.contexts 0 = some { programContext with status := .preempting } ∧ copiesOut (drainCtx 0 saving) 0 = false ∧
      firstBad (drainCtx 0 saving) 0 0 Config.saveSize.toNat (firmPage (drainCtx 0 saving)) = none ∧
      streamsOf (drainCtx 0 saving) 0 = [] := by
  refine ⟨by decide, by decide, ?_, by decide⟩
  rw [firstBad, List.find?_eq_none]
  intro a ha
  have h : a < 2 ^ 32 := by
    have hn := Config.saveSize.isLt
    simp only [pageStarts] at ha
    split at ha
    · cases ha
    · simp only [List.mem_cons, List.mem_map, List.mem_range] at ha
      omega
  have h1 : bits a 51 42 = 0 := by simp only [bits]; omega
  have h2 : bits a 41 29 < 8 := by simp only [bits]; omega
  obtain ⟨l, h1, h2⟩ := large_page (drainCtx 0 saving) a _ rfl h1 (by omega) (by decide) (by decide) (by decide) saving_tables.1
    (saving_tables.2 _ h2)
  simp [h1, h2]

/-- The device with what the direct parser holds. -/
def holding (h : Held) (s : State) : State := { s with fabric := { s.fabric with direct := some h } }

/-- A context that ends while the direct parser holds its CTXKILL, or a WAIT of it; a save of a context whose crews run no
handler. -/
theorem witness_ContextEvents_held :
    ([Held.kill 0, .level 0 1 3, .preempt 0, .phase 0 9 1] : List Held).all (fun h =>
      let s := holding h (ctx0 (fun x => { x with status := .killing }))
      (tget s.contexts 0).map (·.status) == some .killing && s.fabric.direct == some h && (h == .kill 0 || h.context == some 0)) = true ∧
    (drainCtx 0 saving).crews.all (fun e => e.2.ctx == 0 && !runsSystem e.2) = true ∧ (drainCtx 0 saving).crews ≠ [] := by decide

/-- Where the part's save area has a byte: a save area on no page. -/
theorem witness_ContextEvents_unsaved (h : Config.saveSize.toNat ≠ 0) :
    let s := ctx0 (fun x => { x with status := .preempting, save := 2 ^ 52 })
    tget s.contexts 0 = some { programContext with status := .preempting, save := 2 ^ 52 } ∧ copiesOut (drainCtx 0 s) 0 = false ∧
      firstBad (drainCtx 0 s) 0 (2 ^ 52) Config.saveSize.toNat (firmPage (drainCtx 0 s)) = some (2 ^ 52) := by
  refine ⟨by decide, by decide, ?_⟩
  simp only [firstBad, pageStarts, h, if_false, List.find?_cons]
  rfl

/-- A migration of a frame that nothing uses, with one leaf. -/
def moving : State := { one (.nop 0) with migrations := [(6, ⟨0x40000, 0x80000, true, [0x30000]⟩)] }

theorem witness_ContextEvents_ends :
    (let s := ctx0 (fun x => { x with status := .killing }); ∃ x, tget s.contexts 0 = some x ∧ x.status = .killing) ∧
    (∃ m, tget moving.migrations 6 = some m ∧ migrationWaits moving m = false ∧ m.src + 65536 ≤ m.dst ∧ m.leaves = [0x30000] ∧
      0x30000 + 8 ≤ m.src ∧ m.dst % 65536 = 0 ∧ m.dst < 2 ^ 46) ∧
    State.reset.owner = .none ∧ State.reset.boot.session = none ∧ State.reset.boot.begun = false ∧ (one (.nop 0)).boot.begun = true := by
  refine ⟨⟨{ programContext with status := .killing }, by decide⟩, ⟨⟨0x40000, 0x80000, true, [0x30000]⟩, by decide⟩, by decide⟩

theorem witness_ContextEvents_times :
    (let s := { State.reset with owner := .owned 5 6 10, wall := 10 }; s.owner = .owned 5 6 10 ∧ 10 ≤ s.wall) ∧
    (let s := { State.reset with owner := .offered 5 6 10 7, wall := 9 }; s.owner = .offered 5 6 10 7 ∧ s.wall < 10) ∧
    (let x : Session := ⟨5, 6, 1, [], 0⟩
     let s := { State.reset with wall := 10000000, boot := { State.reset.boot with session := some x } }
     s.boot.session = some x ∧ x.last + 10000000 ≤ s.wall) ∧
    (let s := { State.reset with flash := (List.range 4).map (fun k => (k, 0)) }
     s.boot.begun = false ∧ flashVerifies s 1 = false) ∧
    (let s := { State.reset with torn := [1] }; s.boot.begun = false ∧ 1 ∈ s.torn) := by
  refine ⟨by decide, by decide, by decide, ⟨rfl, ?_⟩, by decide⟩
  have h : magicFits (imageHeader (flashImage { State.reset with flash := (List.range 4).map (fun k => (k, 0)) } 1)) = false := by rfl
  simp only [flashVerifies, imageVerifies, h, Bool.false_and, Bool.and_false]

/-- The fabric with queue 3 enabled, of 64 words, in context 0, with a ring at 0x2000, and as given. -/
def queue3 (f : Qcb → Qcb) (slots : Table HwSlot) : State :=
  let s := one (.nop 0)
  { s with fabric := { s.fabric with slots := slots, qcbs := [(3, f { (default : Qcb) with ring := 0x2000, en := true, ctx := 0 })] } }

/-- Words in the ring of queue 3. -/
def ring3 (ws : List Word) (s : State) : State := { s with mem := setBytes 0x42000 (ws.flatMap (fun w => bytesOf 4 w.toNat)) s.mem }

theorem witness_FabricEvents_writes :
    State.reset.fabric.loaded = false ∧ fabricEvents (.pwrcap 5) ∧
    (let s := queue3 id []
     s.fabric.loaded = true ∧ (qcbAt s 3).en = true ∧ (qcbAt s 3).err = false ∧ (qcbAt s 3).kidx = 0 ∧ slotOf s 3 = none ∧
       64 ≤ (qcbAt s 3).size) ∧
    slotOf (queue3 id [(0, ⟨3, 0, none⟩)]) 3 ≠ none ∧
    (let s := queue3 (fun q => { q with en := false }) []; (qcbAt s 3).en = false ∧ bits (0xC0500000 : Word).toNat 23 20 = 5) := by
  refine ⟨by decide, ⟨0, 5, by simp⟩, by decide, by decide, by decide⟩

/-- A level of the small device, as given. -/
def withLevel (id : Nat) (f : Level → Level) (s : State) : State :=
  { s with levels := s.levels.map (fun e => if e.1 = id then (id, f e.2) else e) }

/-- Two queues that wait, the later of the higher priority; one that has stood idle; slots all taken with a queue overdue. -/
theorem witness_FabricEvents_maps :
    (let s := queue3 (fun q => { q with pending := some 0 }) []
     s.fabric.loaded = true ∧ trises s.fabric.qcbs = true ∧ trises s.fabric.slots = true ∧ lowestSlot s 0 ∧ waitingQueues s = [(3, 0)]) ∧
    waitingQueues (queue3 id []) = [] ∧
    (let s := { queue3 id [(0, ⟨3, 0, some 0⟩)] with wall := 64 }
     (0, ⟨3, 0, some 0⟩) ∈ s.fabric.slots ∧ (qcbAt s 3).state = 0 ∧ 0 + s.fabric.mapIdle ≤ s.wall) ∧
    (let t := { queue3 (fun q => { q with pending := some 0 }) [(0, ⟨9, 0, none⟩)] with wall := 4096 }
     let s := { t with fabric := { t.fabric with hwqSlots := 1 } }
     tget s.fabric.slots 0 ≠ none ∧ waitingQueues s = [(3, 0)] ∧ 0 + 4 * s.fabric.mapAge ≤ s.wall ∧ (0, ⟨9, 0, none⟩) ∈ s.fabric.slots ∧
       0 < s.fabric.hwqSlots ∧ (qcbAt s 9).state ≤ 4) := by
  unfold lowestSlot
  refine ⟨⟨by decide, by decide, by decide, ⟨by decide, by decide, by intro j hj; omega⟩, by decide⟩, by decide, by decide, by decide⟩

/-- A guard that has not come; a bad header; a packet not all there; one of an unknown type; one that is read; no packet. -/
theorem witness_FabricEvents_polls :
    ([([0x00020000, 1], 2), ([0x00010000, 0], 2), ([0x00040000, 0], 2), ([0x00020FFF, 0], 2), ([0x00021FFF, 0], 2), ([0x00020000, 0], 2),
        ([0x00030000, 0, 0], 3)] : List (List Word × Word)).all (fun e =>
      let s := ring3 e.1 (queue3 (fun q => { q with kidx := e.2 }) [(0, ⟨3, 0, none⟩)])
      let q := qcbAt s 3
      s.fabric.loaded && (slotOf s 3).isSome && q.en && !q.err && q.held == none && q.kidx != q.ridx &&
        ringWord s q (q.ridx + 1).toNat == some (e.1.getD 1 0) && ringWord s q q.ridx.toNat == some (e.1.getD 0 0)) = true ∧
    (let s := ring3 [0x00020000, 0] (queue3 (fun q => { q with kidx := 2 }) [(0, ⟨3, 0, none⟩)])
     ringWords s (qcbAt s 3) 0 2 = some [0x00020000, 0] ∧ (qcbAt s 3).header = none ∧ knownType 0 = true ∧ parseFields 2 [] = some []) ∧
    (let s := ring3 [0, 0] (queue3 (fun q => { q with kidx := 2, header := some 0x00020000 }) [(0, ⟨3, 0, none⟩)])
     (qcbAt s 3).header = some 0x00020000 ∧ (qcbAt s 3).held = none ∧ (qcbAt s 3).kidx ≠ (qcbAt s 3).ridx ∧
       ringWords s (qcbAt s 3) 1 1 = some [0] ∧ headerFits 0x00020000 64 = true) ∧
    knownType 0xFFF = false ∧ parseFields 3 [0] = none ∧
    (let s := queue3 id [(0, ⟨3, 0, none⟩)]
     (qcbAt s 3).kidx = (qcbAt s 3).ridx ∧ (qcbAt s 3).held = none) := by decide

/-- A direct packet of two words, and one of a wrong length; events to send and to give up. -/
theorem witness_FabricEvents_others :
    (let t := one (.nop 0)
     let s := { t with fabric := { t.fabric with pktBuf := [(0, 0x00020000)] } }
     s.fabric.loaded = true ∧ s.fabric.direct = none ∧ (tgetD s.fabric.pktBuf 0 0).toNat / 65536 = 2 ∧ knownType 0 = true ∧
       parseFields 2 ([] : List Word) = some []) ∧
    ([0, 63, 64].all (fun n =>
      let s := { one (.nop 0) with owner := .owned 5 6 2000, events := [⟨7, [], n, 0⟩], wall := 1000 }
      s.events.find? (fun x => x.num == BitVec.ofNat 32 7) == some ⟨7, [], n, 0⟩ && ownerOf s == some (5, 6) && decide (0 + 1000 ≤ s.wall))) = true ∧
    (let t := queued [] (one (.nop 0))
     let l := tgetD t.launches 4 default
     let s := { t with fabric := { t.fabric with direct := some (.seed { l with ident := 9 } 5 []) } }
     heldBy s .direct = some (.seed { l with ident := 9 } 5 []) ∧ PktSrc.direct ∈ runningSources s ∧ levelDone s 1 l.graph = false ∧
       levelCancelled s 3 l.graph = false ∧ (queueAt s 5).ctx = some l.ctx ∧ streamOpenTo s l.ctx l.stream = true ∧
       identTaken s l.ctx 0 9 = false ∧ (queueAt s 5).spilled = 0 ∧ (queueAt s 6).ctx ≠ some l.ctx ∧
       levelCancelled (withLevel 3 (fun x => { x with cancel := true }) s) 3 l.graph = true ∧
       levelDone (withLevel 3 (fun x => { x with done := true }) s) 1 l.graph = true) ∧
    (let t := queued [] (one (.nop 0))
     let s := { t with fabric := { t.fabric with direct := some (.unbind 0 5) } }
     heldBy s .direct = some (.unbind 0 5) ∧ (queueAt s 5).ctx = some 0 ∧ (queueAt s 5).chip = [] ∧ (queueAt s 5).spilled = 0 ∧
       (queueAt s 6).ctx ≠ some 0) ∧ (queueAt (queued [task1] (one (.nop 0))) 5).isEmpty = false := by decide

/-- A guard, a header and a word of a pushed packet that are poisoned; packets written to PKTBUF
of an unknown type, with fields that do not parse, and with both. -/
theorem witness_FabricEvents_ends :
    ([0x42010, 0x4200C, 0x42014] : List Nat).all (fun bad =>
      let s := { ring3 ([0, 0, 0, 0x00060000, 3, 0, 0, 0, 0, 0] : List Word)
          (queue3 (fun q => { q with ridx := 3, kidx := 9 }) [(0, ⟨3, 0, none⟩)]) with memPoison := [bad] }
      let q := qcbAt s 3
      let r1 := readsRing q 4 1 s
      let r2 := readsRing q 3 1 r1
      s.fabric.loaded && (slotOf s 3).isSome && q.en && !q.err && q.held == none && q.kidx != q.ridx && q.header == none &&
        ringWord s q 4 == (if bad = 0x42010 then none else some 3) &&
        (bad == 0x42010 || ringWord r1 q 3 == (if bad = 0x4200C then none else some 0x00060000)) &&
        (bad != 0x42014 || ringWords r2 q 4 5 == none)) = true ∧
    (([0x00021FFF, 0x00020FFF, 0x00030000, 0x00030FFF] : List Word).all (fun w =>
      let t := one (.nop 0)
      let s := { t with fabric := { t.fabric with pktBuf := [(0, w)] } }
      s.fabric.loaded && s.fabric.direct == none && bits w.toNat 15 13 == 0 &&
        (parseFields (w.toNat / 65536) (((List.range (w.toNat / 65536)).map (fun j => tgetD s.fabric.pktBuf j 0)).drop 2) == none) ==
          (w.toNat / 65536 == 3) && knownType (bits w.toNat 11 0) == (bits w.toNat 11 0 == 0))) = true := by decide

/-- Request 5 of master 7. -/
def req5 : Req := ⟨7, 8, 5⟩

/-- The device with an owner. -/
def ownedBy (o : Owner) : State := { one (.nop 0) with owner := o }

/-- Its owner is the master of the request. -/
def mine : State := ownedBy (.owned 7 8 10)

/-- The device with what is kept of the master. -/
def kept (high : Option Word) (rs : List Reply) (s : State) : State := { s with masters := [⟨7, 8, high, rs⟩] }

/-- `performed`, as it is computed. -/
def performedB (r : Req) (a : Access) (s : State) : Bool :=
  r.master != 0 && (masterOf s r).replies.all (fun x => x.seq != r.seq) && !staleSeq (masterOf s r) r.seq &&
    match a with
    | .core => true
    | .anyone => s.fabric.loaded
    | .owner => s.fabric.loaded && ownerOf s == some (r.master, r.ip)
    | .recovery => !s.fabric.loaded || ownerOf s == some (r.master, r.ip)

theorem performed_of {r : Req} {a : Access} {s : State} (h : performedB r a s = true) : performed r a s := by
  cases a <;> simp [performedB, performed] at h ⊢ <;> grind

/-- Each request from its owner; from master 0; with a kept reply; stale by 33 and not by 32; from another master; before the
fabric is loaded. -/
theorem witness_LenselRequests :
    ([.regrd req5 0 1, .regwr req5 0x10 [5], .claim req5, .renew req5, .handover req5 9, .releaseOwner req5, .halt req5 0 true,
      .stepThread req5 0 0 (.lane 0), .stepcrew req5 0 0, .runCtx req5 0, .dread req5 0 0 0 4, .attquery req5 [], .recbegin req5 1,
      .recdata req5 0 [], .reccommit req5, .recreset req5, .recinfo req5, .evack req5 3] : List Instr).all (fun i =>
      match requestForm i with
      | some (_, r, a) => performedB r a mine && performedB r .core (ownedBy (.owned 9 9 10)) && performedB r .core State.reset
      | none => false) = true ∧
    requestForm (.claim ⟨0, 8, 5⟩) = some (3, ⟨0, 8, 5⟩, .anyone) ∧
    (masterOf (kept (some 5) [⟨131, 5, 0, []⟩] mine) req5).replies.find? (fun y => y.seq == 5) = some ⟨131, 5, 0, []⟩ ∧
    staleSeq (masterOf (kept (some 38) [] mine) req5) 5 = true ∧ (32 : Nat) < ((38 : Word) - 5).toNat ∧
    performedB req5 .owner (kept (some 37) [] mine) = true ∧ State.reset.fabric.loaded = false ∧ mine.fabric.loaded = true := by decide

/-- The owner states that CLAIM, RENEW and HANDOVER tell apart. -/
theorem witness_LenselRequests_owner :
    performedB req5 .anyone (ownedBy .none) = true ∧ performedB req5 .anyone (ownedBy (.owned 9 9 10)) = true ∧
    performedB req5 .anyone mine = true ∧ performedB req5 .anyone (ownedBy (.offered 9 9 10 7)) = true ∧
    performedB req5 .anyone (ownedBy (.offered 9 9 10 6)) = true ∧ (one (.nop 0)).wall < 10 ∧
    performedB req5 .anyone { ownedBy (.owned 9 9 10) with wall := 10 } = true ∧
    performedB req5 .anyone { ownedBy (.offered 9 9 10 6) with wall := 10 } = true ∧ performedB req5 .owner mine = true ∧
    performedB req5 .owner (ownedBy (.offered 7 8 10 6)) = true := by decide

theorem witness_DebugRequests :
    ([.halt req5 0 true, .stepThread req5 0 0 (.lane 0), .stepcrew req5 0 0, .runCtx req5 0, .dread req5 0 0 0 4] : List Instr).all (fun i =>
      (debugForm i).isSome) = true ∧
    performedB req5 .owner mine = true ∧ tget { mine with contexts := [] }.contexts 0 = none ∧ performedB req5 .owner { mine with contexts := [] } = true ∧
    (tget mine.contexts 0).map (·.status) = some .resident ∧ runsSystem (crewAt mine 0) = false ∧ trises (crewAt mine 0).threads = true ∧
    (let s := { mine with contexts := [(0, { programContext with halted := true })] }
     performedB req5 .owner s = true ∧ (∃ c, halted s 0 0 c ∧ (∀ o ∈ c.ops, o.done = true)) ∧
       ((threadAt (crewAt s 0) 0).map outOfRun) = some false ∧ ((threadAt (crewAt (runs .exited s) 0) 0).map outOfRun) = some true ∧
       readWaits s 0 0 = false ∧ readWaits { crew (fun c => { c with ops := [loading] }) s with
         atoms := [{ (default : Atom) with op := 9 }] } 0 0 = true ∧
       (threadAt (crewAt (runs (.waiting (.sleep 9 false)) s) 0) 0).map (·.run) = some (.waiting (.sleep 9 false)) ∧
       0xFFB30 + 1232 = 0x100000) := by
  refine ⟨by decide, by decide, by decide, by decide, by decide, by decide, by decide, by decide, ⟨crewAt mine 0, ⟨by decide, by decide, by decide,
    ⟨{ programContext with halted := true }, by decide⟩⟩, by decide⟩, by decide⟩

/-- A session of the master, and one of another. -/
def inSession (m : DWord) (s : State) : State := { s with boot := { s.boot with session := some ⟨m, 8, 1, [(0, 0), (1, 0), (2, 0), (3, 0)], 3⟩ } }

theorem witness_RecoveryRequests :
    performedB req5 .core mine = true ∧ ([1, 2, 3, 4, 5, 6, 7, 8] : List Word).length = 8 ∧ performedB req5 .recovery mine = true ∧
    performedB req5 .recovery (inSession 7 mine) = true ∧ performedB req5 .recovery (inSession 9 mine) = true ∧
    performedB req5 .recovery (inSession 7 State.reset) = true ∧ mine.boot.session = none ∧
    ((openSession (inSession 7 mine)).map (fun x => (x.master, x.ip)) = some (7, 8) ∧
      (openSession (inSession 9 mine)).map (fun x => x.master) = some 9 ∧ openSession mine = none ∧
      openSession { inSession 7 mine with wall := 20000000 } = none) ∧
    resetNext { inSession 7 mine with turns := [.reset] } = true ∧ resetNext (inSession 7 mine) = false ∧
    0xFC00 + 1024 ≤ regionSize 1 ∧ regionSize 1 < 0xFC01 + 1024 := by decide

/-- A staged image without the magic word. -/
theorem witness_RecoveryRequests_image :
    imageVerifies 1 (stagedImage ⟨7, 8, 1, [(0, 0), (1, 0), (2, 0), (3, 0)], 3⟩) = false := by
  have h : magicFits (imageHeader (stagedImage ⟨7, 8, 1, [(0, 0), (1, 0), (2, 0), (3, 0)], 3⟩)) = false := by rfl
  simp only [imageVerifies, h, Bool.false_and]

/-- The device with a direct packet that has been read; with one of queue 3, whose PRIV is as given. -/
def directNext (s : State) : State := { s with fabric := { s.fabric with direct := some .parsing } }

/-- A field with its words. -/
def field (id : Nat) (ws : List Word) : PktField := ⟨id, false, ws⟩

/-- The fields that the packets of the small device take: CTX, ROOT, HANDLER, FQ, SAVE, and the others by number. -/
def fieldsOf (need : List Nat) : List PktField :=
  field 1 [0] :: need.map (fun id => field id
    ((tgetD ([(2, [0x10000, 0]), (3, [0x1000, 0, 0, 0, 1]), (4, [0x2000, 0, 64]), (5, [0, 0]), (6, [5, 6]), (7, [1, 2]),
      (8, [0x1000, 0, 0, 0, 0, 0, 0x00080000, 7]), (9, [0x06000000, 0x04040000, 0x04080000]), (0xA, [7]), (0xB, [0x4000, 0, 64]),
      (0xC, [0, 0]), (0xD, [0]), (0xE, [0]), (0x10, [0x100, 0, 5, 0]), (0x11, [0x100, 0, 0, 1]), (0x12, [7, 0]),
      (0x13, [0x40000, 0, 0x80000, 0, 0x10000, 0x30000, 0]), (0x14, [10, 10, 2, 0, 0, 0]), (0x15, [0x200, 0]), (0x16, [9])] :
      Table (List Word)) id [])))

/-- Each packet of a direct write with its fields, passing every check that packets share. -/
def passes (mk : PktSrc → List PktField → Instr) (more : List PktField) (s : State) : Bool :=
  match packetForm (mk .direct []) with
  | some (_, _, priv, k, need) =>
    heldBy s .direct == some .parsing && packetStatus s .direct (fieldsOf need ++ more) priv k need == 0 &&
      packetCtx s .direct (fieldsOf need ++ more) k == 0
  | none => false

/-- The constructors of packets. -/
noncomputable def packetKinds : List (PktSrc → List PktField → Instr) :=
  [.nopPacket, .ctxnew, .ctxkill, .preempt, .ctxrun, .qbind, .qunbind, .recact, .limits, .wdrestart, .peers, .exportWin, .rxring,
   .migrate, .evict, .sopen, .sfree, .jobopen, .jobclose, .phaseopen, .phaseclose, .graphopen, .graphclose, .launch, .cancel, .waitPacket,
   .fencePacket, .seedpush, .seedpop, .seedfork]

theorem witness_ContextPackets :
    packetKinds.all (fun mk => passes mk [] (directNext (one (.nop 0)))) = true ∧
    heldBy (one (.nop 0)) .direct = none ∧
    packetStatus (directNext (one (.nop 0))) .direct [] true .named [] = 4 ∧
    packetStatus (directNext (one (.nop 0))) .direct [field 1 [5]] true .named [] = 4 ∧
    (let s := queue3 (fun q => { q with held := some .parsing }) [(0, ⟨3, 0, none⟩)]
     heldBy s (.queue 3) = some .parsing ∧ (qcbAt s 3).priv = false ∧ fieldStatus [] [field 1 [9]] = 0 ∧
       (9 : Word).toNat % 4096 ≠ (qcbAt s 3).ctx ∧
       ringWord (ring3 [0x00020000, 0] s) (qcbAt s 3) 0 = some 0x00020000 ∧
       packetStatus s (.queue 3) [] false .none [] = 0) := by decide

/-- A packet of a queue that ends, its context there and not. -/
theorem witness_ContextPackets_finish :
    (let s := queue3 (fun q => { q with header := some 0x00020000, kidx := 2, held := some .parsing }) [(0, ⟨3, 0, none⟩)]
     (qcbAt s 3).header = some 0x00020000 ∧ (tget s.contexts (qcbAt s 3).ctx).isSome = true ∧
       tget { s with contexts := [] }.contexts (qcbAt s 3).ctx = none ∧ 2 ≤ (qcbAt s 3).size) := by decide

/-- Context 0 as given, with a direct packet read. -/
def atPacket (f : Context → Context) : State := directNext (ctx0 f)

/-- A new context over the small device's tables; contexts resident, saved before they ran, and saved with an empty save area. -/
theorem witness_ContextPackets_contexts :
    (let f := fieldsOf [2, 3, 4, 5]
     let s := directNext { one (.nop 0) with contexts := [] }
     let s' := discardCopies 0 (fun _ => true) { s with contexts := tset s.contexts 0 (newContext f) }
     packetStatus s .direct f true .fresh [2, 3, 4, 5] = 0 ∧ tget s.contexts 0 = none ∧ 1 ≤ fieldNum f 3 4 ∧ fieldNum f 3 4 ≤ 4 ∧
       powerWithin (fieldNum f 4 2) 64 65536 = true ∧ field64 f 4 0 % 32 = 0 ∧ field64 f 2 0 % 8192 = 0 ∧ backed s (field64 f 2 0) = true ∧
       pagesMeet s' 0 (field64 f 4 0) (32 * fieldNum f 4 2) (firmPage s') = true) ∧
    (let f := fieldsOf [2, 3, 4, 5]
     let t := one (.nop 0)
     let s := directNext { t with contexts := [], mem := setBytes 0x30000 (bytesOf 8 0) t.mem }
     let s' := discardCopies 0 (fun _ => true) { s with contexts := tset s.contexts 0 (newContext f) }
     packetStatus s .direct f true .fresh [2, 3, 4, 5] = 0 ∧ tget s.contexts 0 = none ∧
       pagesMeet s' 0 (field64 f 4 0) (32 * fieldNum f 4 2) (firmPage s') = false) ∧
    passes .preempt [] (atPacket id) = true ∧
    ([none, some ⟨[], [], [], [], []⟩] : List (Option SavedCtx)).all (fun v =>
      passes .ctxrun [] (atPacket (fun x => { x with status := .saved, saved := v })) &&
        passes .ctxrun [] (atPacket (fun x => { x with status := .saved, saved := v, corrupt := true }))) = true ∧
    (let t := atPacket (fun x => { x with status := .saved, saved := some ⟨[], [], [], [], []⟩ })
     let s := { t with seams := [] }
     passes .ctxrun [] s = true ∧ s.memPoison.any (inArea ⟨[], [], [], [], []⟩) = false ∧
       s.mem.any (fun e => inArea ⟨[], [], [], [], []⟩ e.1) = false) := by decide

/-- A saved context with one crew, and one with an update in its stream's spill area. -/
theorem witness_ContextPackets_saved :
    passes .ctxrun [] (directNext (savedCtx0 .saved savedOne)) = true ∧
    (let v : SavedCtx := ⟨[], [], [(0, [update12 13])], [], []⟩
     let t := paged (savedCtx0 .saved v)
     let s := directNext { t with seams := [], streams := [(0, { stream12 with spill := 0x100 })] }
     passes .ctxrun [] s = true ∧ s.memPoison.any (inArea v) = false ∧ s.mem.any (fun e => inArea v e.1) = false ∧
       (streamsOf s 0).all (fun e => (streamAt s e.1).closes.isEmpty && decide (0 < (streamAt s e.1).c)) = true ∧
       (loadCtx s 0 (0x100 + 0x840) 16).isSome = true) := by decide

/-- Saved contexts whose areas nothing has spoilt, and a spill area without poison. -/
theorem witness_ContextPackets_whole :
    (savedCtx0 .saved savedOne).badReads = [] ∧
    (let v : SavedCtx := ⟨[], [], [(0, [update12 13])], [], []⟩
     let t := paged (savedCtx0 .saved v)
     let s := directNext { t with seams := [], streams := [(0, { stream12 with spill := 0x100 })] }
     s.badReads = [] ∧ ctxPoisoned s 0 (0x100 + 0x840) 16 = false) := by decide

/-- A record with the host that parks a lane at a header, one within a clause, and a helper. -/
theorem witness_ContextPackets_actions :
    ([id, modThread 0 1 (fun t => { t with clause := none })] : List (State → State)).all (fun f =>
      let s := f (parkedLane (atPacket (fun x => { x with host := [record7 7] })))
      [0, 1, 2, 3].all (fun act =>
        let fs := [field 1 [0], field 0x12 [7, act]]
        packetStatus s .direct fs true .named [0x12] == 0 && heldBy s .direct == some .parsing && packetCtx s .direct fs .named == 0) &&
      withHost s 0 7 && isParked s 0 7 && trises (crewAt s 0).threads) = true := by decide

/-- A free queue and bound ones, empty and not; a parked record; tables that can be read; a migration of one leaf. -/
theorem witness_ContextPackets_objects :
    (let s := directNext (one (.nop 0))
     passes .qbind [] s = true ∧ (queueAt s 7).ctx = none ∧ powerWithin 64 64 65536 = true ∧ pagesMeet s 0 0x4000 (64 * 64) (firmPage s) = true) ∧
    ([[], [task1]] : List (List Task)).all (fun ts =>
      passes .qunbind [] { directNext (one (.nop 0)) with queues := [(7, { TaskQueue.fresh with ctx := some 0, chip := ts })] }) = true ∧
    ((queueAt { one (.nop 0) with queues := [(7, { TaskQueue.fresh with ctx := some 0 })] } 7).isEmpty = true) ∧
    (let s := parkedLane (atPacket (fun x => { x with host := [record7 7] }))
     passes .recact [] s = true ∧ withHost s 0 7 = true ∧ isParked s 0 7 = true) ∧
    (let t := directNext (one (.nop 0))
     let s := { t with mem := setBytes 0x40100 (List.replicate 32 0) t.mem }
     let f := fieldsOf [0x11]
     passes .exportWin [] s = true ∧ passes .peers [] s = true ∧ passes .evict [] s = true ∧
       readTable s 0 f 8 = some [[0, 0, 0, 0, 0, 0, 0, 0]] ∧ makesUnused 0 0 [[0, 0, 0, 0, 0, 0, 0, 0]] = false ∧
       powerWithin 16 16 4096 = true) ∧
    (let s := directNext (one (.nop 0))
     passes .migrate [] s = true ∧ backed s 0x80000 = true ∧ backed s 0x8FFFF = true ∧
       (let t := { s with mem := setBytes 0x30000 (bytesOf 8 0x40C07) s.mem }; leafMaps t 0x40000 0x30000 = true)) := by decide

/-- Tables that cannot be read, and entries that the checks refuse. -/
theorem witness_ContextPackets_tables :
    (let s := directNext { one (.nop 0) with mem := setBytes 0x30000 (bytesOf 8 0) (one (.nop 0)).mem }
     let f := fieldsOf [0x11]
     passes .exportWin [] s = true ∧ passes .evict [] s = true ∧ passes .peers [] s = true ∧ readTable s 0 f 8 = none) ∧
    (let t := directNext (one (.nop 0))
     let s := { t with mem := setBytes 0x40100 (bytesOf 4 1 ++ List.replicate 28 0) t.mem }
     passes .exportWin [] s = true ∧ readTable s 0 (fieldsOf [0x11]) 8 = some [[1, 0, 0, 0, 0, 0, 0, 0]] ∧
       recWord [1, 0, 0, 0, 0, 0, 0, 0] 0 % 65536 ≠ 0) := by decide

theorem witness_WorkPackets_streams :
    (let f := fieldsOf [0x14, 0x15]
     let s := paged (directNext (one (.nop 0)))
     passes .sopen [] s = true ∧ streamLimits (fieldNum f 0x14 0) (fieldNum f 0x14 1) (fieldNum f 0x14 2) (field64 f 0x14 4) = true ∧
       spillTrap s 0 (field64 f 0x14 4) = none ∧ field64 f 0x15 0 % 8 = 0 ∧ (storeCtx 0 0x200 (bytesOf 8 0) s).isSome = true ∧
       (storeCtx 0 0x200 (bytesOf 8 0xFFFFFFFF) s).isSome = true) ∧
    ([stream12, { stream12 with state := .drained }] : List Stream).all (fun x =>
      passes .sfree [] (directNext (ticketed x (one (.nop 0)))) && streamNamed (ticketed x (one (.nop 0))) 0 0 == some 0) = true := by decide

/-- A stream slot that is free below others, and none free. -/
theorem witness_WorkPackets_slots : lowestFree (one (.nop 0)) 0 ∧ lowestFree (ticketed stream12 (one (.nop 0))) 1 := by
  unfold lowestFree; exact ⟨⟨by decide, by decide, by decide⟩, ⟨by decide, by decide, by decide⟩⟩

/-- LEVEL with a code and an identifier. -/
def levelField (code : Word) (ident : Word) : List PktField := [field 1 [0], field 0xC [code, ident]]

/-- A job with none open, a phase in the open job, while the phase before runs and after it, a graph in the open phase. -/
theorem witness_WorkPackets_opens :
    (let s := directNext { one (.nop 0) with levels := [] }
     packetStatus s .direct (levelField 3 9) false .own [0xC] = 0 ∧ levelCode (levelField 3 9) = 3 ∧ identTaken s 0 3 9 = false ∧ openJob s 0 = none) ∧
    (let s := directNext (one (.nop 0))
     openJob s 0 = some 1 ∧ phaseRunning s 1 = true ∧ identTaken s 0 2 9 = false ∧ ctxPhase s 0 = some 2 ∧ identTaken s 0 1 9 = false ∧
       identTaken s 0 1 0 = true ∧ packetStatus s .direct (levelField 2 9) false .own [0xC] = 0) ∧
    (let s := directNext (withLevel 2 (fun l => { l with closed := true, done := true }) (one (.nop 0)))
     openJob s 0 = some 1 ∧ phaseRunning s 1 = false) := by decide

/-- Levels to close with children and without; to be cancelled, waited for and fenced, complete and not; a name of none. -/
theorem witness_WorkPackets_levels :
    ([(3, 1), (2, 2), (1, 3)] : List (Word × Nat)).all (fun e => [0, 1].all (fun n =>
      let s := directNext (withLevel e.2 (fun l => { l with counter := n }) (one (.nop 0)))
      levelNamed s 0 e.1.toNat 0 == some e.2 && !(tgetD s.levels e.2 default).closed && !(tgetD s.levels e.2 default).done &&
        packetStatus s .direct (levelField e.1 0) false .own [0xC] == 0 && !levelDone s e.1.toNat e.2 &&
        levelDone (withLevel e.2 (fun l => { l with done := true }) s) e.1.toNat e.2)) = true ∧
    (let s := directNext (one (.nop 0))
     levelNamed s 0 0 0 = some 4 ∧ levelDone s 0 4 = false ∧ levelNamed s 0 1 77 = none ∧ (storeCtx 0 0x100 (bytesOf 8 5) s).isSome = true) := by
  decide

/-- A launch that passes its checks, one for a queue that is not bound, one into a cancelled graph, and one that finds no
room. -/
theorem witness_WorkPackets_launch :
    (let f := [field 1 [0], field 0xC [0, 9], field 0xD [0], field 8 [0x1000, 0, 0, 0, 0, 0, 0x00080000, 7],
       field 9 [0x06000000, 0x04040000, 0x04080000], field 0xA [5]]
     let s := directNext (queued [] (one (.nop 0)))
     packetStatus s .direct f false .own [8, 9, 0xA, 0xC, 0xD] = 0 ∧ launchStatus s 0 f = 0 ∧ (queueAt s 5).spilled = 0 ∧
       (queueAt s 5).chip.length < 32 ∧ launchStatus (directNext (one (.nop 0))) 0 f ≠ 0 ∧ levelNamed s 0 1 0 = some 3 ∧
       (let t := { s with queues := [(5, { TaskQueue.fresh with ctx := some 0, size := 64, t := 64 })] }
        launchStatus t 0 f = 0 ∧ (queueAt t 5).size ≤ (queueAt t 5).spilled ∧ 0 < (queueAt t 5).size)) := by decide

/-- The fields of a LAUNCH of a record, with views, for queue 5 and a graph. -/
def launchFields (v r : List Word) (graph : Word) (more : List PktField) : List PktField :=
  [field 1 [0], field 0xC [0, 9], field 0xD [graph], field 8 r, field 9 v, field 0xA [5]] ++ more

/-- A launch that meets what its checks ask, the last view, crew and frame that they admit; one with each of them one beyond; one
into a closed graph and a cancelled one; and one with a ticket stream, open, unknown, and in dispatch mode. -/
theorem witness_WorkPackets_checks :
    (let v : List Word := [0x06000000, 0x04040000, 0x04080000]
     let r : List Word := [0x1000, 0, 0, 0, 0, 0, 0x00080000, 7]
     let s := directNext (queued [] (one (.nop 0)))
     let t := directNext (ticketed stream12 (queued [] (one (.nop 0))))
     packetStatus s .direct (launchFields v r 0 []) false .own [8, 9, 0xA, 0xC, 0xD] = 0 ∧ levelNamed s 0 1 0 = some 3 ∧
       levelNamed s 0 1 7 = none ∧ levelCancelled s 3 3 = false ∧ (tgetD s.levels 3 default).closed = false ∧
       launchStatus s 0 (launchFields v r 0 []) = 0 ∧ launchStatus s 0 (launchFields [0x06100000, 0x04040000, 0x04080000] r 0 []) = 4 ∧
       launchStatus (withLevel 3 (fun x => { x with closed := true }) s) 0 (launchFields v r 0 []) = 4 ∧
       launchStatus (withLevel 3 (fun x => { x with cancel := true }) s) 0 (launchFields v r 0 []) = 8 ∧
       launchStatus t 0 (launchFields v r 0 [field 0xE [0]]) = 0 ∧ launchStatus t 0 (launchFields v r 0 [field 0xE [1]]) = 4 ∧
       launchStatus { t with streams := [(0, { stream12 with dispatch := true })] } 0 (launchFields v r 0 [field 0xE [0]]) = 4) := by
  decide

/-- Views and records on both sides of their limits. -/
theorem witness_WorkPackets_limits :
    viewsFit 0x06000000 [0x04040000, 0x04080000] ∧ viewsFit 0x060FD000 [0x08080000] ∧ ¬viewsFit 0x060FD080 [] ∧
      ¬viewsFit 0x06100000 [] ∧ ¬viewsFit 0x06000001 [] ∧ ¬viewsFit 0x06000000 [0x08090000] ∧
      recordFits [0x1000, 0, 0, 0, 0, 0, 0x00080000, 7] ∧ recordFits [0x1000, 0, 0, 0, 0, 0, 0xBF, 7] ∧
      ¬recordFits [0x1000, 0, 0, 0, 0, 0, 0xC0, 7] ∧ ¬recordFits [0x1002, 0, 0, 0, 0, 0, 0, 7] ∧
      ¬recordFits [0x1000, 0, 0, 0, 1, 0, 0, 7] := by
  refine ⟨?_, ?_, ?_, ?_, ?_, ?_, ?_, ?_, ?_, ?_, ?_⟩ <;> simp [viewsFit, recordFits]

/-- Each thing that a parser may hold, come about and not. -/
theorem witness_WorkPackets_held :
    (let s := holding (.level 0 1 3) (one (.nop 0))
     heldBy s .direct = some (.level 0 1 3) ∧ levelDone s 1 3 = false ∧
       levelDone (withLevel 3 (fun l => { l with done := true }) s) 1 3 = true) ∧
    ([CtxStatus.saved, .preempting] : List CtxStatus).all (fun st =>
      let s := holding (.preempt 0) (ctx0 (fun x => { x with status := st }))
      heldBy s .direct == some (.preempt 0) && (tget s.contexts 0).map (·.status) == some st) = true ∧
    (let s := holding (.move 6) moving
     heldBy s .direct = some (.move 6) ∧ (tget s.migrations 6).isSome = true ∧ tget { s with migrations := [] }.migrations 6 = none) ∧
    ([Held.kill 0, .ended 7, .parsing] : List Held).all (fun h => heldBy (holding h (one (.nop 0))) .direct == some h) = true ∧
    (let s := holding (.phase 0 9 1) (one (.nop 0))
     let t := withLevel 2 (fun l => { l with closed := true, done := true }) s
     jobStands s 1 = true ∧ phaseRunning s 1 = true ∧ phaseRunning t 1 = false ∧ jobStands t 1 = true ∧ identTaken t 0 2 9 = false ∧
       jobStands (withLevel 1 (fun l => { l with closed := true }) t) 1 = false ∧
       identTaken (holding (.phase 0 0 1) (withLevel 2 (fun l => { l with closed := true }) s)) 0 2 0 = true) := by decide

/-- A schedule with an entry of each operation for the phase that comes next, and one whose range is not of whole lines. -/
theorem witness_WorkPackets_schedule :
    ([[1, 0, 0x80, 0, 0x80, 0, 0, 0], [1, 1, 0x80, 0, 0x80, 0, 0, 0], [1, 2, 0x80, 0, 0x80, 0, 0, 0], [1, 0, 0x40, 0, 0x80, 0, 0, 0]] :
        List (List Word)).all (fun ws =>
      let s := ctx0 (fun x => { x with evicts := [⟨ws⟩] })
      match tget s.contexts 0 with
      | some x => x.evicts.filter (fun e => recWord e.words 0 == (tgetD s.levels 1 default).made) == [⟨ws⟩]
      | none => false) = true := by decide

theorem witness_WorkPackets_seeds :
    passes .seedpush [] (atPacket id) = true ∧ passes .seedpop [] (atPacket (fun x => { x with seeds := [1, 2] })) = true ∧
      passes .seedfork [] (atPacket (fun x => { x with seeds := List.replicate 15 1 })) = true ∧
      passes .seedpush [] (atPacket (fun x => { x with seeds := List.replicate 16 1 })) = true ∧
      passes .seedpop [] (atPacket id) = true ∧ programContext.seeds.length = 1 := by decide

end Sys2Proof.Tests
end

/-!
PROOF of StepNeverStops (O48). A fault of the model has one source: the group in focus is missing when an instruction word
issues or a clause is fetched. So the proof follows the focus: every part of the step that runs an instruction word first
puts the focus where a group stands, and what happens before the word issues leaves a group there.
-/
namespace Sys2Proof.Machine

/-! ## Where a group stands -/

/-- Whether a thread with a key leads to a group: it runs or waits, has its lane, and its key is of its kind (05 R105). -/
def standsAs (k : Nat) (t : Thread) : Bool := canIssue t && kindOk k t

theorem groupOf_isSome (s : State) (slot k : Nat) :
    (groupOf s slot k).isSome = (threadAt (crewAt s slot) k).any (standsAs k) := by
  unfold groupOf standsAs
  cases threadAt (crewAt s slot) k with
  | none => rfl
  | some t => cases hc : canIssue t && kindOk k t <;> simp [hc]

/-- The lowest thread of a group leads to a group itself. -/
theorem groupOf_lead_isSome {s : State} {slot k : Nat} {g : Group} (h : groupOf s slot k = some g) :
    (groupOf s g.slot g.lead).isSome := by
  obtain ⟨hg, _, _⟩ := groupOf_isGroup h
  obtain ⟨u, hu, _, hrun, hkind⟩ := hg.members g.lead hg.lead_mem
  simp [groupOf_isSome, hu, standsAs, hrun, hkind]

theorem tkey_tidOf (k : Nat) : tkey (tidOf k) = k := by
  unfold tidOf
  split
  · rfl
  · simp only [tkey]
    omega

theorem focusGroup_refocus (s : State) (slot : Nat) (who : Tid) :
    focusGroup { s with focus := ⟨slot, who⟩ } = groupOf s slot (tkey who) := rfl

/-! ## Waiting out a wait mask leaves every group standing -/

theorem modCrew_of_absent {s : State} {slot : Nat} (f : Crew → Crew) (h : tget s.crews slot = none) :
    modCrew slot f s = s := by
  simp [modCrew, tmod, h]

theorem groupOf_modCrew_isSome {f : Crew → Crew} (s : State) (slot x j : Nat)
    (hf : ∀ c, (threadAt (f c) j).any (standsAs j) = (threadAt c j).any (standsAs j)) :
    (groupOf (modCrew slot f s) x j).isSome = (groupOf s x j).isSome := by
  cases hp : tget s.crews slot with
  | none => rw [modCrew_of_absent f hp]
  | some c =>
    rw [groupOf_isSome, groupOf_isSome]
    by_cases hx : x = slot
    · subst hx
      rw [crewAt_modCrew_same f (by simp [hp]), hf]
    · rw [crewAt_modCrew_other f hx]

theorem groupOf_modThread_isSome {f : Thread → Thread} (s : State) (slot k x j : Nat)
    (hf : ∀ t, standsAs k (f t) = standsAs k t) :
    (groupOf (modThread slot k f s) x j).isSome = (groupOf s x j).isSome := by
  refine groupOf_modCrew_isSome s slot x j (fun c => ?_)
  rw [threadAt_setThreads]
  split
  · next hj =>
    subst hj
    cases threadAt c j with
    | none => rfl
    | some t => exact hf t
  · rfl

theorem groupOf_waitedSlots_isSome (s : State) (slot k mask x j : Nat) :
    (groupOf (waitedSlots slot k mask s) x j).isSome = (groupOf s x j).isSome :=
  groupOf_modCrew_isSome s slot x j (fun _ => rfl)

theorem focusGroup_passThread_isSome (slot k : Nat) (s : State) :
    (focusGroup (passThread slot k s)).isSome = (focusGroup s).isSome := by
  unfold passThread
  split
  · split
    · rfl
    · refine (groupOf_modThread_isSome _ slot k _ _ ?_).trans (groupOf_waitedSlots_isSome s slot k _ _ _)
      exact fun _ => rfl
  · rfl

theorem focusGroup_passMask {g : Group} {s : State} (h : (focusGroup s).isSome) :
    (focusGroup (passMask g s)).isSome :=
  List.foldlRecOn (motive := fun t => (focusGroup t).isSome) g.keys _ h
    (fun t ht k _ => (focusGroup_passThread_isSome g.slot k t).trans ht)

/-! ## What is done for a group in focus -/

/-- Instruction words, the fetch of a clause and events alike: `exec` answers a next state when a group is in focus. -/
theorem exec_next {s : State} (i : Instr) (h : (focusGroup s).isSome) : ∃ t, exec i s = .next t := by
  obtain ⟨g, hg⟩ := Option.isSome_iff_exists.mp h
  by_cases hf : i = .clauseFetch
  · subst hf
    exact execClauseFetch_next hg
  · cases hw : i.isWord with
    | true => exact exec_word_next hw hg
    | false => exact exec_event_next i s hw hf

theorem runWord_next {s : State} (g : Group) (h : (focusGroup s).isSome) : ∃ t, runWord g s = .next t := by
  unfold runWord
  split
  · exact exec_next _ h
  · exact ⟨_, rfl⟩

theorem actGroup_next {s : State} (g : Group) (h : (focusGroup s).isSome) : ∃ t, actGroup g s = .next t := by
  unfold actGroup
  split
  · exact ⟨_, rfl⟩
  · split
    · exact exec_next _ h
    · split
      · exact ⟨_, rfl⟩
      · exact runWord_next g (focusGroup_passMask h)

theorem afterwards_next {r : Host.Outcome State Fault Refusal} (f : State → State) (h : ∃ t, r = .next t) :
    ∃ t, afterwards f r = .next t := by
  obtain ⟨t, rfl⟩ := h
  exact ⟨f t, rfl⟩

/-! ## The turns -/

theorem performPacket_next (type : Nat) (src : PktSrc) (f : List PktField) (s : State) :
    ∃ t, performPacket type src f s = .next t := by
  unfold performPacket
  split <;> exact ⟨_, rfl⟩

theorem stepTurn_next (slot : Nat) (who : Tid) (s : State) : ∃ t, stepTurn slot who s = .next t := by
  unfold stepTurn
  split
  · exact ⟨_, rfl⟩
  · split
    · exact ⟨_, rfl⟩
    · next g hg =>
      refine afterwards_next _ (actGroup_next g ?_)
      rw [focusGroup_refocus, hg]
      rfl

/-- A group acts when the focus is put on its lowest thread, as `issuePair` puts it. -/
theorem actGroup_refocus_next {s : State} {g x : Group} (h : (groupOf s g.slot g.lead).isSome) :
    ∃ t, actGroup x { s with focus := ⟨g.slot, tidOf g.lead⟩ } = .next t :=
  actGroup_next x (by rwa [focusGroup_refocus, tkey_tidOf])

theorem issuePair_next {s : State} {g : Group} (h : Group) (hg : (groupOf s g.slot g.lead).isSome) :
    ∃ t, issuePair g h s = .next t := by
  obtain ⟨t, ht⟩ := actGroup_refocus_next (x := g) hg
  simp only [issuePair, ht]
  split
  · next x hx =>
    refine afterwards_next _ (actGroup_refocus_next ?_)
    rw [hx]
    rfl
  · exact ⟨_, rfl⟩

theorem pairTurn_next (a b : Nat) (who other : Tid) (s : State) : ∃ t, pairTurn a b who other s = .next t := by
  unfold pairTurn
  split
  · next g h hg hh =>
    split
    · split
      · exact issuePair_next h (groupOf_lead_isSome hg)
      · exact issuePair_next g (groupOf_lead_isSome hh)
    · exact ⟨_, rfl⟩
  · exact ⟨_, rfl⟩

theorem unknownMessage_next (type : Nat) (r : Req) (s : State) : ∃ t, unknownMessage type r s = .next t := by
  unfold unknownMessage
  split
  · exact ⟨_, rfl⟩
  · exact request_next ..

theorem runTurn_next (t : Turn) (s : State) : ∃ u, runTurn t s = .next u := by
  cases t with
  | act i =>
    simp only [runTurn]
    split
    · exact ⟨_, rfl⟩
    · next h =>
      rw [Bool.or_eq_true, not_or, Bool.not_eq_true, beq_iff_eq] at h
      exact exec_event_next i s h.1 h.2
  | packet type src f => exact performPacket_next type src f s
  | issue slot who => exact stepTurn_next slot who s
  | pair a b who other => exact pairTurn_next a b who other s
  | read r ctx slot off len => exact exec_event_next (.dread r ctx slot off len) s rfl nofun
  | unknown type r => exact unknownMessage_next type r s
  | gang slot keys => exact ⟨_, rfl⟩
  | nak crew copy => exact ⟨_, rfl⟩
  | unserved h => exact ⟨_, rfl⟩
  | elapse clocks us => exact ⟨_, rfl⟩
  | lag b => exact ⟨_, rfl⟩
  | reset => exact ⟨_, rfl⟩

/-! ## The round -/

theorem threadTurn_next (s : State) : ∃ t, threadTurn s = .next t := by
  unfold threadTurn
  split
  · next g hg => exact afterwards_next _ (actGroup_next g (by simp [hg]))
  · exact ⟨_, rfl⟩

theorem roundTurn_next (s : State) : ∃ t, roundTurn s = .next t := by
  unfold roundTurn
  split
  · exact ⟨_, rfl⟩
  · split
    · exact threadTurn_next s
    · dsimp only
      split
      · exact ⟨_, rfl⟩
      · exact threadTurn_next (moveFocus s)

theorem happen_next (s : State) : ∃ t, happen s = .next t := by
  unfold happen
  split
  · exact runTurn_next _ _
  · split
    · exact roundTurn_next s
    · exact ⟨_, rfl⟩

/-- Settles O48: whatever happens next in a state answers a next state, and what ends every step changes that state only. -/
theorem stepNeverStops : Obligations.StepNeverStops :=
  fun s => afterwards_next keepTime (happen_next s)

end Sys2Proof.Machine
